-- ==== Sys2Proof/Word.lean ====
section
/-! DEFINITION. The word types of the model, and the plain data types that commands and the state share:
unit numbers, requesters, places of faults, pass generators, exchange schedules, ledger totals. -/

namespace Sys2Proof

/-- One byte of memory. -/
abbrev Byte := BitVec 8
/-- A 16-bit field. -/
abbrev W16 := BitVec 16
/-- A 32-bit field or index. -/
abbrev W32 := BitVec 32
/-- A 64-bit word, the width of every register (R350) and of every lane (R52). -/
abbrev W64 := BitVec 64
/-- A 128-bit value: an accumulator element (R143). -/
abbrev W128 := BitVec 128

/-- A host function HF0 to HF15. -/
abbrev HF := Fin 16
/-- A ring identifier (R247). -/
abbrev RingId := Fin 65536
/-- A Hearth slice, or the memory stack beside it. -/
abbrev SliceId := Fin 24
/-- A plane of the Flue. -/
abbrev PlaneId := Fin 4
/-- A Stoke quarter. -/
abbrev QuarterId := Fin 4
/-- A Rick pool of one slice (R52). -/
abbrev PoolId := Fin 6
/-- A port of the system matrix towards memory: 0 to 23 the stacks, 24 the chip-fabric host port. -/
abbrev PortId := Fin 25

/-- The three product variants (Table 00-1). -/
inductive Variant where
  | ptu24S
  | ptu16S
  | ptu24
  deriving DecidableEq, Repr, Inhabited

/-- The lifecycle states of Table 13-7. -/
inductive Lifecycle where
  | green
  | seasoned
  | service
  | ret
  | spent
  deriving DecidableEq, Repr, Inhabited

/-- The stages of Table 13-1, and `reset`: the time between the release of ptu_rst_n and the first
stage, in which the window reads 0 (R306). -/
inductive Stage where
  | reset
  | tinder
  | kindling
  | banked
  | quenched
  deriving DecidableEq, Repr, Inhabited

/-- The firmware components of Table 12-1. -/
inductive Comp where
  | boot
  | kernel
  | schedA
  | schedB
  | admin
  | log
  | ledger
  | health
  | keys
  | test
  deriving DecidableEq, Repr, Inhabited

/-- A requester of the register window (Table 15-1): a host function by its fabric tag, the management
port, or a firmware partition. -/
inductive Who where
  | host (h : HF)
  | mgmt
  | fw (c : Comp)
  deriving DecidableEq, Repr

/-- What the (72,64) code finds in the words of one response. -/
inductive Ecc where
  | clean
  | corrected
  | uncorrectable
  deriving DecidableEq, Repr, Inhabited

/-- The detection points of Table 14-1 that find uncorrectable words. -/
inductive Place where
  | rick (n : SliceId) (pool : PoolId) (bank : Fin 128) (row : Fin 1024)
  | kiln (n : SliceId)
  | turner (n : SliceId)
  | tileFile (n : SliceId)
  | charRegs (n : SliceId)
  | accumulators (n : SliceId)
  | patternStore (n : SliceId)
  | flit (pl : PlaneId)
  | directLane (n : SliceId)
  | bypass (n : SliceId)
  | hostPath
  | stokeEntry
  | pendingVector (word : Fin 1024)
  | syncCounter (h : HF) (k : Fin 256)
  | xlateCache (entry : Nat)
  | bellowsSram (c : Comp)
  | signalWrite
  deriving DecidableEq, Repr

/-- How one pass produces its rows (Table 03-6, the pattern pass of R68 to R70, the turner of R75). -/
inductive Gen where
  | seq
  | auto (n k : Nat) (order eval : Bool)
  | nrot (n s : Nat)
  | brev (n : Nat)
  | brevInv (n : Nat)
  | turner
  | pattern (e0 : Nat)
  /-- Rows in order, sorted by the keys that stand in pool `kp` beside them (R64, R138). -/
  | sorted (kp : Nat)
  /-- A pass of the plans of Table 05-3 over block l, from row `row` on of the send stream, of the receive stream, and of the
  turner's tiles (R109, R116); a place pass writes poolful `part` of its destination block. -/
  | gather (l row : Nat)
  | place (l row part : Nat)
  | align (l row : Nat)
  /-- The pass whose sources a table or an index decides: LUTPOLY over half l of the polynomial, instance l of GATHER, SCATTER or
  WINDOW, from its row `row` on, and CONVERT in slice l (R120, R135, R136, R141, R215); and that of sample t of EXTRACT (R122). -/
  | index (l row : Nat)
  | extract (t : Nat)
  /-- The read side of every cycle (R59): the lanes on which the read select gives 0, those on which it negates, and those
  whose fill flag is set, before the rest of a generator. -/
  | lanes (zeros negs fills : List (BitVec 128)) (g : Gen)
  deriving DecidableEq, Repr, Inhabited

/-- A segment of a send or receive stream: a run of whole rows of one pool (Table 04-3). -/
structure Seg where
  pool : Nat
  first : Nat
  count : Nat
  deriving DecidableEq, Repr, Inhabited

/-- One round of an exchange: for every slice its destination (31: idle) and its number of words
(Table 04-4). -/
structure Round where
  dst : List Nat
  words : List Nat
  deriving DecidableEq, Repr, Inhabited

/-- An exchange: the participating slices, the send and receive segments and the rounds (R79, R80). `fsend` and `frecv` are the segments in the buddy's pools that hold the streams of a fenced slice (R91). -/
structure ExchSpec where
  slices : List Nat
  send : List Seg
  recv : List Seg
  fsend : List Seg
  frecv : List Seg
  rounds : List Round
  deriving DecidableEq, Repr, Inhabited

/-- Running totals of the Ledger (Table 13-11), each a sparse table of counters. -/
structure LedgerTotals where
  /-- ACTIVE: busy pclk cycles of slice n; a stored image counts units of 2^32. -/
  active : List (Nat × Nat) := []
  /-- BYTES: bytes moved on stack n; a stored image counts units of 2^30. -/
  bytes : List (Nat × Nat) := []
  /-- ERRORS: the 32-bit count at payload byte 4k is entry k. -/
  errors : List (Nat × Nat) := []
  /-- THERMAL: sensor t, bin b is entry 16t + b, in seconds. -/
  thermal : List (Nat × Nat) := []
  /-- SUPPLY: rail r, bin b is entry 16r + b, in seconds. -/
  supply : List (Nat × Nat) := []
  /-- POWERON: the stored power-on count. -/
  powerOn : Nat := 0
  deriving DecidableEq, Repr, Inhabited

end Sys2Proof
end

