-- ==== Sys2Proof/Syntax.lean ====
section
/-! DEFINITION. The commands of the block, one constructor for each row of spec/opcode_table.json.

A descriptor is named by its ring `r` and its index `p` (R249). Counts of a clock that a command carries
(`c` for pclk, `m` for nclk, `f` for fclk) are the count of that clock in the cycle in which the event occurs.
A tile instruction names its slice `n` and holds the fields of R182. -/

namespace Sys2Proof

/-- What answers the oldest fetch of a ring; bit i of `errs`: the host memory has answered the read of its i-th descriptor with an error
status (R367). -/
structure FetchAnswer where
  ring : RingId
  errs : Byte
  deriving DecidableEq, Repr

/-- What the offline self-test finds beside the slices and planes: whether Ember's tests failed, and the aging counts of the slices
(Table 13-4, R344). -/
structure EmberAndAges where
  emberFailed : Bool
  ages : List W16
  deriving DecidableEq, Repr

/-- One command: an event of the Birson PTU. -/
inductive Instr where
  /-- A write of `size` bytes with value `v` at offset `off` of the doorbell page of `page`, with tag `tag`. -/
  | doorbell (tag page : HF) (off size : Nat) (v : W64)
  | descriptorFetch (r : RingId)
  | descriptorFetched (a : FetchAnswer)
  | preCheck (r : RingId) (p : W32)
  | floodKeyDelivery (r : RingId) (p : W32)
  | dispatch (r : RingId) (p : W32)
  | deficitReplenish
  | schedulingRound (inst : Fin 2) (f : Nat)
  | sealedRefusalStart (r : RingId) (p : W32)
  | copy (r : RingId) (p : W32)
  | fill (r : RingId) (p : W32)
  | transpose (r : RingId) (p : W32)
  | bitrev (r : RingId) (p : W32)
  | automorph (r : RingId) (p : W32)
  | negrot (r : RingId) (p : W32)
  | pattern (r : RingId) (p : W32)
  | gather (r : RingId) (p : W32)
  | scatter (r : RingId) (p : W32)
  | window (r : RingId) (p : W32)
  | relayout (r : RingId) (p : W32)
  | baseconv (r : RingId) (p : W32)
  | rescale (r : RingId) (p : W32)
  | ksip (r : RingId) (p : W32)
  | digits (r : RingId) (p : W32)
  | lutpoly (r : RingId) (p : W32)
  | extract (r : RingId) (p : W32)
  | convert (r : RingId) (p : W32)
  | flood (r : RingId) (p : W32)
  | tileprog (r : RingId) (p : W32)
  | fence (r : RingId) (p : W32)
  | fenceSatisfied (r : RingId) (p : W32)
  | signal (r : RingId) (p : W32)
  /-- The mover of slice `n` has filled pool `k` with the block of slot `j` of the descriptor. -/
  | moverFillComplete (n : SliceId) (k : PoolId) (r : RingId) (p : W32) (j : Fin 6)
  /-- A pass of `rows` rows from pool `src` to pool `dst` of slice `n`, from row `first` of both; `q0`, `q1` and
  `ty` are the moduli and the element type of its read-side negation (R59). -/
  | passStart (n : SliceId) (src dst : PoolId) (g : Gen) (first rows : Nat) (ty : Byte) (q0 q1 : W64) (c : Nat)
  | passEnd (n : SliceId) (dst : PoolId) (c : Nat)
  | exchangeStart (x : Fin 4) (r : RingId) (p : W32) (e : ExchSpec) (c : Nat)
  | exchangeDelivered (x : Fin 4) (c : Nat)
  | poolWipeComplete (n : SliceId) (k : PoolId)
  /-- A response of a stack port to the request with tag `tag` of master `m`; `wr` marks a write. -/
  | stackResponse (port : SliceId) (m : Nat) (tag : Fin 512) (wr : Bool) (ecc : Ecc)
  /-- A completion at the host port; `err` is an error status or a poisoned completion. -/
  | hostCompletion (m : Nat) (tag : Fin 512) (wr : Bool) (ecc : Ecc) (err : Bool)
  /-- An ATS completion: `res` is the size, the translated address and the write permission, or none. -/
  | translationCompletion (h : HF) (pasid : Option (BitVec 20)) (iova : W64) (res : Option (Nat × W64 × Bool))
  | invalidationRequest (h : HF) (pasid : Option (BitVec 20)) (iova : W64) (size : Nat)
  | commit (r : RingId) (p : W32) (c : Nat)
  | sealedRecordCycle (r : RingId) (p : W32) (c : Nat)
  /-- The collector's next write for the ring; `ok` is false when the stack controller refuses it. -/
  | collectorWrite (r : RingId) (ok : Bool) (m : Nat)
  | eventAgeTrigger (r : RingId) (m : Nat)
  | eventMessage (h : HF) (v : Fin 64) (m : Nat)
  | nop (n : SliceId) (dst sa sb : Byte) (md : W32)
  | tcfg (n : SliceId) (dst sa sb : Byte) (md : W32)
  | tzero (n : SliceId) (dst sa sb : Byte) (md : W32)
  | azero (n : SliceId) (dst sa sb : Byte) (md : W32)
  | tmov (n : SliceId) (dst sa sb : Byte) (md : W32)
  | tld (n : SliceId) (dst sa sb : Byte) (md : W32)
  | tst (n : SliceId) (dst sa sb : Byte) (md : W32)
  | astr (n : SliceId) (dst sa sb : Byte) (md : W32)
  | loop (n : SliceId) (dst sa sb : Byte) (md : W32)
  | endl (n : SliceId) (dst sa sb : Byte) (md : W32)
  | tmace (n : SliceId) (dst sa sb : Byte) (md : W32)
  | tmacb (n : SliceId) (dst sa sb : Byte) (md : W32)
  | tmacr (n : SliceId) (dst sa sb : Byte) (md : W32)
  | tmule (n : SliceId) (dst sa sb : Byte) (md : W32)
  | vaddm (n : SliceId) (dst sa sb : Byte) (md : W32)
  | vsubm (n : SliceId) (dst sa sb : Byte) (md : W32)
  | vmulm (n : SliceId) (dst sa sb : Byte) (md : W32)
  | vnegm (n : SliceId) (dst sa sb : Byte) (md : W32)
  | vacc (n : SliceId) (dst sa sb : Byte) (md : W32)
  | vadd (n : SliceId) (dst sa sb : Byte) (md : W32)
  | vsub (n : SliceId) (dst sa sb : Byte) (md : W32)
  | vmul (n : SliceId) (dst sa sb : Byte) (md : W32)
  | vmin (n : SliceId) (dst sa sb : Byte) (md : W32)
  | vmax (n : SliceId) (dst sa sb : Byte) (md : W32)
  | vand (n : SliceId) (dst sa sb : Byte) (md : W32)
  | vor (n : SliceId) (dst sa sb : Byte) (md : W32)
  | vxor (n : SliceId) (dst sa sb : Byte) (md : W32)
  | vfadd (n : SliceId) (dst sa sb : Byte) (md : W32)
  | vfsub (n : SliceId) (dst sa sb : Byte) (md : W32)
  | vfmul (n : SliceId) (dst sa sb : Byte) (md : W32)
  | vfma (n : SliceId) (dst sa sb : Byte) (md : W32)
  | vcmp (n : SliceId) (dst sa sb : Byte) (md : W32)
  | vsel (n : SliceId) (dst sa sb : Byte) (md : W32)
  | vspl (n : SliceId) (dst sa sb : Byte) (md : W32)
  | vmov (n : SliceId) (dst sa sb : Byte) (md : W32)
  | vshl (n : SliceId) (dst sa sb : Byte) (md : W32)
  | vshr (n : SliceId) (dst sa sb : Byte) (md : W32)
  | vsra (n : SliceId) (dst sa sb : Byte) (md : W32)
  | vcvt (n : SliceId) (dst sa sb : Byte) (md : W32)
  | venc (n : SliceId) (dst sa sb : Byte) (md : W32)
  | vdec (n : SliceId) (dst sa sb : Byte) (md : W32)
  /-- An uncorrectable word at `pl`, met by the work of the named descriptor (the places that Table 14-1 attributes
  to no descriptor ignore the name), at fclk count `f`. -/
  | uncorrectableWord (pl : Place) (r : RingId) (p : W32) (f : Nat)
  | residueMismatch (n : SliceId) (r : RingId) (p : W32) (f : Nat)
  /-- Plane `pl` has held no credit for `cycles` consecutive cycles at the port of slice `n`. -/
  | creditStarvation (pl : PlaneId) (n : SliceId) (cycles : Nat) (r : RingId) (p : W32) (f : Nat)
  | passEndWatchdog (n : SliceId) (dst : PoolId) (c : Nat) (f : Nat)
  /-- Slice `n` has made no progress for `cycles` consecutive cycles. -/
  | progressWatchdog (n : SliceId) (cycles : Nat) (f : Nat)
  | quarterFetchWatchdog (q : QuarterId) (f : Nat)
  | requestOverdue (port : PortId) (m : Nat) (tag : Fin 512) (wr : Bool) (c : Nat)
  | replayDecision (r : RingId) (p : W32) (f : Nat)
  | replay (r : RingId) (p : W32) (c : Nat)
  /-- A write of HSn_FENCE with FREQ = 1; `cause` is HEALTH's cause code (R347). -/
  | freq (who : Who) (n : SliceId) (cause : Nat)
  | tfence (who : Who) (n : SliceId)
  | tret (who : Who) (n : SliceId)
  | flueFenceFreq (who : Who) (mask : BitVec 4) (cause : Nat)
  | qfreq (who : Who) (mask : BitVec 4) (cause : Nat)
  | asub (tag page : HF) (f : Nat)
  | apop (tag page : HF)
  | adminInvalidType (h : HF) (f : Nat)
  | hello (h : HF) (f : Nat)
  | keepalive (h : HF) (f : Nat)
  | goodbye (h : HF) (f : Nat)
  | timeHint (h : HF) (f : Nat)
  | leaseSet (h : HF) (f : Nat)
  | ringSetup (h : HF) (f : Nat)
  | ringEnable (h : HF) (f : Nat)
  | ringDisable (h : HF) (f : Nat)
  | ringQuery (h : HF) (f : Nat)
  | syncReset (h : HF) (f : Nat)
  | chainLoad (h : HF) (f : Nat)
  | chainUnload (h : HF) (f : Nat)
  | adminWaitSatisfied (h : HF) (f : Nat)
  | adminBusyTimeout (h : HF) (f : Nat)
  | keysetRegister (h : HF) (f : Nat)
  | keysetRelease (h : HF) (f : Nat)
  | logRead (h : HF) (f : Nat)
  | telemetryRead (h : HF) (f : Nat)
  | inServiceTest (h : HF) (f : Nat)
  | inServiceTestRun (f : Nat)
  /-- The slice tests end; `failed` has a bit for each failed item: Rick, Kiln, Retort (Table 14-6). -/
  | inServiceTestEnd (failed : BitVec 3) (f : Nat)
  | calibration (h : HF) (f : Nat)
  | offlineSelfTest (h : HF) (f : Nat)
  | grantSet (h : HF) (f : Nat)
  | grantZeroed (h : HF) (f : Nat)
  | grantClear (h : HF) (f : Nat)
  | blockMove (h : HF) (f : Nat)
  | schedSet (h : HF) (f : Nat)
  | sealedResv (h : HF) (f : Nat)
  | graceSet (h : HF) (f : Nat)
  | hostQuery (h : HF) (f : Nat)
  | leaseCheck (f : Nat)
  | graceEnd (h : HF) (f : Nat)
  | flrHf (h : HF) (f : Nat)
  | flrDone (h : HF)
  | fbctlEnable (tag page : HF) (start : W32)
  | fbctlDisable (tag page : HF)
  | fallbackDisabled (h : HF)
  | fbstatRead (who : Who) (page : HF) (size : Nat)
  | fallbackSchedule
  /-- A write of `v` to GEVT; `again` marks the events that occur again in the same cycle. -/
  | gevtClear (tag page : HF) (v : W64) (again : BitVec 6)
  | vctlWrite (tag page : HF) (vec : Fin 64) (v : W64)
  | hold (who : Who) (on : Bool)
  | sealen (who : Who) (on : Bool)
  | bwDataRead (who : Who)
  | bwDataWrite (who : Who) (v : W64)
  | halt (who : Who) (core : Fin 4) (on : Bool)
  | wrst (who : Who) (core : Fin 4)
  | step (who : Who) (core : Fin 4)
  /-- A write of `size` bytes of `v` at offset `off` of the window. -/
  | registerWrite (who : Who) (off size : Nat) (v : W64)
  | health
  | random
  | nonce
  /-- Ember takes the mailbox's piece of an image; on the last one the verdicts of the two signatures hold. -/
  | imgVerify (ecdsa mldsa : Bool)
  | lcVerify (ecdsa mldsa : Bool)
  | lcWrite
  | floorRaise
  /-- Ember reseeds; `pass` is the result of its health tests. -/
  | reseed (pass : Bool)
  | embRxpop (who : Who)
  | mailboxTimeout (f : Nat)
  /-- A continuous test of the entropy sources marked in `srcs` fails. -/
  | emberContinuousTestFail (srcs : BitVec 2)
  | lcChallenge (f : Nat)
  /-- A lifecycle command with its token body and signatures' verdicts; `keyBlock` is whether the key block that
  follows the token carries keys 1 to 3 and the lifecycle key (R315). -/
  | lcTransition (token : List Byte) (ecdsa mldsa keyBlock : Bool) (f : Nat)
  | lcTransitionDrained
  | lcQuery
  | rollbackCommit
  | managerSet (h : HF)
  | logLevel (on : Bool)
  | ledgerInterval (seconds : Nat)
  | ledgerRestore (img : Option LedgerTotals)
  | ledgerRestoreTimeout (f : Nat)
  | shutdownNotice (f : Nat)
  | ledgerPersist (f : Nat)
  /-- One second has passed; `mv` holds the three rails in mV (R324). -/
  | ledgerBinTick (mv : List Nat)
  /-- An aging reading: the ring-oscillator count of each slice. -/
  | agingReading (counts : List W16)
  | queryDeviceIdentifiers
  | getFirmwareParameters
  | requestUpdate
  | passComponentTable (components : Nat)
  | updateComponent (size : Nat)
  /-- The chunk that the PTU asked for; the verdicts hold for the image that it completes. -/
  | requestFirmwareData (data : List Byte) (ecdsa mldsa : Bool)
  | activateFirmware
  | getStatus
  | cancelUpdateComponent
  | cancelUpdate
  | unsupportedPldmCommand (code : Byte)
  | porN
  | ptuRstNAssert
  | ptuRstNRelease
  | enterTinder
  /-- BOOT has read the image of a slot (`slotB` false: A), with the signatures' verdicts. -/
  | bootVerified (slotB : Bool) (image : List Byte) (ecdsa mldsa : Bool) (f : Nat)
  /-- A start-up attempt ends: the entropy sources whose tests failed, and whether the two DRBG instances disagreed. -/
  | emberHealthAttemptEnd (failed : BitVec 2) (disagree : Bool)
  /-- The tests of slices HSn with n mod 4 = g end; `failed` marks the slices that fail. -/
  | sliceGroupTestEnd (g : Fin 4) (failed : BitVec 24)
  | flueLoopbackEnd (pl : PlaneId) (pass : Bool)
  /-- The last self-test item ends; `base` is firmware's base code of the supply (R374). -/
  | enterBanked (counts : List W16) (base : Fin 21) (f : Nat)
  | bootWatchdog (f : Nat)
  /-- Component `k` faults for cause 1 MPU, 2 watchdog, 3 SRAM word, 4 illegal instruction (Table 12-11). -/
  | componentFault (k : Comp) (cause : Nat) (f : Nat)
  | activationDeadline (k : Comp) (f : Nat)
  /-- The time of a heartbeat of a core; `seen` is false when its partner missed it. -/
  | heartbeat (core : Fin 4) (seen : Bool) (f : Nat)
  | coreFault (core : Fin 4) (cause : Nat) (f : Nat)
  | componentRestarted (k : Comp) (f : Nat)
  /-- A sample of the Damper: the 28 readings (signed 8.8 °C) and the estimated power in watts. -/
  | damperSample (temps : List Int) (watts : Nat) (f : Nat)
  | pclkStepDone
  | avsAck
  | avsAckTimeout
  | sensorCalibrationEnd (t : Fin 28) (pass : Bool) (reading : Int)
  | railFault (rail : Fin 3)
  | emberPowerLoss
  | segmentInsert (bit : Fin 7)
  | segmentOpen (bit : Fin 7)
  | segmentClose
  /-- The items of the offline self-test have ended: failed slices by item, failed planes, Ember. -/
  | offlineSelfTestEnd (rickFail kilnFail retortFail : BitVec 24) (planes : BitVec 4) (rest : EmberAndAges) (f : Nat)
  deriving DecidableEq, Repr

end Sys2Proof
end

