-- ==== Sys2Proof/Decode.lean ====
section
/-! DEFINITION. The commands that a table word spells. -/

namespace Sys2Proof

/-- The command of a table word: none, since no row of the table has bits (the block takes events, not words). -/
def decodeTableWord (_nbits _w : Nat) : Option Instr := none

end Sys2Proof
end

