-- ==== Sys2Proof/Config.lean ====
section
/-! DEFINITION. The free values: what the manual leaves open while the machine goes on. Each constant has no
body, so nothing can be proved about what it is; each is applied to the counter `State.clk.free`, which the
command that uses a free value advances (log entries 1 and 2). -/

namespace Sys2Proof.Config

/-- A free byte: the contents of a destination that the manual calls undefined (R16, R34, R38). -/
opaque freeByte : Nat → Byte

/-- A free 64-bit word: an undefined result element (R121, R144), a pool position no step writes (R124), the level
of an input pin that no row carries (R373). -/
opaque freeWord : Nat → W64

/-- A free natural number: the cycles a clock counts while no command waits (R368). -/
opaque freeNat : Nat → Nat

/-- A free 256-bit draw of Ember's CTR_DRBG (R234, R298, R321, R365). -/
opaque freeDraw : Nat → BitVec 256

end Sys2Proof.Config
end

