-- ==== Sys2Proof/Machine/State.lean ====
section
/-! DEFINITION. The state of the block, as plain data, and the state at entry to TINDER after reset (R354).

A table `List (Nat × α)` is sorted by key and holds the entries that differ from the default that its accessor
in Machine/Table.lean names.  Every field's comment gives the rule that names it and its value at reset. -/

namespace Sys2Proof.Machine

/-- Why the block stops. -/
inductive Fault where
  /-- An event of a slice or stack that the variant does not have (R3: HS16 to HS23 in PTU-16S). Raised by every
  command that names a slice. Safe: the hardware has no such unit and so no such event. -/
  | absentUnit (n : Nat)
  deriving DecidableEq, Repr

/-- Why a command has no meaning. -/
inductive Refusal where
  /-- A row of the table that the model gives no meaning; only Dispatch raises it. Safe. -/
  | notModelled (mnemonic : String)
  deriving DecidableEq, Repr

/-- The counts of the clocks of Table 16-3, each local to its domain (R368). -/
structure Clocks where
  /-- pclk cycles (16, Table 16-3). Reset 0 (DESIGN CHOICE, log 3). -/
  pclk : Nat := 0
  /-- nclk cycles (16, Table 16-3). Reset 0 (DESIGN CHOICE, log 3). -/
  nclk : Nat := 0
  /-- fclk cycles since por_n (12 R299, Table 12-10). Reset 0 (DESIGN CHOICE, log 3). -/
  fclk : Nat := 0
  /-- sclk cycles (16, Table 16-3). Reset 0 (DESIGN CHOICE, log 3). -/
  sclk : Nat := 0
  /-- The model's own counter of free values used (log 1). Reset 0 (DESIGN CHOICE, log 1). -/
  free : Nat := 0
  deriving DecidableEq, Repr, Inhabited

/-- What the part holds in one-time-programmable storage, and what firmware reads of its stacks. -/
structure Part where
  /-- PTU_CAP0.VARIANT (00 Table 00-1, 15 R355), OTP. Reset PTU-24S (DESIGN CHOICE, log 4). -/
  variant : Variant := .ptu24S
  /-- PTU_ID.SERIAL, 64 bits (15 Table 15-3), OTP. Reset 0 (DESIGN CHOICE, log 4). -/
  serial : W64 := 0
  /-- PTU_LC.LC (13 Table 13-7, 15 Table 15-9), OTP. Reset SERVICE (DESIGN CHOICE, log 4). -/
  lc : Lifecycle := .service
  /-- The rollback floor, 7 bits (13 R320), OTP. Reset 0 (DESIGN CHOICE, log 4). -/
  floor : Nat := 0
  /-- Ember's power-on counter, saturating at 2048 steps (13, The Ledger). Reset 0 (DESIGN CHOICE, log 4). -/
  powerOns : Nat := 0
  /-- Bytes of each stack (02 R31), read from the stack controller. Reset 64 GiB (DESIGN CHOICE, log 4). -/
  capacity : Nat := 68719476736
  deriving DecidableEq, Repr, Inhabited

/-- Stage, service and global control. -/
structure Ctl where
  /-- PTU_STAGE.STAGE (13 R306). Reset TINDER (R354). -/
  stage : Stage := .tinder
  /-- Every unit is held in reset: ptu_rst_n is low, or a rail has faulted (16 R370, R373). Reset false. -/
  inReset : Bool := false
  /-- PTU_STAGE.FBACT (15 Table 15-8). Reset 1 (R354). -/
  fbAct : Bool := true
  /-- PTU_STAGE.WDFIRED (15 Table 15-8). Reset 0 (R354). -/
  wdFired : Bool := false
  /-- PTU_GCTL.SEALEN (15 Table 15-11). Reset 0 (R354). -/
  sealen : Bool := false
  /-- PTU_GCTL.HOLD (15 Table 15-11). Reset 0 (R354). -/
  hold : Bool := false
  /-- PTU_LC.XFER (15 Table 15-9) with the lifecycle state it leads to (13 R322). Reset none (R354). -/
  xfer : Option Lifecycle := none
  /-- An accepted ROLLBACK_COMMIT whose FLOOR_RAISE waits for Ember's mailbox (13 R320, 15 Table 15-29). Reset false. -/
  commit : Bool := false
  /-- PTU_CAP3, 64 bits (15 Table 15-7). Reset 0 (R354). -/
  cap3 : W64 := 0
  /-- The fclk count at entry to KINDLING, for the boot watchdog (13 R313). Reset 0 (DESIGN CHOICE, log 3). -/
  kindlingAt : Nat := 0
  /-- The start self-test's slice groups still to end (13 R312). Reset 4 (DESIGN CHOICE, log 3: none has run). -/
  groupsLeft : Nat := 4
  /-- The start self-test's planes still to end (13 R312). Reset 4 (DESIGN CHOICE, log 3). -/
  planesLeft : Nat := 4
  /-- The host function that holds the manager role (12 R293, 15 R351). Reset none (R351). -/
  manager : Option HF := none
  /-- The in-service test: slice, requester, and whether it has left its draining step (14 R342). Reset none. -/
  ist : Option (SliceId × HF × Bool) := none
  /-- The requester of a running offline self-test (14 R344). Reset none. -/
  ost : Option HF := none
  /-- Its tests run: every started descriptor has its record, and the memories are wiped (10 R243). Reset false. -/
  ostRun : Bool := false
  /-- The requester of a running calibration (14 R343). Reset none. -/
  cal : Option HF := none
  /-- QUENCHED has been entered for an Ember failure, and the wipe that follows the last record is still to come
  (13 R314). Reset false. -/
  quenching : Bool := false
  deriving DecidableEq, Repr, Inhabited

/-- A memory grant (02 R31, 12 R295). -/
structure Grant where
  hf : HF
  stack : Nat
  base : Nat
  size : Nat
  deriving DecidableEq, Repr, Inhabited

/-- One entry of the translation cache (02 R35, R36, 14 R345). -/
structure TEntry where
  hf : HF
  pasid : Option (BitVec 20)
  iova : Nat
  size : Nat
  phys : Nat
  write : Bool
  /-- In one of the host function's 128 reserved entries, or in the shared 2048. -/
  shared : Bool
  /-- The Sealed descriptors that pin the entry. -/
  pins : List (RingId × W32)
  /-- A pinned entry in which an uncorrectable word has been found: it translates nothing until its page is requested again (14 R329). -/
  lost : Bool := false
  /-- Its host function has been wiped while it is pinned: it goes with its last pin (12 R300). -/
  ending : Bool := false
  deriving DecidableEq, Repr, Inhabited

/-- A translation request, or a page known to have no translation. -/
structure XReq where
  hf : HF
  pasid : Option (BitVec 20)
  iova : Nat
  deriving DecidableEq, Repr, Inhabited

/-- Translation state of the host port. -/
structure Xlate where
  /-- The translation cache of 4096 entries, least recently used first (02 R35). Reset empty (13 Table 13-2). -/
  cache : List TEntry := []
  /-- Translation requests outstanding, at most 64 (02 R35). Reset empty. -/
  reqs : List XReq := []
  /-- Requests that wait for a slot (14 R345). Reset empty. -/
  waiting : List XReq := []
  /-- The pclk count since when each of them waits (14 Table 14-7). Reset empty. -/
  since : List (XReq × Nat) := []
  /-- Pages whose completion carried no translation, until the pre-check that asked ends (02 R36). Reset empty. -/
  absent : List XReq := []
  /-- The host function served last in the round robin of R345. Reset 15 (DESIGN CHOICE, log 3: HF0 is next). -/
  last : Nat := 15
  /-- Invalidation requests that wait for a pinning descriptor (02 R37): host, page, size. Reset empty. -/
  invals : List (XReq × Nat) := []
  deriving DecidableEq, Repr, Inhabited

/-- The states of a ring (11 R250), in the coding of FBSTAT.STATE (15 Table 15-22). -/
inductive RingState where
  | disabled
  | enabled
  | frozen
  | error
  deriving DecidableEq, Repr, Inhabited

/-- What Stoke keeps of a ring; its entry lies in the ring table (11 R248). -/
structure Ring where
  /-- State of the ring (11 R250). Reset DISABLED (13 R308). -/
  st : RingState := .disabled
  /-- ERROR cause: 1 OVERRUN, 2 completion translation, 3 completion refused (12 Table 12-11). Reset 0. -/
  cause : Nat := 0
  /-- PI, 32 bits (11 R252). Reset 0 (13 R308: no ring survives; DESIGN CHOICE, log 3). -/
  pi : W32 := 0
  /-- DONE_I, 32 bits (11 R252). Reset 0 (DESIGN CHOICE, log 3). -/
  doneI : W32 := 0
  /-- Fetch position, 32 bits (11 R276, 12 Table 12-7). Reset 0 (DESIGN CHOICE, log 3). -/
  fetch : W32 := 0
  /-- The ring's bit in the pending vector (11 R253). Reset 0 (13 Table 13-2). -/
  pend : Bool := false
  /-- Firmware has disabled the ring with FLUSH: what is left up to PI is fetched and completes with FLUSHED (11 R277). Reset
  false. -/
  flushing : Bool := false
  /-- Written records not yet signalled (11 R274). Reset 0. -/
  unsig : Nat := 0
  /-- The nclk count at which the oldest such record was written (11 R274). Reset none. -/
  oldest : Option Nat := none
  /-- The entry with which the ring was last enabled: a change of FBENT (15 R359) or a zeroed table entry (12 R300) does
  not reach descriptors already covered. Reset empty (13 Table 13-2: the ring table is zero). -/
  image : List Byte := []
  /-- The fclk count since when the ring waits for a context (12 R284). Reset none. -/
  waitSince : Option Nat := none
  deriving DecidableEq, Repr, Inhabited

/-- An outstanding descriptor fetch: `n` descriptors from index `first` (11 R255). -/
structure Fetch where
  r : RingId
  first : W32
  n : Nat
  deriving DecidableEq, Repr, Inhabited

/-- The layout card of Table 02-2. -/
structure LayoutCard where
  ty : Nat
  rank : Nat
  tparam : Nat
  turf : Nat
  /-- Stored extents: the extent minus 1. -/
  ext : List Nat
  str : List Int
  ttCount : Nat
  ttStack : Nat
  ttAddr : Nat
  fill : W64
  /-- A reserved bit of the card is set, or a field beyond RANK is not 0. -/
  rsv : Bool
  deriving DecidableEq, Repr, Inhabited

/-- A turf-table entry (Table 02-3). -/
structure Turf where
  base : Nat
  owner : Nat
  log2Size : Nat
  hf : Nat
  wr : Bool
  valid : Bool
  pv : Bool
  pasid : BitVec 20
  rsv : Bool
  deriving DecidableEq, Repr, Inhabited

/-- The cipher card of Table 02-5. -/
structure CipherCard where
  scheme : Nat
  log2n : Nat
  level : Nat
  limbs : Nat
  chain : Nat
  keyset : W32
  scale : W16
  budget : W16
  slots : W32
  npoly : Nat
  paired : Bool
  eval : Bool
  order : Bool
  poison : Bool
  valid : Bool
  ptmod : W64
  lweN : W32
  rsv : Bool
  deriving DecidableEq, Repr, Inhabited

/-- A piece of a host turf as translated at pre-check: I/O virtual bytes from `iova` lie at `phys`. -/
structure XlMap where
  /-- The PASID of the turf, which names the address space (02 Table 02-3). -/
  pas : Option (BitVec 20) := none
  iova : Nat
  size : Nat
  phys : Nat
  /-- The page has been invalidated while an Open descriptor uses it (02 R38). -/
  stale : Bool := false
  deriving DecidableEq, Repr, Inhabited

/-- The snapshot of one operand that a descriptor runs on (02 R30). -/
structure OpSnap where
  /-- Slot 0 to 5. -/
  slot : Nat
  res : Bool
  stack : Nat
  addr : Nat
  card : LayoutCard
  turfs : List Turf
  xl : List XlMap
  /-- Index of the first descriptor of its chain, when it belongs to one (R264). -/
  chain : Option W32 := none
  deriving DecidableEq, Repr, Inhabited

/-- A byte range of memory: space, first byte, length (02 R49). -/
structure Range where
  space : Nat
  lo : Nat
  len : Nat
  deriving DecidableEq, Repr, Inhabited

/-- The flood key of one FLOOD: k, its share k1 and the mask seed of each slice (10 R234). -/
structure FloodKey where
  k : BitVec 256
  k1 : BitVec 256
  seeds : List W128
  deriving DecidableEq, Repr, Inhabited

/-- Where a fetched descriptor stands. -/
inductive Phase where
  | fetched
  /-- A FLOOD that passed its pre-check waits for its key (10 R235). -/
  | waitKey
  | checked
  /-- A FENCE waits for its counter (11 R262). -/
  | waiting
  | started
  /-- Its opcode's effect is done; writes may be unacknowledged. -/
  | ran
  /-- Aborted by a fault; HEALTH has not decided (14 R333). -/
  | aborted
  /-- HEALTH has decided; the replay is not dispatched. -/
  | decided
  /-- Its record has entered the collector and waits in its reorder slot (11 R272). -/
  | recorded
  deriving DecidableEq, Repr, Inhabited

/-- A fetched descriptor and its reorder slot (11 R255). -/
structure Slot where
  idx : W32
  bytes : List Byte
  phase : Phase := .fetched
  /-- Status fixed so far (11 R278). -/
  status : W16 := 0
  detail : W16 := 0
  /-- The published Sealed duration (10 R220), or the plan's duration of an Open FLOOD. -/
  dur : Nat := 0
  /-- Start cycle of the attempt (10 R217, 14 R348). -/
  start : Nat := 0
  /-- The dispatch cost (12 R286). -/
  cost : Nat := 0
  ops : List OpSnap := []
  scard : Option CipherCard := none
  /-- The destination cipher card that the descriptor writes (02 R44, 11 R265). -/
  dcard : Option CipherCard := none
  /-- The bytes of its constant table, program image or pattern program (07 R149, 08 R179, 05 R125). -/
  image : List Byte := []
  /-- The pattern entries of each slice (image of slice s under key s), or the schedule images (03 R71, 04 R84). -/
  aux : List (Nat × List Byte) := []
  /-- Its tables and structures have been read: a later pre-check of it runs on that snapshot (02 R30, R42). -/
  snapped : Bool := false
  /-- The poisoned granules that those reads met, under the keys of `State.poison` (04 R99). -/
  bad : List (Nat × Bool) := []
  /-- The pass constants of a LUTPOLY of degree 2^18: table entries, and under the table's length the negated first one (05 R123). -/
  consts : List (Nat × Nat) := []
  /-- Its slices hold the shares of its flood key (10 R235). -/
  keyed : Bool := false
  fills : Nat := 0
  drops : Nat := 0
  dups : Nat := 0
  /-- pclk count at which its run was complete, for the LATE rule (10 R231). -/
  doneAt : Option Nat := none
  /-- SOURCE_CORRUPT or KEY_CORRUPT met during the run (07 R160, 04 R99). -/
  corrupt : Option W16 := none
  /-- Cause of the latest abort (14 R347). -/
  cause : Nat := 0
  /-- The fault that aborted it has been attributed to a hard fault of this unit code (14 R333, R347). -/
  unit : Option Nat := none
  /-- Scheduling rounds that a Sealed descriptor has waited (12 R290). -/
  rounds : Nat := 0
  /-- Index of the first descriptor of its chain, when it belongs to one that passed its pre-check so far (11 R263). -/
  chain : Option W32 := none
  /-- DUR is 256 by R227, so that the refusal needs no admission. -/
  refusal : Bool := false
  /-- Slices that serve its plan, slices whose Flue ports it needs, pools in each slice, and the memories it touches,
  as its start fixed them (10 R230, 11 R255). -/
  slices : List Nat := []
  flue : List Nat := []
  npools : Nat := 0
  spaces : List Nat := []
  /-- LATE (10 R231). -/
  late : Bool := false
  /-- Bytes that it reads or writes and that a descriptor which no order ties to it writes: they are undefined (02 R51). -/
  races : List Range := []
  /-- The page of a SIGNAL's WADDR has been invalidated since its pre-check (02 R38). -/
  sigStale : Bool := false
  /-- Where a SIGNAL writes VALUE, as its page was translated last (02 R36, R38). -/
  sigAt : Option (Nat × Nat) := none
  /-- pclk count in which its pre-check ended (10 R227). -/
  readyAt : Nat := 0
  /-- Where its record waits before the collector's merge buffer (11 R272): the queue of this slice, or, under 24, its reorder
  slot, until every record of a lower index is there. -/
  queue : Option Nat := none
  /-- Its pools and units are bound and its reads are issued; a started descriptor whose units are taken waits in its slices'
  issue queues until then (01 R13, 03 R54, 07 R155). -/
  bound : Bool := false
  /-- Its place in the order of dispatch (04 R88). -/
  turn : Nat := 0
  /-- Its dispatch has been charged: a fence that puts it back into its context does not have it charged again (14 R337). -/
  charged : Bool := false
  /-- The translations that its pre-check has obtained so far, also those that have left the cache since (02 R36). -/
  seen : List TEntry := []
  /-- The host pages that the movers of the running attempt have found translated (02 R36). -/
  found : List XReq := []
  /-- Its translations are pinned: it is Sealed, and has ended its pre-check with 128 of them at most (02 R36). -/
  pinned : Bool := false
  /-- Home slices of the resident operands of its chain that it does not name itself, one entry for each (11 R264). -/
  heldIn : List Nat := []
  /-- Blocks of operand j that slice n has filled, under key 8n + j (05 R110). -/
  filled : List (Nat × Nat) := []
  /-- Destination positions whose writes the movers have issued block by block (05 R110). -/
  sent : List Nat := []
  /-- The next step of a pattern program for the share of stack m, under key m (05 R124). -/
  steps : List (Nat × Nat) := []
  /-- Halves of the constant buffer that the broadcasts of a streamed table have asked for (07 R150). -/
  halves : Nat := 0
  deriving DecidableEq, Repr, Inhabited

/-- A tensor kept in the Ricks for later descriptors of a chain (11 R264). -/
structure Resident where
  /-- Index of the first descriptor of the chain that keeps it. -/
  chain : Option W32
  stack : Nat
  addr : Nat
  vals : List (Nat × W64)
  /-- The modulus chains that the descriptor which keeps it names (02 R45). -/
  uses : List Nat := []
  deriving DecidableEq, Repr, Inhabited

/-- What Stoke keeps of a pre-checked descriptor of the chain in progress (11 R263 to R265, 02 R50). -/
structure Member where
  idx : W32
  link : Bool
  /-- CLASS of the chain's first descriptor is Sealed (10 R233). -/
  sealed : Bool
  /-- It failed its pre-check, so that later members are FLUSHED (11 R267). -/
  failed : Bool
  ops : List OpSnap
  /-- The destination cipher card: stack, address and fields (11 R265). -/
  card : Option (Nat × Nat × CipherCard)
  srcs : List Range
  deriving DecidableEq, Repr, Inhabited

/-- A context CX0 to CX191 bound to a ring (12, Contexts). -/
structure Ctx where
  ring : RingId
  slots : List Slot := []
  /-- fclk count at which the ring last started a descriptor (12 R285). -/
  lastStart : Nat := 0
  resident : List Resident := []
  /-- Pre-checked members of the chain in progress, oldest first. -/
  members : List Member := []
  /-- The members of a Sealed chain in progress whose records have been written, oldest first: a lost resident operand is
  rebuilt from them (11 R267). -/
  done : List Slot := []
  /-- pclk count of the latest record of the ring (10 R217, R227, R233). -/
  recordAt : Nat := 0
  /-- It has been unbound while a started descriptor has no record yet: it fetches nothing more (12 R285). -/
  leaving : Bool := false
  deriving DecidableEq, Repr, Inhabited

/-- The session codes of PTU_HOSTn_SESS.SESSION (15 Table 15-18). -/
inductive Session where
  | none
  | active
  | frozen
  | refused
  deriving DecidableEq, Repr, Inhabited

/-- One event vector (15 Table 15-20). -/
structure EvVec where
  /-- VADDRv.ADDR, bits [63:2] (15 Table 15-20). Reset 0 (R354). -/
  addr : BitVec 62 := 0
  /-- VCTLv.DATA (15 Table 15-20). Reset 0 (R354). -/
  data : W32 := 0
  /-- VCTLv.HOLDOFF (15 Table 15-20). Reset 0 (R354). -/
  holdoff : W16 := 0
  /-- VCTLv.MASK (15 Table 15-20). Reset 1 (R354). -/
  mask : Bool := true
  /-- VPEND bit and VCTLv.PEND (15 Table 15-20). Reset 0 (R354). -/
  pend : Bool := false
  /-- nclk count of the vector's last message (15 R357). Reset none. -/
  last : Option Nat := none
  deriving DecidableEq, Repr, Inhabited

/-- The admin request that ADMIN is serving and cannot answer yet (12 R292): its bytes and the fclk count at
which ADMIN took it. -/
structure Waiting where
  req : List Byte
  since : Nat
  deriving DecidableEq, Repr, Inhabited

/-- Everything the block keeps of one host function. -/
structure HostFn where
  /-- SESS.SESSION (15 Table 15-18). Reset 0 (R354). -/
  session : Session := .none
  /-- SESS.LEASE in ms (15 Table 15-18). Reset 0 (R354). -/
  lease : Nat := 0
  /-- The lease deadline in fclk counts (12 R299). Reset 0 (DESIGN CHOICE, log 3). -/
  deadline : Nat := 0
  /-- Driver version, major × 256 + minor (12 R297). Reset 0 (DESIGN CHOICE, log 3). -/
  driver : Nat := 0
  /-- The host epoch token (12 R298). Reset 0 (13 R308: no session; DESIGN CHOICE, log 3). -/
  epoch : W64 := 0
  /-- AVEC (12 R292). Reset none (R292). -/
  avec : Option (Fin 64) := none
  /-- The PASID of HELLO for admin buffers (12 Table 12-8). Reset none (DESIGN CHOICE, log 3). -/
  pasid : Option (BitVec 20) := none
  /-- Grace period in ms (12 R300). Reset 10000 (R300 gives it at entry to BANKED). -/
  grace : Nat := 10000
  /-- The grace period of the freeze in progress, in ms: GRACE_SET changes that of later freezes alone (12 Table 12-7). Reset 10000
  (DESIGN CHOICE, log 3). -/
  graceNow : Nat := 10000
  /-- fclk count of the freeze (12 R300). Reset none. -/
  frozenAt : Option Nat := none
  /-- The host function is frozen: its records carry HOST_FROZEN (11 R276). Reset false. -/
  freezing : Bool := false
  /-- SESS.FLRBUSY (15 Table 15-18). Reset 0 (R354). -/
  flrBusy : Bool := false
  /-- GEVT.EVT (15 Table 15-19). Reset 0 (R354). -/
  gevt : BitVec 6 := 0
  /-- GEVTEN.EN (15 Table 15-19). Reset 0 (R354). -/
  gevten : BitVec 6 := 0
  /-- GVEC.VEC (15 Table 15-19). Reset 0 (R354). -/
  gvec : BitVec 6 := 0
  /-- VADDRv, VCTLv, VPEND for v = 0 to 63 (15 Table 15-20). Reset as `EvVec` gives (R354). -/
  vecs : List (Nat × EvVec) := []
  /-- AREQ0 to AREQ7 (15 Table 15-21). Reset 0 (R354). -/
  areq : List (Nat × W64) := []
  /-- API: requests submitted (12 R291). Reset 0 (DESIGN CHOICE, log 3). -/
  api : Nat := 0
  /-- Requests that ADMIN has taken (12 R291). Reset 0 (DESIGN CHOICE, log 3). -/
  taken : Nat := 0
  /-- Responses written and released (12 R292, 15 R358). Reset 0 (DESIGN CHOICE, log 3). -/
  rspIn : Nat := 0
  rspOut : Nat := 0
  /-- ASTAT.OVF (15 Table 15-21). Reset 0 (R354). -/
  ovf : Bool := false
  /-- The request that waits (12 R292). Reset none. -/
  cur : Option Waiting := none
  /-- FBENT0 to FBENT3 (15 Table 15-22). Reset 0 (R354). -/
  fbent : List (Nat × W64) := []
  /-- An FBCTL disable is in progress (15 R359). Reset false. -/
  fbStop : Bool := false
  /-- FBSTAT.ERR (15 Table 15-22). Reset 0 (R354). -/
  fbErr : Bool := false
  /-- FBSTAT as R311 leaves it at entry to BANKED: PI, DONE_I, FETCH. Reset none. -/
  fbKeep : Option (W32 × W32 × W32) := none
  /-- The capture of FBSTAT's upper word (15 R359). Reset 0 (DESIGN CHOICE, log 3). -/
  fbCapture : W64 := 0
  /-- WT (12 R288). Reset 16 (R288 gives it at entry to BANKED). -/
  wt : Nat := 16
  /-- MINCTX and MAXCTX (12 R284). Reset 2 and 64 (R284 gives them at entry to BANKED). -/
  minctx : Nat := 2
  maxctx : Nat := 64
  /-- DEF[h] (12 R286, R288). Reset 0 (DESIGN CHOICE, log 3; the example of 12 starts at 0). -/
  deficit : Int := 0
  /-- The ring served last in the host's round robin of each PRIO (12 R287). Reset none. -/
  lastRing : List (Nat × Nat) := []
  /-- Telemetry page 0, entry k the counter at offset 8k (14 Table 14-7). Reset 0. -/
  tele : List (Nat × Nat) := []
  deriving DecidableEq, Repr, Inhabited

/-- The roles of a Rick pool (03 R54). -/
inductive Role where
  | free
  | passSource
  | passDest
  | moverFill
  | moverDrain
  | retort
  | char
  | flue
  | wipe
  deriving DecidableEq, Repr, Inhabited

/-- One Rick pool: 128 banks of 1024 words (03 R52). -/
structure Pool where
  /-- Role (03 R54). Reset free (13 Table 13-2: wiped). -/
  role : Role := .free
  /-- Host function whose data the pool holds (01 R11). Reset none. -/
  hf : Option HF := none
  /-- The descriptor to which the pool is bound (03 R54). Reset none. -/
  user : Option (RingId × W32) := none
  /-- The block in it is complete, so that a pass may read it (05 R110). Reset false. -/
  ready : Bool := false
  /-- The operand whose blocks the mover has filled into it, and the number of the first: a limb or half of one, an instance,
  or the slice whose block it is, itself or the fenced one for which it acts (05 R110, 04 R91). Reset none. -/
  holds : Option (Nat × Nat) := none
  /-- The resident operand that it keeps for a chain, by stack and address of its card (11 R264). Reset none. -/
  kept : Option (Nat × Nat) := none
  /-- What stands in it of a plan's stages: 0 a fill, 1 rows that a gather or align pass has written, 2 turned rows, 3 received rows,
  4 the rows of any other pass (05 Table 05-3). Reset 0. -/
  stage : Nat := 0
  /-- The stack whose words an align pass has written into it (05 R116, 04 R91). Reset none. -/
  share : Option Nat := none
  /-- The destination positions that passes have written into it and that the mover drains, or will when the passes have released it
  (05 R110). Reset empty. -/
  drains : List Nat := []
  /-- Word of bank b, row w under key 128w + b (03 R52). Reset 0 (13 Table 13-2). -/
  data : List (Nat × W64) := []
  deriving DecidableEq, Repr, Inhabited

/-- A pass in flight (03 R65). -/
structure Pass where
  src : PoolId
  dst : PoolId
  gen : Gen
  first : Nat
  rows : Nat
  ty : Byte
  q0 : W64
  q1 : W64
  /-- Cycle of its first row. -/
  start : Nat
  /-- The words on their way to the destination pool, which holds them at the pass's end (03 R65). -/
  words : List (Nat × W64)
  user : Option (RingId × W32)
  /-- The pool that a second pass writes from this one's destination: the two are one pass with source and destination in one
  pool, split through a free pool (03 R54). -/
  back : Option PoolId := none
  /-- The destination block that it writes whole, by positions; empty where it writes none (05 R110). -/
  block : List Nat := []
  deriving DecidableEq, Repr, Inhabited

/-- One accumulator element (07 R143, R145, R146). -/
structure Acc where
  v : W128 := 0
  cnt : Nat := 0
  /-- Residue shadows modulo 8191 of the element, or of its low and high halves. -/
  sh0 : Nat := 0
  sh1 : Nat := 0
  deriving DecidableEq, Repr, Inhabited

/-- The tile register file, Char registers and program memory of one slice (08 R169). -/
structure TileUnit where
  /-- Host function of the running descriptor, whose data the unit holds (01 R11). Reset none. -/
  hf : Option HF := none
  /-- Current shape entries, T0 to T15 then AC0 to AC3 (08 R174, R177). Reset empty. -/
  shape : List (Nat × W64) := []
  /-- Element (row, lane) of tile t under key 16384t + 128 row + lane (08 R171). Reset 0 (13 Table 13-2). -/
  tile : List (Nat × W64) := []
  /-- Element (row, lane) of ACa under key 1024a + 128 row + lane (08 R172). Reset 0 (13 Table 13-2). -/
  acc : List (Nat × Acc) := []
  /-- MSEL and PM of the accumulations since the last zeroing (08 R186). Reset none. -/
  accMod : List (Nat × (Nat × Bool)) := []
  /-- Lane u of VTr under key 128r + u (09 R196). Reset 0 (13 Table 13-2). -/
  vt : List (Nat × W64) := []
  /-- Shape tables installed by TCFG, 192 bytes each, from the program image (08 R174). Reset empty. -/
  tables : List (List Byte) := []
  /-- Program memory: the instructions (08 R179). Reset empty (13 Table 13-2). -/
  prog : List W64 := []
  /-- Chain, modulus base and delivery mode of the program (08 Table 08-3). Reset none, 0, CACHED. -/
  chain : Option Nat := none
  mbase : Nat := 0
  wide : Bool := false
  /-- SRSEED of the descriptor (09 R208). Reset 0. -/
  seed : W64 := 0
  /-- Ordinal of the next executed instruction (09 R208). Reset 0. -/
  ord : Nat := 0
  /-- Open loops, innermost first: index of LOOP, iteration, iterations minus 1 (08 R183). Reset empty. -/
  loops : List (Nat × Nat × Nat) := []
  /-- Index of the next instruction (08 R187). Reset 0. -/
  pc : Nat := 0
  /-- Which of the shares that the slice works it works now: its own, and that of a fenced slice for which it acts (01 R10, 08 R180).
  Reset 0. -/
  share : Nat := 0
  /-- Pool of slot j of the running TILEPROG (08 R180). Reset empty. -/
  slotPool : List (Nat × Nat) := []
  /-- Element count, type code and TPARAM of slot j's block (08 R180). Reset empty. -/
  slotLen : List (Nat × Nat) := []
  slotTy : List (Nat × Nat) := []
  slotTp : List (Nat × Nat) := []
  /-- The written map: position k of slot j under key 131072j + k (08 R180). Reset empty. -/
  written : List (Nat × Bool) := []
  /-- The operand cache's physical rows, least recently used first (08 R190). Reset empty. -/
  cache : List (Nat × Nat) := []
  /-- The reuse latches of inputs A and B, least recently used first (08 R192). Reset empty. -/
  latA : List (Nat × Nat) := []
  latB : List (Nat × Nat) := []
  /-- Next issue cycle, and the retire cycle of the latest writer of each register byte (08 R188). Reset 0. -/
  cyc : Nat := 0
  retire : List (Nat × Nat) := []
  /-- Registers whose latest writer is a TMAC-family instruction (08 R188). Reset empty. -/
  tmac : List (Nat × Bool) := []
  /-- Retire cycle of the latest reader or writer of each register byte, for TCFG (08 R176). Reset 0. -/
  used : List (Nat × Nat) := []
  deriving DecidableEq, Repr, Inhabited

/-- One event of the hard-fault rules (14 Table 14-2): kind, place and fclk count. -/
structure Hard where
  kind : Nat
  place : Nat
  fclk : Nat
  deriving DecidableEq, Repr, Inhabited

/-- A Hearth slice. -/
structure Slice where
  /-- HSn_STAT.FENCED (15 Table 15-23). Reset 0 (R354). -/
  fenced : Bool := false
  /-- HSn_STAT.TESTING (15 Table 15-23). Reset 0 (R354). -/
  testing : Bool := false
  /-- HSn_STAT.REFUSED (15 Table 15-23). Reset 0 (R354). -/
  refused : Bool := false
  /-- HSn_STAT.CAUSE (15 Table 15-23). Reset 0 (R354). -/
  cause : Nat := 0
  /-- Dispatch to the slice is stopped for an in-service test (14 R342). Reset false. -/
  drain : Bool := false
  /-- Pools P0 to P5 (03 R52). Reset empty. -/
  pools : List (Nat × Pool) := []
  /-- Passes in flight, oldest first (03 R67). Reset empty. -/
  passes : List Pass := []
  /-- End cycle of the latest pass that wrote pool k (03 R67). Reset empty. -/
  ends : List (Nat × Nat) := []
  /-- The first cycle in which pool k, as it was last released, may be written (04 R82). Reset 0. -/
  frees : List (Nat × Nat) := []
  /-- The target map of an Open SCATTER: position p of instance l under key 131072l + p (06 R136). Reset empty. -/
  tmap : List (Nat × Bool) := []
  /-- The tile unit (08 R169). -/
  tu : TileUnit := {}
  /-- The pattern store: the 56 words of slot e under key 64e + w (03 R68). Reset 0 (13 Table 13-2). -/
  pstore : List (Nat × W64) := []
  /-- The host function that owns the store's entries (03 R72). Reset none. -/
  pstoreHf : Option HF := none
  /-- The cycle in which the mover began to load the store's entries, one per cycle (03 R71). Reset 0. -/
  storeAt : Nat := 0
  /-- The two share registers, 256 bits each, and the mask seed, 128 bits (10 R234, R235). Reset 0 (13 Table 13-2). -/
  share1 : BitVec 256 := 0
  share2 : BitVec 256 := 0
  seed : W128 := 0
  /-- The rest of the share units: the states of the 24 expanders, of 1600 bits, the share-conversion stage, and the Char
  adder's operand registers (10 R239, R242). Reset 0 (13 Table 13-2). -/
  expander : List (Nat × BitVec 1600) := []
  conv : W128 := 0
  adder : W128 := 0
  /-- The host function whose flood key the shares belong to (01 R11). Reset none. -/
  shareHf : Option HF := none
  /-- The fused descriptor or TILEPROG to which the Retort lanes, the accumulators, the constant buffer and the Char engine are
  bound (07 R155, 08 R194). Reset none. -/
  unit : Option (RingId × W32) := none
  /-- The constant buffer, of 40 KiB, or its two halves of 20 KiB (07 R150). Reset empty (13 Table 13-2: zero). -/
  cbuf : List Byte := []
  /-- The cycle after the latest pass's last row, and the descriptor of that pass (03 R66, 16 R376). Reset none. -/
  issued : Option (Nat × Option (RingId × W32)) := none
  /-- HSn_ERR fields (15 Table 15-25). Reset 0 (R354). -/
  resid : Nat := 0
  uecnt : Nat := 0
  cpat : Nat := 0
  cdata : Nat := 0
  crick : Nat := 0
  /-- HSn_UE, 64 bits (15 Table 15-25). Reset 0 (R354). -/
  ue : W64 := 0
  /-- HSn_AGE: MAX, MIN, LATEST (15 Table 15-25). Reset 0 (R354). -/
  ageMax : W16 := 0
  ageMin : W16 := 0
  ageLatest : W16 := 0
  /-- The issue gap in pclk cycles (16 R376). Reset 0 (15 Table 15-13: GAPPED 0). -/
  gap : Nat := 0
  deriving DecidableEq, Repr, Inhabited

/-- One flit: what one plane carries of a slice's beat, with the side band of Table 04-1 (04 R77). -/
structure Flit where
  plane : Nat
  /-- XID, SRC, HF and LAST of the side band. -/
  xid : Nat
  src : Nat
  hf : HF
  last : Bool
  /-- Port, the slice whose stream it is for (another one on the port of its buddy, 04 R91), and the place of word 0 in it. -/
  dst : Nat
  role : Nat
  first : Nat
  /-- The words that VALID marks, at most 16, from word 0 up. -/
  words : List W64
  /-- pclk count of its beat. -/
  sent : Nat
  deriving DecidableEq, Repr, Inhabited

/-- A running exchange (04 R79 to R82). -/
structure Exch where
  x : Nat
  spec : ExchSpec
  start : Nat
  beats : Nat
  user : RingId × W32
  hf : HF
  /-- Beats that have been sent (04 R81). -/
  sent : Nat := 0
  deriving DecidableEq, Repr, Inhabited

/-- The Flue. -/
structure Flue where
  /-- FLUE_STAT.FENCED (15 Table 15-26). Reset 0 (R354). -/
  fenced : BitVec 4 := 0
  /-- The plane under loop-back, which carries no exchange meanwhile (13 R312). Reset 0. -/
  held : BitVec 4 := 0
  /-- Running exchanges, XACT (15 Table 15-26, 04 R88). Reset none. -/
  exch : List Exch := []
  /-- FLUE_ERRp: STARVE, UNCORR, CORR of plane p under keys 4p, 4p+1, 4p+2 (15 Table 15-26). Reset 0 (R354). -/
  err : List (Nat × Nat) := []
  /-- The reassembly buffers: flits sent and not yet in their receive pool, oldest first (04 R86). Reset empty. -/
  buffer : List Flit := []
  /-- The first pclk cycle that the Flue has not run (04 R81). Reset 0 (DESIGN CHOICE, log 3). -/
  now : Nat := 0
  /-- Credits of the pool of plane p at port d that are spent, of 512, under key 4d + p (04 R86). Reset 0. -/
  spent : List (Nat × Nat) := []
  /-- Credits on their way back: the pclk count at which each arrives, and its key (04 R86). Reset empty. -/
  returns : List (Nat × Nat) := []
  /-- The first cycle in which the ports of slice n are free of the exchanges and Sealed descriptors that have held them (04 R88,
  R89). Reset 0. -/
  freeAt : List (Nat × Nat) := []
  /-- Descriptors whose exchange waits for a port that another holds, in the order of their dispatch (04 R88). Reset empty. -/
  waits : List (RingId × W32) := []
  /-- Credit starvations of port d on plane p, under key 4d + p (04 R87). Reset 0. -/
  starved : List (Nat × Nat) := []
  deriving DecidableEq, Repr, Inhabited

/-- A request of the system matrix that has no response yet (04 R93). -/
structure Req where
  port : PortId
  /-- Master number (Table 04-6). -/
  master : Nat
  /-- Tag, when issued. -/
  tag : Option (Fin 512)
  wr : Bool
  r : RingId
  p : W32
  /-- Operand slot, or item code of R269 (8 for key and table reads, 11 for SIGNAL). -/
  item : Nat
  addr : Nat
  len : Nat
  /-- pclk count of its issue. -/
  issued : Nat
  /-- Logged as overdue (14 R331). -/
  overdue : Bool
  /-- The class bit: Sealed (04 R100, 10 R222). -/
  sealed : Bool := false
  /-- The host function tag, and the firmware flag that goes with 0xF (04 R96). -/
  hf : HF := 0
  fw : Bool := false
  /-- pclk cycles that its descriptor keeps between its requests to one memory (10 R222, R240). -/
  gap : Nat := 0
  /-- pclk count in which the target granted it (04 R92). -/
  grant : Option Nat := none
  deriving DecidableEq, Repr, Inhabited

/-- The arbiter of one target (04 R92, R100). -/
structure Arb where
  /-- The master granted last (04 R92). Reset 33 (DESIGN CHOICE, log 3: M0 is next). -/
  last : Nat := 33
  /-- The last grant of a stack port was the bypass input's (04 R100). Reset true (DESIGN CHOICE, log 3). -/
  byp : Bool := true
  /-- The first pclk counts in which the target, and the bypass input of a stack port, may grant again (04 R92, R101). Reset 0. -/
  next : Nat := 0
  bypNext : Nat := 0
  deriving DecidableEq, Repr, Inhabited

/-- The memory ports. -/
structure Ports where
  /-- The arbiters of targets T0 to T24 (04 Table 04-7). Reset as `Arb` gives. -/
  arbs : List (Nat × Arb) := []
  /-- The latest issue of a descriptor that spaces its requests, under key ((ring × 2^32) + index) × 32 + memory (10 R222). Reset
  empty. -/
  spaced : List (Nat × Nat) := []
  /-- Requests in order; one without a tag is held by its sender (04 R93, R97). Reset empty. -/
  reqs : List Req := []
  /-- MS_STATn.CORR of port n, 24 the host port (15 Table 15-26). Reset 0 (R354). -/
  corr : List (Nat × Nat) := []
  deriving DecidableEq, Repr, Inhabited

/-- What the two SCHED instances and Stoke's dispatcher keep. -/
structure Sched where
  /-- TOK[n] (12 R286, R289). Reset 0 (DESIGN CHOICE, log 3). -/
  tok : List (Nat × Int) := []
  /-- Sealed reservation of MSn in shares, MS_STATn.SHARES (10 R229). Reset 0 (R354). -/
  resv : List (Nat × Nat) := []
  /-- HP_STAT.HSHARES (10 R229). Reset 0 (R354). -/
  hresv : Nat := 0
  /-- TK[n], MS_STATn.TK, as SCHED last set it (12 R289, 15 Table 15-26). Reset 0 (R354: 0 until BANKED). -/
  tk : List (Nat × Nat) := []
  /-- The pclk count at which TOK[n] fell to 0 or below (14 Table 14-7). Reset 0. -/
  spentAt : List (Nat × Nat) := []
  /-- The host function for which Stoke dispatched last (12 R287). Reset 15 (DESIGN CHOICE, log 3: HF0 is next). -/
  last : Nat := 15
  /-- The host function that the fallback scheduler served last (13 R310). Reset 15 (DESIGN CHOICE, log 3). -/
  fbLast : Nat := 15
  /-- The number of the next dispatch (04 R88). Reset 0 (DESIGN CHOICE, log 3). -/
  turn : Nat := 0
  /-- The peer has taken over SCHED-A, SCHED-B (12 R303). Reset false. -/
  overA : Bool := false
  overB : Bool := false
  deriving DecidableEq, Repr, Inhabited

/-- Health state of Stoke and the hard-fault windows. -/
structure Health where
  /-- PTU_STOKE.QFENCED (15 Table 15-14). Reset 0 (R354). -/
  qfenced : BitVec 4 := 0
  /-- Events of Table 14-2 (14 R336). Reset empty. -/
  hist : List Hard := []
  /-- Hard-faulted units that HEALTH has still to fence, while it does not run: unit code and cause (14 R336, R346). Reset
  empty. -/
  due : List (Nat × Nat) := []
  /-- Telemetry page 1, entry k the counter at offset 8k (14 Table 14-7). Reset 0. -/
  tele : List (Nat × Nat) := []
  deriving DecidableEq, Repr, Inhabited

/-- The log ring's bookkeeping; its entries are bytes of the hearthstone region (12 R302). -/
structure Log where
  /-- SEQ of the next entry (12 Table 12-10, 13 R308). Reset 0 (R308: after por_n). -/
  seq : Nat := 0
  /-- Entries of severity 0 and 1 are enabled (12 R302). Reset false (DESIGN CHOICE, log 3). -/
  low : Bool := false
  /-- Entries that the ring has overwritten: SEQ, and the host function or 16 for a global one, for LOST (12 R302). Reset
  empty. -/
  overwritten : List (Nat × Nat) := []
  /-- The latest TIME_HINT: UTC in ns and fclk count (13 R325). Reset none (R325). -/
  hint : Option (Nat × Nat) := none
  deriving DecidableEq, Repr, Inhabited

/-- Whether a component runs (12 R303, R305). -/
inductive CompState where
  | running
  | restarting
  | stopped
  deriving DecidableEq, Repr, Inhabited

/-- A firmware component. -/
structure Component where
  /-- State (12 R303). Reset running (DESIGN CHOICE, log 3; it acts only from KINDLING on). -/
  st : CompState := .running
  /-- fclk counts of its faults (12 R305). Reset empty. -/
  faults : List Nat := []
  /-- Cause of its latest fault (12 Table 12-11). Reset 0. -/
  cause : Nat := 0
  /-- Its core has been warm-reset once more after three faults (12 R305). Reset false. -/
  again : Bool := false
  deriving DecidableEq, Repr, Inhabited

/-- A Bellows core (15 Table 15-27). -/
structure Core where
  /-- BCc_CTL.HALT (15 Table 15-27). Reset 0 (R354). -/
  halt : Bool := false
  /-- BCc_STAT.HALTED (15 Table 15-27). Reset 0 (R354). -/
  halted : Bool := false
  /-- BCc_STAT.RUN (15 Table 15-27). Reset 0 (R354). -/
  run : Bool := false
  /-- BCc_STAT.PC (15 Table 15-27). Reset 0 (R354). -/
  pc : W32 := 0
  /-- BCc_STAT.PART (15 Table 15-27). Reset 0 (R354). -/
  part : Nat := 0
  /-- Heartbeats missed in a row (12 R303). Reset 0. -/
  missed : Nat := 0
  deriving DecidableEq, Repr, Inhabited

/-- The Bellows; its SRAMs are memory of space 25. -/
structure Firmware where
  /-- Components, under their code of R302 (SCHED-B under 9). Reset as `Component` gives. -/
  comps : List (Nat × Component) := []
  /-- Cores BC0 to BC3. Reset as `Core` gives (R354). -/
  cores : List (Nat × Core) := []
  /-- fclk count since when ADMIN does not run (12 R299). Reset none. -/
  adminDown : Option Nat := none
  /-- The host function whose request ADMIN took last (12 R292). Reset 15 (DESIGN CHOICE, log 3: HF0 is next). -/
  adminLast : Nat := 15
  /-- BW_ADDR.ADDR, bits [31:3] (15 Table 15-27). Reset 0 (R354). -/
  bwAddr : BitVec 29 := 0
  /-- The message ports: messages of up to 64 bytes from component a to component b under key 16a + b, oldest first (12 R280). Reset
  empty (13 R308: data SRAM is wiped). -/
  ports : List (Nat × List (List Byte)) := []
  /-- Messages whose send failed on a full port, with its key, oldest first (12 R280). Reset empty. -/
  unsent : List (Nat × List Byte) := []
  /-- Sealed descriptors for which a SCHED instance has asked its peer, and those that the peer has granted (12 R290). Reset empty. -/
  asked : List (RingId × W32) := []
  lent : List (RingId × W32) := []
  deriving DecidableEq, Repr, Inhabited

/-- A DRBG checkpoint of a FLOOD (10 R236). -/
structure Checkpoint where
  r : RingId
  p : W32
  key : FloodKey
  deriving DecidableEq, Repr, Inhabited

/-- Ember and its mailbox. -/
structure Ember where
  /-- EMB_STAT.HEALTHOK (15 Table 15-28). Reset 0 (R354). -/
  healthOk : Bool := false
  /-- EMB_STAT.KEYSOK (15 Table 15-28). Reset 0 (R354). -/
  keysOk : Bool := false
  /-- EMB_STAT.FAIL (15 Table 15-28). Reset 0 (R354). -/
  fail : Bool := false
  /-- Start-up health attempts ended in failure (13 R313). Reset 0 (DESIGN CHOICE, log 3). -/
  attempts : Nat := 0
  /-- Attempts in which the two DRBG instances disagreed (13 R314). Reset 0 (DESIGN CHOICE, log 3). -/
  disagreed : Nat := 0
  /-- Entropy sources whose continuous test has failed (10 R241, 13 R314). Reset 0. -/
  bad : BitVec 2 := 0
  /-- Entropy sources that failed in Ember's latest tests, at start-up or continuous (15 Table 15-29). Reset 0. -/
  latest : BitVec 2 := 0
  /-- The latest comparison of the two DRBG instances found a difference (15 Table 15-29). Reset false. -/
  differ : Bool := false
  /-- EMB_TX0 to EMB_TX7 (15 Table 15-28). Reset 0 (R354). -/
  tx : List (Nat × W64) := []
  /-- The request that Ember holds, 64 bytes: EMB_STAT.BUSY (15 Table 15-28). Reset none (R354: 0). -/
  req : Option (List Byte) := none
  /-- fclk count at which the request was sent (13 R314). Reset 0 (DESIGN CHOICE, log 3). -/
  reqAt : Nat := 0
  /-- The waiting response, 64 bytes: EMB_STAT.RSP and EMB_RX0 to EMB_RX7 (15 Table 15-28). Reset none (R354: 0). -/
  rsp : Option (List Byte) := none
  /-- Payloads of the earlier pieces of a multi-piece request (15 R365). Reset empty. -/
  pieces : List Byte := []
  /-- CMD of the request whose pieces these are (15 R365). Reset 0. -/
  pieceOf : Nat := 0
  /-- FLOOD checkpoints, EMB_STAT.CKPT (10 R236). Reset empty (13 Table 13-2). -/
  ckpts : List Checkpoint := []
  /-- The nonce returned to the last LC_CHALLENGE and the fclk count at which it was (13 R321). Reset none. -/
  nonce : Option (BitVec 256 × Nat) := none
  /-- Ember is isolated by its supply (16 R373). Reset false. -/
  isolated : Bool := false
  deriving DecidableEq, Repr, Inhabited

/-- A Ledger record that is held unpersisted (13 R325, R326): type, payload, the fclk count of its event, and its DATE. -/
structure LedgerRec where
  ty : Nat
  payload : List Byte
  fclk : Nat
  date : Nat
  deriving DecidableEq, Repr, Inhabited

/-- How the restore of the Ledger stands (13 R328). -/
inductive Restore where
  | awaited
  | restored
  | restarted
  deriving DecidableEq, Repr, Inhabited

/-- The Ledger (13, The Ledger). -/
structure Ledger where
  /-- Counts since power-on, and after the restore the running totals (13 R323, R328). Reset 0. -/
  totals : LedgerTotals := {}
  /-- SEQ of the next record (13 Table 13-10). Reset 0 (DESIGN CHOICE, log 3). -/
  seq : Nat := 0
  /-- Records held unpersisted (13 R325). Reset empty. -/
  held : List LedgerRec := []
  /-- Persistence interval in seconds (13 R326). Reset 3600 (R326 gives it at entry to BANKED). -/
  interval : Nat := 3600
  /-- fclk count of the last persistence (13 R326). Reset 0 (DESIGN CHOICE, log 3). -/
  last : Nat := 0
  /-- Restore (13 R328). Reset awaited. -/
  st : Restore := .awaited
  /-- STALE (13 Table 13-11). Reset false. -/
  stale : Bool := false
  /-- A SHUTDOWN_NOTICE waits until LEDGER runs again (13 R327, 12 R303). Reset false. -/
  notice : Bool := false
  /-- Aging counts folded since the last persistence: latest, min, max of slice n under 3n, 3n+1, 3n+2 (13 R324).
  Reset empty. -/
  aging : List (Nat × Nat) := []
  deriving DecidableEq, Repr, Inhabited

/-- What the management store's cache and the PTU know of a firmware slot (13, Firmware images). -/
structure FwSlot where
  /-- The slot holds a valid image. Reset false (DESIGN CHOICE, log 4). -/
  valid : Bool := false
  /-- The boot watchdog has fired from it (13 R319). Reset false. -/
  failed : Bool := false
  svn : Nat := 0
  build : Nat := 0
  ifmaj : Nat := 0
  ifmin : Nat := 0
  deriving DecidableEq, Repr, Inhabited

/-- The states of a firmware update (13 Table 13-6). -/
inductive Update where
  | idle
  | requested
  | table
  | transfer
  | verified
  deriving DecidableEq, Repr, Inhabited

/-- Firmware update over the management port (13 R317). -/
structure Pldm where
  /-- Slots A and B (13, Firmware images). Reset empty (DESIGN CHOICE, log 4). -/
  slotA : FwSlot := {}
  slotB : FwSlot := {}
  /-- The active slot is B (13 R318). Reset A (DESIGN CHOICE, log 4). -/
  activeB : Bool := false
  /-- The slot that becomes active at the next ptu_rst_n (13 Table 13-6). Reset none. -/
  pendB : Option Bool := none
  /-- The update's state (13 Table 13-6). Reset idle. -/
  st : Update := .idle
  /-- Size of the component in transfer, and the bytes received (13 R317). Reset 0 and empty. -/
  size : Nat := 0
  buf : List Byte := []
  /-- Whether BOOT has tried slot A, slot B since the reset (13 R318). Reset false. -/
  triedA : Bool := false
  triedB : Bool := false
  deriving DecidableEq, Repr, Inhabited

/-- A thermal sensor (15 Table 15-15). -/
structure Sensor where
  /-- TEMP, signed 8.8 (15 Table 15-15). Reset 0 (R354). -/
  temp : Int := 0
  /-- VALID (15 Table 15-15). Reset 0 (R354). -/
  valid : Bool := false
  /-- SUBST (15 Table 15-15). Reset 0 (R354). -/
  subst : Bool := false
  /-- CAL (15 Table 15-15). Reset 0 (R354). -/
  cal : Bool := false
  deriving DecidableEq, Repr, Inhabited

/-- The Damper (16, Cooling and the Damper). -/
structure Damper where
  /-- TS0 to TS27 (15 Table 15-15). Reset as `Sensor` gives. -/
  ts : List (Nat × Sensor) := []
  /-- PTU_DAMPER.STEP (15 Table 15-13). Reset 0 (R354). -/
  step : Nat := 0
  /-- A requested step that has not taken effect (16 R369). Reset none. -/
  req : Option Nat := none
  /-- PTU_DAMPER.HHOLD and therm_trip (15 Table 15-13). Reset 0 (R354). -/
  hhold : Bool := false
  /-- The issue gap in force, 0 or 64 to 1024, and the fclk count of its last change (16 Table 16-7). Reset 0. -/
  gap : Nat := 0
  gapAt : Nat := 0
  /-- fclk counts since when the power is above 330 W at gap 1024, below 300 W, and since when the hottest reading is
  below 90 °C (16 Table 16-7). Reset none. -/
  overAt : Option Nat := none
  lowAt : Option Nat := none
  coolAt : Option Nat := none
  /-- fclk counts of the last STEP + 1 and STEP − 1 (16 Table 16-7). Reset none. -/
  upAt : Option Nat := none
  downAt : Option Nat := none
  /-- avs_req code and its base (16 R374). Reset 20 and 20 (R374: 20 in TINDER and KINDLING). -/
  avs : Nat := 20
  base : Nat := 20
  /-- The step that waits for avs_ack (16 R374). Reset none. -/
  wait : Option Nat := none
  deriving DecidableEq, Repr, Inhabited

/-- Supplies and the test network (16). -/
structure Edge where
  /-- ptu_rst_n is low (16 R370). Reset false. -/
  rst : Bool := false
  /-- pwr_fault (16 R373). Reset false. -/
  pwrFault : Bool := false
  /-- rail_good of VDD_PTU, VDD_RICK and VDD_EMBER, and ember_pwr_en (16 Table 16-1). Reset 7 and true (DESIGN CHOICE, log 3: the
  board releases por_n with every rail good, R372). -/
  railGood : BitVec 3 := 7
  emberPwrEn : Bool := true
  /-- A rail fault holds every unit in reset until ptu_rst_n has been released with every rail good (16 R373). Reset false. -/
  faultHold : Bool := false
  /-- Open segment-insertion bits S0 to S6 (16 R378). Reset 0 (DESIGN CHOICE, log 3). -/
  segs : BitVec 7 := 0
  /-- Segment bits that wait for the fallback scheduler (16 R378). Reset 0. -/
  segWait : BitVec 7 := 0
  /-- Started descriptors stay in their contexts and fallback fetching is stopped for a segment (16 R378). Reset false. -/
  fbStopped : Bool := false
  deriving DecidableEq, Repr, Inhabited

/-- What the block drives at its boundary (16 Table 16-1), in order. -/
inductive Out where
  /-- An event message: 4 bytes of `data` to `addr` (15 R357). -/
  | message (h : HF) (v : Nat) (addr : W64) (data : W32)
  | flrDone (h : HF)
  /-- A translation request (02 R36). -/
  | xlReq (h : HF) (pasid : Option (BitVec 20)) (iova : Nat)
  /-- An invalidation completion (02 R37). -/
  | invDone (h : HF) (iova : Nat)
  /-- A response of the management port: command name, completion (0 accepted) and payload. -/
  | mgmt (cmd : String) (code : Nat) (payload : List Byte)
  /-- A command that the PTU issues over the management port: its name and its numbers (13 R317, R328). -/
  | request (cmd : String) (args : List Nat)
  /-- A Ledger record: header and payload (13 R326). -/
  | ledger (bytes : List Byte)
  | pwrFault
  /-- avs_req (16 R374). -/
  | avsReq (code : Nat)
  /-- damper_step (16 Table 16-1). -/
  | damperStep (step : Nat)
  /-- damper_hold and therm_trip (16 Table 16-1, R376). -/
  | damperHold (on : Bool)
  | thermTrip (on : Bool)
  /-- A fatal condition reported over the management port (12 R305, 14 R338). -/
  | fatal (code : Nat)
  deriving DecidableEq, Repr

/-- The state of the block. -/
structure State where
  clk : Clocks := {}
  part : Part := {}
  ctl : Ctl := {}
  /-- Memory: a byte under key 2^64 × space + address; spaces 0 to 23 are the stacks, 24 host memory by translated
  address, 25 the Bellows address space. Reset: nothing listed (13 R308; log 5). -/
  mem : List Host.Cell := []
  /-- Poisoned 64-byte granules, under key 2^64 × space + address / 64 (04 R99, R380). Reset empty. -/
  poison : List (Nat × Bool) := []
  /-- Grants in effect (02 R31). Reset: each host's fallback grant (13 R309), see `State.reset`. -/
  grants : List Grant := []
  /-- Grants whose zeroing runs (12 R295). Reset empty. -/
  zeroing : List Grant := []
  /-- Which host function has held which range since power-on (12 R295). Reset empty. -/
  heldBy : List Grant := []
  xl : Xlate := {}
  /-- Rings by identifier (11 R247). Reset all as `Ring` gives. -/
  rings : List (Nat × Ring) := []
  /-- Owner of block b where it is not HF(b / 16) (11 R247). Reset empty. -/
  blocks : List (Nat × HF) := []
  /-- Descriptor fetches without data (11 R255). Reset empty. -/
  fetches : List Fetch := []
  /-- Bound contexts by number (12, Contexts). Reset none (R354: CTXFREE 0xC0). -/
  ctxs : List (Nat × Ctx) := []
  /-- Host functions by number. Reset as `HostFn` gives. -/
  hosts : List (Nat × HostFn) := []
  /-- Sync counter k of HFn under key 256n + k (11, FENCE and SIGNAL). Reset 0 (13 R308). -/
  sync : List (Nat × W64) := []
  /-- Slices by number. Reset as `Slice` gives. -/
  slices : List (Nat × Slice) := []
  flue : Flue := {}
  ports : Ports := {}
  sched : Sched := {}
  hl : Health := {}
  /-- Key-set table: identifier, chain, holder (12 R296). Reset empty (13 R308). -/
  keysets : List (W32 × W16 × HF) := []
  log : Log := {}
  fw : Firmware := {}
  emb : Ember := {}
  led : Ledger := {}
  pldm : Pldm := {}
  dmp : Damper := {}
  edge : Edge := {}
  /-- What the block has driven at its boundary, oldest first (16 R366). Reset empty. -/
  out : List Out := []
  /-- The commands that wait, first in first out (the model's own). Reset empty. -/
  pending : List Instr := []
  deriving DecidableEq, Repr

/-- The fallback grants of R309: 2 MiB for each host function on MS0. -/
def fallbackGrants : List Grant :=
  (List.finRange 16).map fun h => { hf := h, stack := 0, base := 0x400_0000 + h.val * 0x20_0000, size := 0x20_0000 }

/-- The machine at entry to TINDER (R354): every field at the value of its Reset column; the fields without one
hold the values of log entries 3 and 4. -/
def State.reset : State := { grants := fallbackGrants, heldBy := fallbackGrants }

end Sys2Proof.Machine
end

