-- ==== Sys2Proof/Machine/Bits.lean ====
section
/-! DEFINITION. Bit fields, byte order and small arithmetic on natural numbers (R5: little-endian, bit 0 least). -/

namespace Sys2Proof.Machine

/-- Bits [lo + len - 1 : lo] of `w`. -/
def bits (w lo len : Nat) : Nat := (w >>> lo) % 2 ^ len

/-- Bit `i` of `w`. -/
def bit (w i : Nat) : Bool := w.testBit i

/-- The number that a list of bytes spells, the first byte lowest (R5). -/
def leNat : List Byte → Nat
  | [] => 0
  | b :: bs => b.toNat + 256 * leNat bs

/-- The lowest `k` bytes of `n`, the lowest first (R5). -/
def natLe (n : Nat) : Nat → List Byte
  | 0 => []
  | k + 1 => BitVec.ofNat 8 n :: natLe (n / 256) k

/-- Byte `i` of a record, 0 beyond its end. -/
def byteAt (bs : List Byte) (i : Nat) : Nat := (bs.getD i 0).toNat

/-- The little-endian field of `n` bytes at offset `off` of a record. -/
def field (bs : List Byte) (off n : Nat) : Nat := leNat ((bs.drop off).take n)

/-- Whether the `n` bytes at offset `off` are all 0. -/
def zeroAt (bs : List Byte) (off n : Nat) : Bool := field bs off n == 0

/-- `n` taken as a two's complement number of `w` bits. -/
def signed (n w : Nat) : Int :=
  let x := n % 2 ^ w
  if x < 2 ^ (w - 1) then (x : Int) else (x : Int) - (2 ^ w : Nat)

/-- An integer modulo 2^w, as a natural number. -/
def wrapNat (i : Int) (w : Nat) : Nat := (i % ((2 ^ w : Nat) : Int)).toNat

/-- ⌈a / b⌉. -/
def ceilDiv (a b : Nat) : Nat := (a + b - 1) / b

/-- The bit reversal of `x` over `n` bits. -/
def brev : Nat → Nat → Nat
  | 0, _ => 0
  | n + 1, x => (x % 2) * 2 ^ n + brev n (x / 2)

/-- The number of ones among the lowest `n` bits of `x`. -/
def popcount : Nat → Nat → Nat
  | 0, _ => 0
  | n + 1, x => x % 2 + popcount n (x / 2)

/-- The positions below `n` of the ones of `x`, ascending. -/
def onesOf (n x : Nat) : List Nat := (List.range n).filter fun i => x.testBit i

/-- The largest element of a list, 0 for none. -/
def maxOf (l : List Nat) : Nat := l.foldl max 0

/-- The sum of a list. -/
def sumOf (l : List Nat) : Nat := l.foldl (· + ·) 0

/-- The length of the bit string of `x`: 0 for 0. -/
def bitLen (x : Nat) : Nat := if x = 0 then 0 else Nat.log2 x + 1

/-- a^e mod m by repeated squaring over the bits of `e`, `k` of them. -/
def powMod (m a : Nat) : Nat → Nat → Nat
  | 0, _ => 1 % m
  | k + 1, e =>
    let h := powMod m a k (e / 2)
    let q := h * h % m
    if e % 2 = 1 then q * a % m else q

/-- The inverse of an odd `k` modulo 2^n: its power 2^(n-1) - 1, as every odd number has order dividing 2^(n-1). -/
def invPow2 (n k : Nat) : Nat := powMod (2 ^ n) k n (2 ^ (n - 1) - 1)

/-- An update of one byte field of a record. -/
def setBytes (bs : List Byte) (off : Nat) (v : List Byte) : List Byte :=
  bs.take off ++ v ++ bs.drop (off + v.length)

/-- A list padded with zero bytes to length `n`, or cut to it. -/
def padTo (n : Nat) (bs : List Byte) : List Byte := (bs ++ List.replicate (n - bs.length) 0).take n

/-- A counter that saturates at 2^w - 1. -/
def sat (w n : Nat) : Nat := min n (2 ^ w - 1)

end Sys2Proof.Machine
end

