-- ==== Sys2Proof/Machine/Table.lean ====
section
/-! DEFINITION. Sparse tables: lists of key and value pairs in rising order of key. -/

namespace Sys2Proof.Machine

/-- The value under key `k`, or `d` when the table lists none. -/
def tget {α : Type} (t : List (Nat × α)) (k : Nat) (d : α) : α :=
  match t with
  | [] => d
  | (i, v) :: t => if i = k then v else tget t k d

/-- The table with `v` under key `k`. -/
def tput {α : Type} (t : List (Nat × α)) (k : Nat) (v : α) : List (Nat × α) :=
  match t with
  | [] => [(k, v)]
  | (i, w) :: t => if k < i then (k, v) :: (i, w) :: t else if i = k then (k, v) :: t else (i, w) :: tput t k v

/-- The table without key `k`. -/
def tdel {α : Type} (t : List (Nat × α)) (k : Nat) : List (Nat × α) := t.filter fun e => e.1 != k

/-- The table with `v` under key `k`, which lists no value equal to the default `d`. -/
def tset {α : Type} [DecidableEq α] (d : α) (t : List (Nat × α)) (k : Nat) (v : α) : List (Nat × α) :=
  if v = d then tdel t k else tput t k v

/-- The entry under `k` passed through `f`. -/
def tupd {α : Type} (t : List (Nat × α)) (k : Nat) (d : α) (f : α → α) : List (Nat × α) :=
  tput t k (f (tget t k d))

/-- A counter raised by `n`, saturating at `w` bits. -/
def tcount (t : List (Nat × Nat)) (k w n : Nat) : List (Nat × Nat) := tupd t k 0 fun x => sat w (x + n)

/-- Keys rise strictly. -/
def tsorted {α : Type} : List (Nat × α) → Bool
  | [] => true
  | [_] => true
  | (i, _) :: (j, w) :: t => decide (i < j) && tsorted ((j, w) :: t)

/-- The canonical form: keys rise strictly and no value equals the default. -/
def twf {α : Type} [DecidableEq α] (d : α) (t : List (Nat × α)) : Bool :=
  tsorted t && t.all fun e => decide (e.2 ≠ d)

end Sys2Proof.Machine
end

