-- ==== Sys2Proof/Machine/Flags.lean ====
section
/-! DEFINITION. Status codes (Table 11-7), admin result codes (Table 12-6), and the flags that the block computes:
the service flags of PTU_STAGE, the keys of PTU_LC, the phase bit of a record. -/

namespace Sys2Proof

/-- Slices and stack ports of a variant (Table 00-1). -/
def Variant.slices : Variant → Nat
  | .ptu24S => 24
  | .ptu16S => 16
  | .ptu24 => 24

/-- Whether a variant has Sealed service and FLOOD (Table 00-1). -/
def Variant.sealed : Variant → Bool
  | .ptu24S => true
  | .ptu16S => true
  | .ptu24 => false

/-- The code of PTU_LC.LC (Table 13-7). -/
def Lifecycle.code : Lifecycle → Nat
  | .green => 0x1
  | .seasoned => 0x3
  | .service => 0x7
  | .ret => 0xB
  | .spent => 0xF

/-- The lifecycle state with a code, if there is one. -/
def Lifecycle.ofCode (n : Nat) : Option Lifecycle :=
  if n = 0x1 then some .green else if n = 0x3 then some .seasoned else if n = 0x7 then some .service
  else if n = 0xB then some .ret else if n = 0xF then some .spent else none

/-- PTU_LC.KEYS: 0x1 in GREEN, 0xF in every later state (R315). -/
def Lifecycle.keys : Lifecycle → Nat
  | .green => 0x1
  | _ => 0xF

/-- The code of PTU_STAGE.STAGE (Table 13-1); 0 before the first stage (R306). -/
def Stage.code : Stage → Nat
  | .reset => 0
  | .tinder => 0x1
  | .kindling => 0x2
  | .banked => 0x4
  | .quenched => 0x8

/-- The component code of TP[15:12] (R302); the two SCHED instances share code 2. -/
def Comp.code : Comp → Nat
  | .boot => 0
  | .kernel => 1
  | .schedA => 2
  | .schedB => 2
  | .admin => 3
  | .log => 4
  | .ledger => 5
  | .health => 6
  | .keys => 7
  | .test => 8

/-- The model's own key of a component in `Firmware.comps`: its code, and 9 for SCHED-B. -/
def Comp.key : Comp → Nat
  | .schedB => 9
  | c => c.code

/-- The component with a key; KERNEL for any other number. -/
def Comp.ofKey (k : Nat) : Comp :=
  (([.boot, .schedA, .schedB, .admin, .log, .ledger, .health, .keys, .test] : List Comp).find? fun c => c.key == k).getD .kernel

/-- The core on which a component runs (Table 12-1); KERNEL is given on BC0. -/
def Comp.core : Comp → Nat
  | .schedA => 1
  | .schedB => 2
  | .health => 3
  | .keys => 3
  | .test => 3
  | _ => 0

end Sys2Proof

namespace Sys2Proof.Machine

/-! Status codes of Table 11-7. -/
def stDone : W16 := 0x0000
def stShapeFault : W16 := 0x0101
def stProtFault : W16 := 0x0102
def stXlateFault : W16 := 0x0103
def stOverlap : W16 := 0x0104
def stBadOpcode : W16 := 0x0105
def stBadPattern : W16 := 0x0106
def stBadType : W16 := 0x0107
def stBadModulus : W16 := 0x0108
def stBudgetExhausted : W16 := 0x0110
def stKeyMismatch : W16 := 0x0111
def stChainMismatch : W16 := 0x0112
def stHostFrozen : W16 := 0x0201
def stFlushed : W16 := 0x0202
def stSealedUnavailable : W16 := 0x0203
def stSourceCorrupt : W16 := 0x0301
def stKeyCorrupt : W16 := 0x0302

/-! Admin result codes of Table 12-6. -/
def resOk : Nat := 0
def resRefused : Nat := 1
def resBusy : Nat := 2
def resDenied : Nat := 3
def resInvalid : Nat := 4
def resNoSession : Nat := 5
def resNoResource : Nat := 6

/-- The number of slices of the part. -/
def State.nslices (s : State) : Nat := s.part.variant.slices

/-- PTU_STAGE.SEALOK (Table 15-11). -/
def State.sealOk (s : State) : Bool :=
  s.ctl.sealen && s.part.variant.sealed && (s.part.lc == .seasoned || s.part.lc == .service)

/-- Whether a Sealed descriptor or FLOOD is served: R4, R307, R241. -/
def State.sealedServed (s : State) : Bool := s.sealOk && s.ctl.stage == .banked && s.emb.keysOk

/-- The code of a ring's state (Table 15-22). -/
def RingState.code : RingState → Nat
  | .disabled => 0
  | .enabled => 1
  | .frozen => 2
  | .error => 3

/-- The code of a session (Table 15-18). -/
def Session.code : Session → Nat
  | .none => 0
  | .active => 1
  | .frozen => 2
  | .refused => 3

/-- The bit of a record that tells its lap: bit LOG2SIZE of the index (Table 11-6). -/
def phaseBit (idx : W32) (log2size : Nat) : Bool := idx.toNat.testBit log2size

/-- Whether a status is a program error (R226). -/
def isProgramError (st : W16) : Bool := st.toNat / 256 == 1

end Sys2Proof.Machine
end

