-- ==== Sys2Proof/Machine/Ops.lean ====
section
/-! DEFINITION. The named operations that the commands share: access to the parts of the state, memory, the
hearthstone region, the log ring, event vectors and global events, telemetry. -/

namespace Sys2Proof.Machine

/-- The result type of every meaning. -/
abbrev Res := Host.Outcome State Fault Refusal

/-- A slice that the variant does not have reports no event (R3). -/
def onSlice (s : State) (n : SliceId) (f : Unit → Res) : Res :=
  if n.val < s.nslices then f () else .fault (.absentUnit n.val)

/-- The units on pclk work: no hard hold stops pclk (R376, R377), and the part is not held in reset (R370, R373). -/
def State.pclkRuns (s : State) : Bool := !s.dmp.hhold && !s.ctl.inReset

/-- An event of the slices, the Flue, Stoke or the system matrix does not occur while pclk stands (R377). -/
def onPclk (s : State) (f : Unit → Res) : Res := if s.pclkRuns then f () else .next s

/-! ### Parts of the state -/

def State.host (s : State) (h : HF) : HostFn := tget s.hosts h.val {}
def State.setHost (s : State) (h : HF) (v : HostFn) : State := { s with hosts := tput s.hosts h.val v }
def State.updHost (s : State) (h : HF) (f : HostFn → HostFn) : State := s.setHost h (f (s.host h))

def State.ring (s : State) (r : RingId) : Ring := tget s.rings r.val {}
def State.setRing (s : State) (r : RingId) (v : Ring) : State := { s with rings := tput s.rings r.val v }
def State.updRing (s : State) (r : RingId) (f : Ring → Ring) : State := s.setRing r (f (s.ring r))

def State.slice (s : State) (n : SliceId) : Slice := tget s.slices n.val {}
def State.setSlice (s : State) (n : SliceId) (v : Slice) : State := { s with slices := tput s.slices n.val v }
def State.updSlice (s : State) (n : SliceId) (f : Slice → Slice) : State := s.setSlice n (f (s.slice n))

/-- Pool `k` of a slice. -/
def Slice.pool (v : Slice) (k : Nat) : Pool := tget v.pools k {}
def Slice.updPool (v : Slice) (k : Nat) (f : Pool → Pool) : Slice := { v with pools := tupd v.pools k {} f }

/-- The owner of a ring's block (R247). -/
def State.ringOwner (s : State) (r : RingId) : HF := tget s.blocks (r.val / 256) (Fin.ofNat 16 (r.val / 4096))

/-- The sync counter `k` of a host function (11, FENCE and SIGNAL). -/
def State.syncCounter (s : State) (h : HF) (k : Nat) : W64 := tget s.sync (h.val * 256 + k) 0
def State.setSync (s : State) (h : HF) (k : Nat) (v : W64) : State :=
  { s with sync := tset 0 s.sync (h.val * 256 + k) v }

/-- The context bound to a ring, with its number (R283: at most one). -/
def State.ctxOf (s : State) (r : RingId) : Option (Nat × Ctx) := s.ctxs.find? fun e => e.2.ring == r

/-- The fetched descriptor with index `p` of ring `r`. -/
def State.slotOf (s : State) (r : RingId) (p : W32) : Option Slot :=
  (s.ctxOf r).bind fun e => e.2.slots.find? fun d => d.idx == p

/-- The fetched descriptors of a ring, in index order. -/
def State.slotsOf (s : State) (r : RingId) : List Slot :=
  match s.ctxOf r with
  | none => []
  | some e => e.2.slots

/-- Every fetched descriptor with its ring. -/
def State.allSlots (s : State) : List (RingId × Slot) :=
  s.ctxs.flatMap fun e => e.2.slots.map fun d => (e.2.ring, d)

/-- Applies `f` to the context of ring `r`. -/
def State.updCtx (s : State) (r : RingId) (f : Ctx → Ctx) : State :=
  { s with ctxs := s.ctxs.map fun e => if e.2.ring == r then (e.1, f e.2) else e }

/-- Applies `f` to descriptor `p` of ring `r`. -/
def State.updSlot (s : State) (r : RingId) (p : W32) (f : Slot → Slot) : State :=
  s.updCtx r fun c => { c with slots := c.slots.map fun d => if d.idx == p then f d else d }

/-- Advances the counter of free values by `n`. -/
def State.useFree (s : State) (n : Nat) : State := { s with clk := { s.clk with free := s.clk.free + n } }

/-! Clocks: a command that carries a count sets its clock to it, never back. -/
def State.atPclk (s : State) (c : Nat) : State := { s with clk := { s.clk with pclk := max s.clk.pclk c } }
def State.atNclk (s : State) (m : Nat) : State := { s with clk := { s.clk with nclk := max s.clk.nclk m } }
def State.atFclk (s : State) (f : Nat) : State := { s with clk := { s.clk with fclk := max s.clk.fclk f } }

/-- Drives `o` at the boundary. -/
def State.emit (s : State) (o : Out) : State := { s with out := s.out ++ [o] }

/-! ### Memory -/

/-- The key of a byte: spaces 0 to 23 are the stacks, 24 host memory, 25 the Bellows address space. -/
def memKey (space addr : Nat) : Nat := space * 2 ^ 64 + addr

/-- What a byte that nothing has written reads as (log 5). -/
def unlistedByte : Byte := 0

/-- The memory's canonical form. -/
abbrev Memory.wf (m : List Host.Cell) : Bool := twf unlistedByte m

def readMem (m : List Host.Cell) (k : Nat) : Byte := tget m k unlistedByte
def writeMem (m : List Host.Cell) (k : Nat) (b : Byte) : List Host.Cell := tset unlistedByte m k b

/-- Writes consecutive bytes from key `k`. -/
def writeMems (m : List Host.Cell) (k : Nat) : List Byte → List Host.Cell
  | [] => m
  | b :: bs => writeMems (writeMem m k b) (k + 1) bs

/-- `n` consecutive bytes from address `addr` of a space. -/
def State.readBytes (s : State) (space addr n : Nat) : List Byte :=
  (List.range n).map fun i => readMem s.mem (memKey space (addr + i))

/-- The granules that a write of `len` bytes at `addr` covers whole: first granule and count (R380). -/
def wholeGranules (addr len : Nat) : Nat × Nat :=
  let a := ceilDiv addr 64
  (a, (addr + len) / 64 - a)

/-- A write with all byte enables of a granule clears its poison (R380). -/
def clearPoison (t : List (Nat × Bool)) (space addr len : Nat) : List (Nat × Bool) :=
  let g := wholeGranules addr len
  t.filter fun e => ! (decide (memKey space g.1 ≤ e.1) && decide (e.1 < memKey space (g.1 + g.2)))

/-- Undefined bytes: n of them from key k on (log 1). -/
def State.freeBytes (s : State) (k n : Nat) : List Byte := (List.range n).map fun i => Config.freeByte (s.clk.free * 2 ^ 80 + 2 ^ 64 + k + i)

/-- The state as one sees it to whom the bytes of some ranges are undefined (R34, R51). -/
def State.blurred (s : State) (gs : List Range) : State :=
  { s with mem := gs.foldl (fun m g => writeMems m (memKey g.space g.lo) (s.freeBytes (memKey g.space g.lo) g.len)) s.mem }

/-- One write of consecutive bytes: the bytes change, and granules written whole lose their poison. -/
def State.writeBytes (s : State) (space addr : Nat) (bs : List Byte) : State :=
  { s with
    mem := writeMems s.mem (memKey space addr) bs
    poison := clearPoison s.poison space addr bs.length }

/-- Whether a read of `len` bytes at `addr` returns a poisoned granule (R99). -/
def State.poisoned (s : State) (space addr len : Nat) : Bool :=
  s.poison.any fun e =>
    e.2 && decide (memKey space (addr / 64) ≤ e.1) && decide (e.1 < memKey space ((addr + len + 63) / 64)) && decide (0 < len)

/-- Zeros over a range of a space. -/
def State.zeroRange (s : State) (space addr len : Nat) : State :=
  { s with
    mem := s.mem.filter fun e => !(decide (memKey space addr ≤ e.1) && decide (e.1 < memKey space addr + len))
    poison := clearPoison s.poison space addr len }

/-! ### The hearthstone region (R102) -/

/-- Firmware writes every word of the region to MS0 and to MS12. -/
def State.hsWrite (s : State) (addr : Nat) (bs : List Byte) : State :=
  (s.writeBytes 0 addr bs).writeBytes 12 addr bs

/-- Zeros over a range of the region. -/
def State.hsZero (s : State) (addr len : Nat) : State := (s.zeroRange 0 addr len).zeroRange 12 addr len

/-- Firmware reads the MS0 copy, and the MS12 copy when MS0 returns poison or is fenced. -/
def State.hsRead (s : State) (addr n : Nat) : List Byte :=
  if s.poisoned 0 addr n || (s.slice 0).fenced then s.readBytes 12 addr n else s.readBytes 0 addr n

/-- Whether a range of stack `stack` meets the hearthstone region (R31). -/
def meetsHearthstone (stack addr len : Nat) : Bool :=
  (stack == 0 || stack == 12) && decide (addr < 0x400_0000) && decide (0 < len)

/-- Whether a range lies wholly inside one grant of a host function (R31). -/
def State.inGrant (s : State) (h : HF) (stack addr len : Nat) : Bool :=
  s.grants.any fun g => g.hf == h && g.stack == stack && decide (g.base ≤ addr) && decide (addr + len ≤ g.base + g.size)

/-! ### Units in service -/

/-- A slice in service: present and not fenced. -/
def State.live (s : State) (n : Nat) : Bool := decide (n < s.nslices) && !(tget s.slices n {}).fenced

/-- Instruments of S1 to S6 are open: no descriptor starts (16 R378). -/
def State.inTest (s : State) : Bool := decide (2 ≤ s.edge.segs.toNat)

/-- The Sealed shares of MSn in force: its reservation, but one at most while HSn is fenced (R229, R337). -/
def State.resvOf (s : State) (n : Nat) : Nat :=
  if (tget s.slices n {}).fenced then min (tget s.sched.resv n 0) 1 else tget s.sched.resv n 0

/-- The buddy of slice n (R3, R10). -/
def State.buddy (s : State) (n : Nat) : Nat := (n + 1) % s.nslices

/-- The slice that serves stack m, if any (R338). -/
def State.server (s : State) (m : Nat) : Option Nat :=
  if s.live m then some m else if decide (m < s.nslices) && s.live (s.buddy m) then some (s.buddy m) else none

/-- Stack m is orphaned (R338). -/
def State.orphaned (s : State) (m : Nat) : Bool := decide (m < s.nslices) && (s.server m).isNone

/-- The live quarters, ascending (R340). -/
def State.liveQuarters (s : State) : List Nat := (List.range 4).filter fun q => !s.hl.qfenced.getLsbD q

/-- The quarter that serves a ring (R253, R340). -/
def State.quarterOf (s : State) (r : RingId) : Option Nat :=
  let q := r.val % 4
  if !s.hl.qfenced.getLsbD q then some q
  else
    let lq := s.liveQuarters
    if lq.isEmpty then none else lq[(r.val / 4) % lq.length]?

/-- The planes that carry no exchange: fenced, or held for their loop-back (R90, R312). -/
def State.planesOut (s : State) : BitVec 4 := s.flue.fenced ||| s.flue.held

/-- Words of a beat: 16 for each plane that carries exchanges (R77, R339). -/
def State.beatWords (s : State) : Nat := 16 * (4 - popcount 4 s.planesOut.toNat)

/-- Whether firmware runs, so that LOG, ADMIN and HEALTH act (Table 13-1, R314). -/
def State.firmwareUp (s : State) : Bool := s.ctl.stage == .kindling || s.ctl.stage == .banked || s.ctl.quenching

/-- A component of the firmware. -/
def State.component (s : State) (c : Comp) : Component := tget s.fw.comps c.key {}
def State.updComponent (s : State) (c : Comp) (f : Component → Component) : State :=
  { s with fw := { s.fw with comps := tupd s.fw.comps c.key {} f } }

/-- Component c is neither restarting nor stopped, and its core is not halted (R303, R364). -/
def State.compUp (s : State) (c : Comp) : Bool := (s.component c).st == .running && !(tget s.fw.cores c.core {}).halted

/-- Whether component c acts now. -/
def State.compRuns (s : State) (c : Comp) : Bool := s.firmwareUp && s.compUp c

/-! ### Message ports (R280) -/

/-- The key of the port from one component to another. -/
def portKey (a b : Comp) : Nat := 16 * a.key + b.key

/-- A send of a message of up to 64 bytes: a port holds 32; a send to a full one fails, and is kept for the sender's next activation. -/
def Firmware.send (fw : Firmware) (k : Nat) (m : List Byte) : Firmware :=
  let q := tget fw.ports k []
  if q.length < 32 then { fw with ports := tput fw.ports k (q ++ [m.take 64]) } else { fw with unsent := fw.unsent ++ [(k, m)] }

/-! ### The log ring (R302) -/

/-- The bytes of a log entry (Table 12-10). -/
def logEntryBytes (fclk tp sev hf comp core : Nat) (glob : Bool) (seq arg0 arg1 : Nat) : List Byte :=
  natLe fclk 8 ++ natLe tp 2 ++ natLe (sev * 16 + hf) 1 ++ natLe (comp * 8 + core * 2 + glob.toNat) 1 ++ natLe seq 4 ++
    natLe arg0 8 ++ natLe arg1 8

/-- The base of the log ring and its entries (Table 12-2). -/
def logBase : Nat := 0x280_0000
def logEntries : Nat := 131072

/-- The entry that SEQ n - 131072 left is overwritten: whose it was (R302). -/
def State.noteOverwritten (s : State) : State :=
  if s.log.seq < logEntries then s
  else
    let b := s.hsRead (logBase + 32 * (s.log.seq % logEntries)) 32
    { s with log := { s.log with overwritten := s.log.overwritten ++
        [(s.log.seq - logEntries, if bit (byteAt b 11) 0 then 16 else bits (byteAt b 10) 0 4)] } }

/-- LOG writes an entry under the next SEQ (R302). -/
def State.putEntry (s : State) (bs : List Byte) : State :=
  let s := s.noteOverwritten.hsWrite (logBase + 32 * (s.log.seq % logEntries)) (setBytes bs 12 (natLe s.log.seq 4))
  { s with log := { s.log with seq := s.log.seq + 1 } }

/-- An entry of component `c` on a core reaches LOG through its port, and LOG writes it; entries of severity 0 and 1 only when enabled
(R302). While LOG does not run it waits in the port, and when that is full with its sender (R280, R303). -/
def State.logEntryOn (s : State) (core : Nat) (c : Comp) (tp sev : Nat) (h : Option HF) (arg0 arg1 : Nat) : State :=
  if !s.firmwareUp || (sev < 2 && !s.log.low) then s
  else
    let bs := logEntryBytes s.clk.fclk tp sev (match h with | none => 0 | some h => h.val) c.code core h.isNone s.log.seq arg0 arg1
    if s.compUp .log then s.putEntry bs else { s with fw := s.fw.send (portKey c .log) bs }

/-- The keys of LOG's ports. -/
def logPort (k : Nat) : Bool := k % 16 == Comp.log.key

/-- LOG writes the entries in its ports, port by port in the order of the senders' codes (DESIGN CHOICE, log 47). -/
def State.drainLog (s : State) : State :=
  let ms := (s.fw.ports.filter fun e => logPort e.1).flatMap (·.2)
  ms.foldl State.putEntry { s with fw := { s.fw with ports := s.fw.ports.filter fun e => !logPort e.1 } }

/-- The senders that run repeat what they could not send to LOG. -/
def State.resendLog (s : State) : State :=
  let goes (e : Nat × List Byte) : Bool := logPort e.1 && (s.component (Comp.ofKey (e.1 / 16))).st == .running
  (s.fw.unsent.filter goes).foldl (fun s e => { s with fw := s.fw.send e.1 e.2 })
    { s with fw := { s.fw with unsent := s.fw.unsent.filter fun e => !goes e } }

/-- LOG empties its ports until the running senders have nothing left, n times at most. -/
def State.emptyLog : Nat → State → State
  | 0, s => s
  | n + 1, s => if s.fw.unsent.isEmpty then s.drainLog else State.emptyLog n s.drainLog.resendLog

/-- LOG takes the entries that wait, while it runs (R280, R303). -/
def State.takeEntries (s : State) : State :=
  if s.compUp .log then (State.emptyLog (s.fw.unsent.length + 1) s).drainLog else s

/-- LOG writes an entry of component `c` on its core. -/
def State.logEntry (s : State) (c : Comp) (tp sev : Nat) (h : Option HF) (arg0 arg1 : Nat) : State :=
  s.logEntryOn c.core c tp sev h arg0 arg1

/-! ### Events -/

def HostFn.vec (h : HostFn) (v : Nat) : EvVec := tget h.vecs v {}
def HostFn.updVec (h : HostFn) (v : Nat) (f : EvVec → EvVec) : HostFn := { h with vecs := tupd h.vecs v {} f }

/-- A signal of vector v sets PEND (R357). -/
def State.signalVec (s : State) (h : HF) (v : Nat) : State :=
  s.updHost h fun x => x.updVec v fun e => { e with pend := true }

/-- One host function's copy of GEVT takes event b; a bit that rises while enabled signals GVEC (R356). -/
def raiseGevt (x : HostFn) (b : Nat) : HostFn :=
  let y := { x with gevt := x.gevt ||| BitVec.ofNat 6 (2 ^ b) }
  if !x.gevt.getLsbD b && x.gevten.getLsbD b then y.updVec x.gvec.toNat fun e => { e with pend := true } else y

/-- A global event of Table 15-16 reaches every host function's copy (R356). -/
def State.globalEvent (s : State) (b : Nat) : State :=
  (List.finRange 16).foldl (fun s h => s.updHost h fun x => raiseGevt x b) s

def evStage : Nat := 0
def evFence : Nat := 1
def evOrphan : Nat := 2
def evSealed : Nat := 3
def evDamper : Nat := 4
def evLcXfer : Nat := 5

/-- An update of the state after which a change of SEALOK raises event 3 (Table 15-16). -/
def State.withSealEvent (old new : State) : State :=
  if old.sealOk != new.sealOk then new.globalEvent evSealed else new

/-- A change of stage, with its event (Table 15-16). -/
def State.setStage (s : State) (st : Stage) : State :=
  ({ s with ctl := { s.ctl with stage := st } } : State).globalEvent evStage

/-! ### Telemetry and the Ledger's counters -/

/-- Raises counter k (offset 8k) of host page 0 (Table 14-7). -/
def State.teleHost (s : State) (h : HF) (k n : Nat) : State :=
  s.updHost h fun x => { x with tele := tcount x.tele k 64 n }

/-- Raises counter k (offset 8k) of page 1 (Table 14-7). -/
def State.teleGlobal (s : State) (k n : Nat) : State :=
  { s with hl := { s.hl with tele := tcount s.hl.tele k 64 n } }

/-- Raises the 32-bit ERRORS count at payload byte 4k (Table 13-11). -/
def State.ledgerError (s : State) (k n : Nat) : State :=
  { s with led := { s.led with totals := { s.led.totals with errors := tcount s.led.totals.errors k 32 n } } }

/-- UTC in ns at fclk count f by a TIME_HINT: 1.2 counts per ns (R325). -/
def utcAt (hint : Nat × Nat) (f : Nat) : Nat := ((hint.1 : Int) + ((f : Int) - hint.2) * 5 / 6).toNat

/-- The DATE of a record made now: 0 before the first hint (R325). -/
def State.dateNow (s : State) : Nat :=
  match s.log.hint with
  | some h => utcAt h s.clk.fclk
  | none => 0

/-- LEDGER holds a record of type ty until it persists it (R326). -/
def State.ledgerHold (s : State) (ty : Nat) (payload : List Byte) : State :=
  { s with led := { s.led with held := s.led.held ++ [{ ty := ty, payload := payload, fclk := s.clk.fclk, date := s.dateNow }] } }

/-! ### Ring table entries (Table 11-1) -/

/-- A ring table entry. -/
structure RingEntry where
  dbase : Nat
  cbase : Nat
  loc : Nat
  log2size : Nat
  prio : Nat
  hf : Nat
  vec : Nat
  ecnt : Nat
  etime : Nat
  pv : Bool
  pasid : BitVec 20
  rsv : Bool
  deriving DecidableEq, Repr

def parseRingEntry (b : List Byte) : RingEntry :=
  { dbase := field b 0 8, cbase := field b 8 8, loc := byteAt b 16, log2size := byteAt b 17
    prio := bits (byteAt b 18) 4 2, hf := bits (byteAt b 18) 0 4, vec := bits (byteAt b 19) 0 6
    ecnt := byteAt b 20, etime := byteAt b 21, pv := bit (field b 24 4) 31, pasid := BitVec.ofNat 20 (field b 24 4)
    rsv := bits (byteAt b 18) 6 2 != 0 || bits (byteAt b 19) 6 2 != 0 || !zeroAt b 22 2 ||
      bits (field b 24 4) 20 11 != 0 || !zeroAt b 28 4 }

def ringTableAddr (r : RingId) : Nat := 0x100_0000 + 32 * r.val

/-- Whether r is the fallback ring of its owner while the fallback scheduler serves it (13, Fallback service). -/
def State.isFallback (s : State) (r : RingId) : Bool := r.val % 4096 == 0 && s.ctl.fbAct

/-- The entry that serves a ring: as it stood when the ring was enabled (R248, R309, R359). -/
def State.ringEntry (s : State) (r : RingId) : RingEntry := parseRingEntry (s.ring r).image

/-- The host function of a ring (R247: the owner of its block). -/
def State.ringHost (s : State) (r : RingId) : HF := s.ringOwner r

/-- The pending bit of a ring's host vector: the ring signals VEC (R274), and every unsignalled record is covered. -/
def State.ringSignal (s : State) (r : RingId) : State :=
  (s.updRing r fun x => { x with unsig := 0, oldest := none }).signalVec (s.ringHost r) (s.ringEntry r).vec

/-- A ring enters ERROR with a cause, is logged (0x3006) and signals its vector (R252, R254, R274). -/
def State.ringError (s : State) (r : RingId) (cause : Nat) : State :=
  let s := s.updRing r fun x => { x with st := .error, cause := cause }
  let s := s.logEntry .admin 0x3006 2 (some (s.ringHost r)) r.val cause
  s.ringSignal r

end Sys2Proof.Machine
end

