-- ==== Sys2Proof/Machine/Operands.lean ====
section
/-! DEFINITION. Operand forms: descriptor fields (R257 to R260), layout cards and turf tables (R21 to R33), cipher
cards (R42, R44), chain tables (Table 02-6, Table 02-7), and the way from an element to its bytes. -/

namespace Sys2Proof.Machine

/-! ### Descriptors -/

/-! Header fields (Table 11-2). -/
def dOpcode (d : List Byte) : Nat := byteAt d 0
def dSealed (d : List Byte) : Bool := bit (byteAt d 1) 0
def dLink (d : List Byte) : Bool := bit (byteAt d 1) 1
def dEvt (d : List Byte) : Bool := bit (byteAt d 1) 2
def dMinbud (d : List Byte) : Int := signed (field d 2 2) 16
def dCookie (d : List Byte) : Nat := field d 4 4

/-- A slot or a card pointer (R258), or a location field (R260). -/
structure Ptr where
  valid : Bool
  res : Bool
  rsv : Bool
  stack : Nat
  addr : Nat
  deriving DecidableEq, Repr

def parsePtr (w : Nat) : Ptr :=
  { valid := bit w 63, res := bit w 62, rsv := bits w 45 17 != 0, stack := bits w 40 5, addr := bits w 0 40 }

/-- The word of operand slot k. -/
def slotWord (d : List Byte) (k : Nat) : Nat := field d (32 + 8 * k) 8
def slotPtr (d : List Byte) (k : Nat) : Ptr := parsePtr (slotWord d k)
def scardPtr (d : List Byte) : Ptr := parsePtr (field d 16 8)
def dcardPtr (d : List Byte) : Ptr := parsePtr (field d 24 8)

/-- The opcodes of Table 00-5. -/
inductive Op where
  | copy | fill | transpose | bitrev | automorph | negrot | pattern | gather | scatter | window | relayout
  | baseconv | rescale | ksip | digits | lutpoly | extract | convert | flood | tileprog | fence | signal
  deriving DecidableEq, Repr, Inhabited

/-- Codes and opcodes (Table 00-5). -/
def opTable : List (Nat × Op) :=
  [(0x01, .copy), (0x02, .fill), (0x10, .transpose), (0x11, .bitrev), (0x12, .automorph), (0x13, .negrot),
   (0x14, .pattern), (0x18, .gather), (0x19, .scatter), (0x1A, .window), (0x20, .relayout), (0x28, .baseconv),
   (0x29, .rescale), (0x2A, .ksip), (0x2B, .digits), (0x30, .lutpoly), (0x31, .extract), (0x38, .convert),
   (0x39, .flood), (0x40, .tileprog), (0x50, .fence), (0x51, .signal)]

/-- The opcode of a descriptor, if it is assigned (R9). -/
def opOf (d : List Byte) : Option Op := (opTable.find? fun e => e.1 == dOpcode d).map (·.2)

/-- The operand slots that an opcode uses (Table 11-3); TILEPROG uses those that its program declares. -/
def opSlots : Op → List Nat
  | .fill => [4]
  | .gather => [0, 1, 4]
  | .scatter => [0, 1, 4]
  | .rescale => [0, 1, 4]
  | .ksip => [0, 1, 4]
  | .fence => []
  | .signal => []
  | .tileprog => [0, 1, 2, 3, 4, 5]
  | _ => [0, 4]

/-! ### Element types (Table 02-1) -/

/-- Bits of an element of a type, 0 for a code that is not in the table. -/
def tyBits (t : Nat) : Nat :=
  if t = 0x01 ∨ t = 0x02 ∨ t = 0x03 ∨ t = 0x04 then 64
  else if t = 0x10 ∨ t = 0x14 ∨ t = 0x21 ∨ t = 0x30 then 32
  else if t = 0x11 ∨ t = 0x15 ∨ t = 0x22 ∨ t = 0x23 then 16
  else if t = 0x12 ∨ t = 0x16 ∨ t = 0x24 ∨ t = 0x25 then 8
  else if t = 0x13 ∨ t = 0x17 then 4
  else if t = 0x20 ∨ t = 0x31 then 64
  else 0

/-- Whether TPARAM is permitted for a type (R22). -/
def tparamOk (t p : Nat) : Bool :=
  if t = 0x30 then decide (p ≤ 31) else if t = 0x31 then decide (p ≤ 63) else p == 0

def tyU64 : Nat := 0x01
def tyU64M : Nat := 0x02
def tyS64 : Nat := 0x03
def tyU32P : Nat := 0x04

/-- The residue types. -/
def isResidue (t : Nat) : Bool := decide (1 ≤ t) && decide (t ≤ 4)
/-- The plain integer types. -/
def isSignedInt (t : Nat) : Bool := decide (0x10 ≤ t) && decide (t ≤ 0x13)
def isUnsignedInt (t : Nat) : Bool := decide (0x14 ≤ t) && decide (t ≤ 0x17)
def isFloat (t : Nat) : Bool := decide (0x20 ≤ t) && decide (t ≤ 0x25)
def isFixed (t : Nat) : Bool := t == 0x30 || t == 0x31

/-! ### Layout cards -/

/-- The layout card that 64 bytes spell (Table 02-2). -/
def parseCard (b : List Byte) : LayoutCard :=
  let rank := byteAt b 1
  let tt := field b 48 8
  { ty := byteAt b 0, rank := rank, tparam := byteAt b 2, turf := bits (byteAt b 3) 0 4
    ext := (List.range (min rank 6)).map fun a => field b (4 + 3 * a) 3
    str := (List.range (min rank 6)).map fun a => signed (field b (24 + 4 * a) 4) 32
    ttCount := bits tt 48 16, ttStack := bits tt 40 5, ttAddr := bits tt 0 40, fill := BitVec.ofNat 64 (field b 56 8)
    rsv := bits (byteAt b 3) 4 4 != 0 || !zeroAt b 22 2 || bits tt 45 3 != 0 ||
      ((List.range 6).any fun a => decide (rank ≤ a) && (!zeroAt b (4 + 3 * a) 3 || !zeroAt b (24 + 4 * a) 4)) }

/-- Extents (the stored field plus 1). -/
def LayoutCard.dims (c : LayoutCard) : List Nat := c.ext.map (· + 1)

/-- Number of elements. -/
def LayoutCard.count (c : LayoutCard) : Nat := c.dims.foldl (· * ·) 1

/-- The multi-index of position `k` in row-major order (R6). -/
def unflatten (dims : List Nat) (k : Nat) : List Nat :=
  (dims.foldr (fun d (acc : List Nat × Nat) => ((acc.2 % d) :: acc.1, acc.2 / d)) ([], k)).1

/-- The row-major position of a multi-index. -/
def flatten (dims idx : List Nat) : Nat := (dims.zip idx).foldl (fun a e => a * e.1 + e.2) 0

/-- The element offset of a multi-index (R25). -/
def LayoutCard.offset (c : LayoutCard) (idx : List Nat) : Nat :=
  sumOf (List.zipWith (fun (es : Nat × Int) i => (if es.2 < 0 then es.1 - i else i) * es.2.natAbs) (c.ext.zip c.str) idx)

/-- The element offset of the element at row-major position k. -/
def LayoutCard.offsetAt (c : LayoutCard) (k : Nat) : Nat := c.offset (unflatten c.dims k)

/-- Bytes of a turf. -/
def LayoutCard.turfBytes (c : LayoutCard) : Nat := 2 ^ (c.turf + 12)

/-- Byte offset of an element offset; for 4-bit types the byte that holds the nibble (R25). -/
def LayoutCard.byteOf (c : LayoutCard) (off : Nat) : Nat := off * tyBits c.ty / 8

/-- Bytes that one element touches. -/
def LayoutCard.elBytes (c : LayoutCard) : Nat := max 1 (tyBits c.ty / 8)

/-- The largest byte offset of R26: that of the element with the largest offset. -/
def LayoutCard.maxByte (c : LayoutCard) : Nat :=
  sumOf (List.zipWith (fun e (st : Int) => e * st.natAbs) c.ext c.str) * tyBits c.ty / 8

/-- Coverage (R26). -/
def LayoutCard.coverage (c : LayoutCard) : Nat := (c.ttCount + 1) * c.turfBytes

/-- Turfs that the operand can reach: 0 to this. -/
def LayoutCard.lastTurf (c : LayoutCard) : Nat := c.maxByte / c.turfBytes

/-- The order of R27: axes of stored extent above 0, by rising |STR|. -/
def insertAxis (a : Nat × Nat) : List (Nat × Nat) → List (Nat × Nat)
  | [] => [a]
  | b :: bs => if a.2 ≤ b.2 then a :: b :: bs else b :: insertAxis a bs

/-- A destination is injective (R27). -/
def LayoutCard.injective (c : LayoutCard) : Bool :=
  let axes := ((c.ext.zip (c.str.map Int.natAbs)).filter fun a => decide (0 < a.1)).foldr insertAxis []
  (axes.foldl (fun (acc : Bool × Nat) a => (acc.1 && decide (acc.2 + 1 ≤ a.2), acc.2 + a.1 * a.2)) (true, 0)).1

/-- The rules of R23 for 4-bit types. -/
def LayoutCard.nibbleOk (c : LayoutCard) : Bool :=
  tyBits c.ty != 4 ||
    match c.str.reverse, c.ext.reverse with
    | st :: rest, e :: _ => st.natAbs == 1 && e % 2 == 1 && rest.all fun x => x.natAbs % 2 == 0
    | _, _ => false

/-- Table 02-4 step 2 (SHAPE_FAULT on false). -/
def LayoutCard.shapeOk (c : LayoutCard) (dest : Bool) : Bool :=
  decide (1 ≤ c.rank) && decide (c.rank ≤ 6) && !c.rsv && decide (c.turf ≤ 9) && c.nibbleOk &&
    decide (c.maxByte < c.coverage) && (!dest || c.injective)

/-! ### Turf tables -/

/-- The turf-table entry that 16 bytes spell (Table 02-3). -/
def parseTurf (b : List Byte) : Turf :=
  { base := field b 0 8, owner := byteAt b 8, log2Size := byteAt b 9, hf := bits (byteAt b 10) 0 4
    wr := bit (byteAt b 11) 1, valid := bit (byteAt b 11) 0, pv := bit (field b 12 4) 31
    pasid := BitVec.ofNat 20 (field b 12 4)
    rsv := bits (byteAt b 10) 4 4 != 0 || bits (byteAt b 11) 2 6 != 0 || bits (field b 12 4) 20 11 != 0 }

/-- A turf of host memory. -/
def Turf.host (t : Turf) : Bool := t.owner == 0xFF
/-- The PASID with which a turf's pages are translated. -/
def Turf.pas (t : Turf) : Option (BitVec 20) := if t.pv then some t.pasid else none

/-- The byte range that an operand touches in turf t: lowest and highest byte offset in the turf (R49). -/
def LayoutCard.rangeIn (c : LayoutCard) (t : Nat) : Option (Nat × Nat) :=
  let bs := ((List.range c.count).map fun k => c.byteOf (c.offsetAt k)).filter fun b => b / c.turfBytes == t
  match bs with
  | [] => none
  | b :: bs =>
    let lo := bs.foldl min b
    let hi := bs.foldl max b
    some (lo % c.turfBytes, hi % c.turfBytes + c.elBytes - 1)

/-- Two ranges share a byte. -/
def Range.meets (a b : Range) : Bool :=
  a.space == b.space && decide (a.lo < b.lo + b.len) && decide (b.lo < a.lo + a.len)

/-- 4 KiB pages that hold the bytes lo to hi. -/
def pagesOf (lo hi : Nat) : List Nat := (List.range (hi / 4096 - lo / 4096 + 1)).map fun i => (lo / 4096 + i) * 4096

/-- The host pages that an operand touches: turf, page (R36). -/
def OpSnap.pages (o : OpSnap) : List (Turf × Nat) :=
  (o.turfs.zipIdx).flatMap fun e =>
    if !e.1.host then [] else
    match o.card.rangeIn e.2 with
    | none => []
    | some (lo, hi) => (pagesOf (e.1.base + lo) (e.1.base + hi)).map fun pg => (e.1, pg)

/-- The translated address of an I/O virtual address of a PASID in a snapshot. -/
def xlAddr (xl : List XlMap) (pas : Option (BitVec 20)) (iova : Nat) : Option (Nat × Bool) :=
  (xl.find? fun m => m.pas == pas && decide (m.iova ≤ iova) && decide (iova < m.iova + m.size)).map fun m =>
    (m.phys + (iova - m.iova), m.stale)

/-- The ranges of an operand in memory (R49); host ranges after translation, page by page. -/
def OpSnap.ranges (o : OpSnap) : List Range :=
  (o.turfs.zipIdx).flatMap fun e =>
    match o.card.rangeIn e.2 with
    | none => []
    | some (lo, hi) =>
      if !e.1.host then [⟨e.1.owner, e.1.base + lo, hi - lo + 1⟩]
      else (pagesOf (e.1.base + lo) (e.1.base + hi)).filterMap fun pg =>
        let a := max pg (e.1.base + lo)
        let b := min (pg + 4095) (e.1.base + hi)
        (xlAddr o.xl e.1.pas a).map fun x => ⟨24, x.1, b - a + 1⟩

/-! ### From an element to its bytes -/

/-- Where byte offset `b` of an operand lies: space, address, and whether its page is stale (R38). -/
def OpSnap.locate (o : OpSnap) (b : Nat) : Nat × Nat × Bool :=
  let t := o.turfs.getD (b / o.card.turfBytes) default
  let a := t.base + b % o.card.turfBytes
  if t.host then
    match xlAddr o.xl t.pas a with
    | some (p, st) => (24, p, st)
    | none => (24, a, true)
  else (t.owner, a, false)

/-- The bytes of element k of an operand. -/
def OpSnap.elemRange (o : OpSnap) (k : Nat) : Range :=
  let l := o.locate (o.card.byteOf (o.card.offsetAt k))
  ⟨l.1, l.2.1, o.card.elBytes⟩

/-- One byte of an operand; a byte of a stale page is a free value (R38). -/
def State.opByte (s : State) (o : OpSnap) (b : Nat) : Byte :=
  match o.locate b with
  | (sp, a, st) => if st then Config.freeByte (s.clk.free + b) else readMem s.mem (memKey sp a)

/-- The bits of the element at element offset `off`. -/
def State.elemAt (s : State) (o : OpSnap) (off : Nat) : Nat :=
  let w := tyBits o.card.ty
  let b := o.card.byteOf off
  if w = 4 then bits (s.opByte o b).toNat (4 * (off % 2)) 4
  else leNat ((List.range (w / 8)).map fun i => s.opByte o (b + i))

/-- The bits of the element at row-major position k. -/
def State.elem (s : State) (o : OpSnap) (k : Nat) : Nat := s.elemAt o (o.card.offsetAt k)

/-- Writes one byte of an operand; into a stale page a free value (R38). -/
def State.putByte (s : State) (o : OpSnap) (b : Nat) (v : Byte) : State :=
  match o.locate b with
  | (sp, a, st) =>
    { s with mem := writeMem s.mem (memKey sp a) (if st then Config.freeByte (s.clk.free + b) else v) }

/-- Writes the element at element offset `off`. -/
def State.putElemAt (s : State) (o : OpSnap) (off v : Nat) : State :=
  let w := tyBits o.card.ty
  let b := o.card.byteOf off
  if w = 4 then
    let old := (s.opByte o b).toNat
    s.putByte o b (BitVec.ofNat 8 (if off % 2 = 0 then old / 16 * 16 + v % 16 else v % 16 * 16 + old % 16))
  else ((natLe v (w / 8)).zipIdx).foldl (fun s e => s.putByte o (b + e.2) e.1) s

/-! ### Requests (R33) -/

/-- A piece of an operand: byte offset, length, and the row-major position of its first element. -/
structure Piece where
  off : Nat
  len : Nat
  pos : Nat
  deriving DecidableEq, Repr

/-- A run under construction: first and last byte (exclusive) in bits, its direction if it has one, and the row-major
positions of its elements, latest first. -/
structure Run where
  lo : Nat
  hi : Nat
  dir : Option Bool
  ks : List Nat
  deriving DecidableEq, Repr

/-- Groups elements (row-major position and element offset, of `w` bits each), in generation order, into runs. -/
def runsOf (w : Nat) : List (Nat × Nat) → List Run
  | [] => []
  | (k, o) :: os =>
    (os.foldl (fun (acc : List Run × Run) e =>
      let r := acc.2
      let b := e.2 * w
      if b == r.hi && r.dir != some false then (acc.1, { r with hi := b + w, dir := some true, ks := e.1 :: r.ks })
      else if b + w == r.lo && r.dir != some true then (acc.1, { r with lo := b, dir := some false, ks := e.1 :: r.ks })
      else (r :: acc.1, ⟨b, b + w, none, [e.1]⟩)) ([], ⟨o * w, o * w + w, none, [k]⟩) |> fun acc => (acc.2 :: acc.1).reverse)

/-- Cuts bytes lo to hi - 1 at every multiple of 1024 and of the turf size (a multiple of 4096). -/
def cutRun (lo hi : Nat) : List Piece :=
  if lo < hi then
    (List.range ((hi - 1) / 1024 - lo / 1024 + 1)).map fun i =>
      let a := max lo ((lo / 1024 + i) * 1024)
      let b := min hi ((lo / 1024 + i + 1) * 1024)
      ⟨a, b - a, 0⟩
  else []

/-- The pieces of a run of elements of w bits, in the run's direction, so that requests follow their first elements (R33). -/
def Run.pieces (w : Nat) (r : Run) : List Piece :=
  let ks := r.ks.reverse
  let first (pc : Piece) : Nat :=
    if r.dir = some false then (r.hi - min r.hi (8 * (pc.off + pc.len))) / w else (8 * pc.off - r.lo) / w
  let ps := (cutRun (r.lo / 8) ((r.hi + 7) / 8)).map fun pc => { pc with pos := ks.getD (first pc) 0 }
  if r.dir = some false then ps.reverse else ps

/-- The requests of an operand whose elements at the given row-major positions are generated in this order. -/
def LayoutCard.pieces (c : LayoutCard) (ks : List Nat) : List Piece :=
  (runsOf (tyBits c.ty) (ks.map fun k => (k, c.offsetAt k))).flatMap (Run.pieces (tyBits c.ty))

/-- The positions of the whole operand in row-major order. -/
def LayoutCard.positions (c : LayoutCard) : List Nat := List.range c.count

/-- A write of the given elements (row-major position, bits): the bytes, and the poison that whole granules lose. -/
def State.putElems (s : State) (o : OpSnap) (vals : List (Nat × Nat)) : State :=
  let s := vals.foldl (fun s e => s.putElemAt o (o.card.offsetAt e.1) e.2) s
  (o.card.pieces (vals.map (·.1))).foldl (fun s pc =>
    match o.locate pc.off with
    | (sp, a, _) => { s with poison := clearPoison s.poison sp a pc.len }) s

/-- Whether a read of the operand returns a poisoned granule. -/
def State.opPoisoned (s : State) (o : OpSnap) : Bool :=
  (o.card.pieces o.card.positions).any fun pc =>
    match o.locate pc.off with
    | (sp, a, _) => s.poisoned sp a pc.len

/-! ### Cipher cards -/

/-- The cipher card that 64 bytes spell (Table 02-5). -/
def parseCipher (b : List Byte) : CipherCard :=
  let f := field b 20 4
  { scheme := byteAt b 0, log2n := byteAt b 1, level := byteAt b 2, limbs := byteAt b 3, chain := field b 4 2
    keyset := BitVec.ofNat 32 (field b 8 4), scale := BitVec.ofNat 16 (field b 12 2)
    budget := BitVec.ofNat 16 (field b 14 2), slots := BitVec.ofNat 32 (field b 16 4)
    npoly := bits f 8 2, paired := bit f 4, eval := bit f 3, order := bit f 2, poison := bit f 1, valid := bit f 0
    ptmod := BitVec.ofNat 64 (field b 24 8), lweN := BitVec.ofNat 32 (field b 32 4)
    rsv := !zeroAt b 6 2 || bits f 10 22 != 0 || bits f 5 3 != 0 || !zeroAt b 36 28 }

/-- The 64 bytes of a cipher card as the PTU writes it, reserved bits 0 (R42). -/
def CipherCard.bytes (c : CipherCard) : List Byte :=
  natLe c.scheme 1 ++ natLe c.log2n 1 ++ natLe c.level 1 ++ natLe c.limbs 1 ++ natLe c.chain 2 ++ natLe 0 2 ++
    natLe c.keyset.toNat 4 ++ natLe c.scale.toNat 2 ++ natLe c.budget.toNat 2 ++ natLe c.slots.toNat 4 ++
    natLe (c.valid.toNat + 2 * c.poison.toNat + 4 * c.order.toNat + 8 * c.eval.toNat + 16 * c.paired.toNat +
      256 * c.npoly) 4 ++ natLe c.ptmod.toNat 8 ++ natLe c.lweN.toNat 4 ++ natLe 0 28

/-- Polynomials of a ciphertext: NPOLY 0 means 2, 1 means 3. -/
def CipherCard.polys (c : CipherCard) : Nat := c.npoly + 2
def CipherCard.degree (c : CipherCard) : Nat := 2 ^ c.log2n

/-- The extents that R39 demands of a ciphertext operand. -/
def CipherCard.dims (c : CipherCard) (polys limbs : Nat) : List Nat :=
  [polys, if c.paired then ceilDiv limbs 2 else limbs, c.degree]

/-- A ciphertext operand agrees with its card (R39). -/
def CipherCard.agrees (c : CipherCard) (l : LayoutCard) (polys limbs : Nat) : Bool :=
  l.dims == c.dims polys limbs && l.rank == 3 &&
    (if c.paired then l.ty == tyU32P else l.ty == tyU64 || l.ty == tyU64M || l.ty == tyS64)

/-! ### Chain tables (Table 02-6, Table 02-7) -/

def chainAddr (c : Nat) : Nat := 0x200_0000 + c * 0x2000

/-- The header of chain c. -/
structure Chain where
  count : Nat
  special : Nat
  log2nMax : Nat
  owner : Nat
  phash : Nat
  state : Nat
  deriving DecidableEq, Repr

def State.chain (s : State) (c : Nat) : Chain :=
  let b := s.hsRead (chainAddr c) 64
  { count := byteAt b 0, special := byteAt b 1, log2nMax := byteAt b 2, owner := byteAt b 3, phash := field b 4 4
    state := byteAt b 8 }

/-- Ordinary moduli of a chain. -/
def Chain.ordinary (c : Chain) : Nat := c.count - c.special

/-- MOD of entry i of chain c. -/
def State.modulus (s : State) (c i : Nat) : Nat := field (s.hsRead (chainAddr c + 64 + 64 * i) 64) 0 8

/-- The checks of R46 for a modulus index or a card on chain c of a descriptor of h. -/
def State.chainOk (s : State) (c : Nat) : Bool := decide (c < 256) && (s.chain c).state == 1
def State.chainOwned (s : State) (c : Nat) (h : HF) : Bool := (s.chain c).owner == 0xFF || (s.chain c).owner == h.val

/-! ### Locations (R258) -/

/-- A range of `n` bytes on a stack lies inside a grant of h, clear of the hearthstone region, on a stack of the part. -/
def State.locOk (s : State) (h : HF) (stack addr n : Nat) : Bool :=
  decide (stack < s.nslices) && s.inGrant h stack addr n && !meetsHearthstone stack addr n

/-- A card pointer's location (R258): stack, alignment, grant. -/
def State.cardOk (s : State) (h : HF) (p : Ptr) : Bool := p.addr % 64 == 0 && s.locOk h p.stack p.addr 64

/-! ### Sources and resident operands (R264) -/

/-- A tensor kept in the Ricks of a ring's chain. -/
def State.resident (s : State) (r : RingId) (o : OpSnap) : Option Resident :=
  (s.ctxOf r).bind fun e => e.2.resident.find? fun x => x.chain == o.chain && x.stack == o.stack && x.addr == o.addr

/-- The source that a descriptor of ring r reads: bits of the element at row-major position k. -/
def State.source (s : State) (r : RingId) (o : OpSnap) : Nat → Nat :=
  if o.res then
    match s.resident r o with
    | some x => fun k => (tget x.vals k 0).toNat
    | none => fun _ => 0
  else s.elem o

/-- Keeps the elements of an operand in the Ricks for later descriptors of the chain. -/
def State.keepResident (s : State) (r : RingId) (o : OpSnap) (uses : List Nat) (vals : List (Nat × Nat)) : State :=
  s.updCtx r fun c =>
    let others := c.resident.filter fun x => !(x.chain == o.chain && x.stack == o.stack && x.addr == o.addr)
    { c with resident := { chain := o.chain, stack := o.stack, addr := o.addr, uses := uses
                           vals := vals.map fun v => (v.1, BitVec.ofNat 64 v.2) } :: others }

def Slot.op (d : Slot) (k : Nat) : Option OpSnap := d.ops.find? fun o => o.slot == k

end Sys2Proof.Machine
end

