-- ==== Sys2Proof/Machine/Kiln.lean ====
section
/-! DEFINITION. The Kiln and the Rick: lane words and their negation (R57, R59), placements (R55, R56), the stages of
the Kiln (R60 to R64), pattern entries (R68 to R71), structured generators (Table 03-6), the turner (R75). -/

namespace Sys2Proof.Machine

/-! ### Lane words -/

/-- The 64-bit lane word of an element's bits (R57): signed and fixed-point types sign-extend, others zero-extend. -/
def widen (ty raw : Nat) : Nat :=
  if isSignedInt ty || isFixed ty then wrapNat (signed raw (tyBits ty)) 64 else raw % 2 ^ tyBits ty

/-- The element's bits of a lane word (R57). -/
def narrow (ty word : Nat) : Nat := word % 2 ^ tyBits ty

/-- Two's complement integer of a 64-bit word. -/
def s64 (w : Nat) : Int := signed w 64

/-- The balanced representative of an integer modulo an odd q: in (-q/2, q/2] (R21). -/
def balanced (q : Nat) (i : Int) : Int :=
  let x := i % (q : Int)
  if 2 * x ≤ (q : Int) then x else x - (q : Int)

/-- (q − x) mod q of a residue word of any size (R59). -/
def residueNeg (q x : Nat) : Nat := if x % q = 0 then 0 else q - x % q

/-- The negation of R59 on a lane word. `q0`, `q1` are the moduli of the lane (`q1` for the upper half of U32P). -/
def negWord (ty q0 q1 w : Nat) : Nat :=
  if ty = tyU64 ∨ ty = tyU64M then residueNeg q0 w
  else if ty = tyS64 then wrapNat (-(s64 w)) 64
  else if ty = tyU32P then
    let lo := w % 2 ^ 32
    let hi := w / 2 ^ 32
    residueNeg q0 lo + 2 ^ 32 * residueNeg q1 hi
  else if isFloat ty then
    (if w.testBit (tyBits ty - 1) then w - 2 ^ (tyBits ty - 1) else w + 2 ^ (tyBits ty - 1))
  else if isUnsignedInt ty then (2 ^ tyBits ty - w % 2 ^ tyBits ty) % 2 ^ tyBits ty
  else widen ty (wrapNat (-(signed w (tyBits ty))) (tyBits ty))

/-- The FILL reduction of R47. -/
def fillReduce (ty q0 q1 fill : Nat) : Nat :=
  let w := fill % 2 ^ tyBits ty
  if ty = tyU64 ∨ ty = tyU64M then w % q0
  else if ty = tyS64 then wrapNat (balanced q0 (s64 w)) 64
  else if ty = tyU32P then (w % 2 ^ 32) % q0 + 2 ^ 32 * ((w / 2 ^ 32) % q1)
  else w

/-! ### Placements -/

/-- Row and bank of position p of a limb in the plain mapping (R55). -/
def plainAt (p : Nat) : Nat × Nat := (p / 128, p % 128)

/-- Row and bank of position p of a limb of degree 2^n in the XOR-skewed mapping (R56). -/
def skewedAt (n p : Nat) : Nat × Nat := (p / 128, (p % 128) ^^^ (p / 2 ^ (n - 7)))

/-- The mapping of a limb slot: skewed for ORDER = 1. -/
def placeAt (order : Bool) (n p : Nat) : Nat × Nat := if order then skewedAt n p else plainAt p

/-- The word of a pool at row, bank. -/
def Pool.word (v : Pool) (row bank : Nat) : Nat := (tget v.data (128 * row + bank) 0).toNat

/-! ### Kiln stages, on 128 lanes as functions from lane to word -/

/-- Copy stage (R60): the input lane that output lane t carries. -/
def copyLane (keep start t : Nat) : Option Nat :=
  (onesOf 128 keep)[popcount (t + 1) start - 1]?

/-- The lower lane of switch s in stage g of the Beneš network (R61). -/
def benesLo (g s : Nat) : Nat :=
  let k := if g ≤ 6 then 6 - g else g - 6
  (s / 2 ^ k) * 2 ^ (k + 1) + s % 2 ^ k

/-- Stage g of the Beneš network with its 64 switch bits. -/
def benesStage (g sw : Nat) (x : List Nat) : List Nat :=
  let d := 2 ^ (if g ≤ 6 then 6 - g else g - 6)
  (List.range 64).foldl (fun x s =>
    if sw.testBit s then
      let lo := benesLo g s
      let a := x.getD lo 0
      let b := x.getD (lo + d) 0
      (x.set lo b).set (lo + d) a
    else x) x

/-- The Beneš network: switch s of stage g is bit 64g + s (R61, Table 03-4). -/
def benes (sws : Nat) (x : List Nat) : List Nat :=
  (List.range 13).foldl (fun x g => benesStage g (bits sws (64 * g) 64) x) x

/-- The multiplicative rotator (R62): the input lane that leaves on lane u is the t with (a t + b) mod 128 = u. -/
def rotate {α : Type} (a b : Nat) (x : List α) (d : α) : List α :=
  (List.range 128).map fun u =>
    match (List.range 128).find? fun t => (a * t + b) % 128 == u with
    | some t => x.getD t d
    | none => d

/-- The sign stage (R63). -/
def signStage (ty q0 q1 mask : Nat) (x : List Nat) : List Nat :=
  x.zipIdx.map fun e => if mask.testBit e.2 then negWord ty q0 q1 e.1 else e.1

/-- Inserts a lane after every lane whose key is not above its own, so that equal keys keep lane order. -/
def insertKey (a : Nat × Nat) : List (Nat × Nat) → List (Nat × Nat)
  | [] => [a]
  | b :: bs => if a.1 ≤ b.1 then a :: b :: bs else b :: insertKey a bs

/-- The sorter (R64): words by rising key, equal keys by input lane; a lane without a key has the padding key of R139. -/
def sorter (keys x : List Nat) : List Nat :=
  (((x.zipIdx.map fun e => (keys.getD e.2 0xFFFF_FFFF, e.1))).foldr insertKey []).map (·.2)

/-! ### Pattern entries (R68, R69) -/

/-- Fields of a pattern entry, given as a number of 3584 bits. -/
def peFmtX (e : Nat) : Bool := bit e 1
def peRotA (e : Nat) : Nat := bits e 8 7
def peRotB (e : Nat) : Nat := bits e 15 7
def peOutCount (e : Nat) : Nat := bits e 22 8
def pePid (e : Nat) : Nat := bits e 48 16
def peHf (e : Nat) : Nat := bits e 36 4
def peBypSign (e : Nat) : Bool := bit e 6
def peBypRot (e : Nat) : Bool := bit e 5
def peBypBenes (e : Nat) : Bool := bit e 4
def peBypCopy (e : Nat) : Bool := bit e 3

/-- The rotator of an entry: a = 1, b = 0 when bypassed. -/
def peRot (e : Nat) : Nat × Nat := if peBypRot e then (1, 0) else (peRotA e, peRotB e)

/-- The checks of R69 on an entry for a descriptor of host function h with pattern identifier pid. -/
def patternEntryOk (e h pid : Nat) : Bool :=
  bit e 0 && bits e 40 8 == 0 && bits e 30 6 == 0 && !bit e 2 && peRotA e % 2 == 1 && bit e 7 &&
    peHf e == h && pePid e == pid &&
    if peFmtX e then
      let keep := bits e 64 128
      let start := bits e 192 128
      let wen := bits e 2880 128
      let oc := peOutCount e
      let (a, b) := peRot e
      peBypBenes e && bits e 3136 448 == 0 && decide (oc ≤ 128) && (oc == 0 || bit start 0) && start / 2 ^ oc == 0 &&
        popcount 128 start == popcount 128 keep &&
        (List.range 128).all fun t => decide (t < oc) || !bit wen ((a * t + b) % 128)
    else peBypCopy e && peOutCount e == 0

/-- The words that one cycle of a pattern pass writes: (row, bank, word). -/
def patternRow (rd : Nat → Nat → Nat) (ty q0 q1 e : Nat) : List (Nat × Nat × Nat) :=
  if peFmtX e then
    let x := (List.range 128).map fun b => rd (bits e (320 + 10 * b) 10) b
    let keep := bits e 64 128
    let start := bits e 192 128
    let y := if peBypCopy e then x else (List.range 128).map fun t =>
      if t < peOutCount e then (match copyLane keep start t with | some i => x.getD i 0 | none => 0) else 0
    let (a, b) := peRot e
    let z := rotate a b y 0
    let z := if peBypSign e then z else signStage ty q0 q1 (bits e 3008 128) z
    (z.zipIdx.filter fun w => bit (bits e 2880 128) w.2).map fun w => (bits e (1600 + 10 * w.2) 10, w.2, w.1)
  else
    let x := (List.range 128).map fun b => rd (bits e (896 + 10 * b) 10) b
    let y := if peBypBenes e then x else benes (bits e 64 832) x
    let (a, b) := peRot e
    let z := rotate a b y 0
    let z := if peBypSign e then z else signStage ty q0 q1 (bits e 3456 128) z
    z.zipIdx.map fun w => (bits e (2176 + 10 * w.2) 10, w.2, w.1)

/-! ### Structured generators (Table 03-6) -/

/-- The inverse of an odd k modulo 2N with N = 2^n. -/
def galoisInv (n k : Nat) : Nat := invPow2 (n + 1) k

/-- AUTO: source position of output position j, and whether it is negated. -/
def autoSource (n k : Nat) (order eval : Bool) (j : Nat) : Nat × Bool :=
  let N := 2 ^ n
  let e := if order then brev n j else j
  if eval then
    let i := ((k * (2 * e + 1)) % (2 * N) - 1) / 2
    (if order then brev n i else i, false)
  else
    let m := e * galoisInv n k % (2 * N)
    (if order then brev n (m % N) else m % N, decide (N ≤ m))

/-- NROT: source position of output position j for shift s, and whether it is negated. -/
def nrotSource (n s j : Nat) : Nat × Bool :=
  let N := 2 ^ n
  let m := (j + 2 * N - s % (2 * N)) % (2 * N)
  (m % N, decide (N ≤ m))

/-- The generator of a pass without its lane masks. -/
def coreGen : Gen → Gen
  | .lanes _ _ _ g => coreGen g
  | g => g

/-- What the read side delivers in a cycle: cycle, row, bank, and whether the read select negates (R59). -/
abbrev ReadSide := Nat → Nat → Nat → Bool → Nat

/-- The read side without fill flags. -/
def plainRead (src : Pool) (ty q0 q1 : Nat) : ReadSide := fun _ row bank neg =>
  if neg then negWord ty q0 q1 (src.word row bank) else src.word row bank

/-- A read side with the read selects and fill flags of each cycle: 0, the negation, and in place of either the fill value
(R59). -/
def lanesRead (fill : Nat) (zeros negs fills : List (BitVec 128)) (rd : ReadSide) : ReadSide := fun c row bank neg =>
  let on (l : List (BitVec 128)) : Bool := (l.getD c 0).getLsbD bank
  if on fills then fill else if on zeros then 0 else rd c row bank (neg != on negs)

/-- The words of one limb's pass: for each output position its source position, sign, and both placements. BREV reads one row
of its source per cycle, every other generator the sources of one output row. -/
def limbPass (rd : ReadSide) (first n : Nat) (source : Nat → Nat × Bool) (os od : Bool) : List (Nat × Nat × Nat) :=
  (List.range (2 ^ n)).map fun j =>
    let (i, neg) := source j
    let (sr, sb) := placeAt os n i
    let (dr, db) := placeAt od n j
    (first + dr, db, rd (if od && !os then sr else dr) (first + sr) sb neg)

/-- The turner (R75): each 16 × 16 tile of a phase of 8 rows, rows 2f + ⌊(t mod 32)/16⌋, is transposed. The rows that pad the
final group, from `rows` on, carry no element, and the lanes that they reach are not written. -/
def turnerRow (rd : ReadSide) (first rows c : Nat) : List (Nat × Nat × Nat) :=
  let ph := c / 8
  let f := c % 8
  ((List.range 128).filter fun t => decide (8 * ph + t % 16 / 2 < rows)).map fun t =>
    let col := 2 * f + (t % 32) / 16
    let row := t % 16
    -- element (row, col) of tile t / 32 entered in fill cycle row / 2 on lane 32 (t / 32) + 16 (row mod 2) + col
    (first + c, t, rd (8 * ph + row / 2) (first + 8 * ph + row / 2) (32 * (t / 32) + 16 * (row % 2) + col) false)

/-- Rows that a pass issues: the turner's are padded to whole groups of 8 (R75). -/
def usesTurner : Gen → Bool
  | .turner => true
  | .lanes _ _ _ g => usesTurner g
  | _ => false
def issuedRows (g : Gen) (rows : Nat) : Nat := if usesTurner g then (rows + 7) / 8 * 8 else rows

/-- The sort of some rows by the keys beside them. The first level sorts each row (R64); rows that stand sorted are merged, so that the
whole of them is in the one stable order of R139 (DESIGN CHOICE, log 94: the rules give the levels' rows and not which records a row
of a later level brings together). -/
def sortRows (keys x : List (List Nat)) : List (List Nat) :=
  let inOrder (l : List Nat) : Bool := (l.zip (l.drop 1)).all fun e => decide (e.1 ≤ e.2)
  if keys.all inOrder then
    let ws := sorter keys.flatten x.flatten
    (List.range x.length).map fun c => (ws.drop (128 * c)).take 128
  else (keys.zip x).map fun e => sorter e.1 e.2

/-- The words that a pass carries to its destination pool (R59 to R64, R70, Table 03-6, R75); `plan` gives the words
of the plan stages. -/
def genWords (v : Slice) (plan : Gen → ReadSide → List (Nat × Nat × Nat)) (fill first rows ty q0 q1 : Nat) (rd : ReadSide) : Gen → List (Nat × Nat × Nat)
  | .seq => rowsOf fun c => row c
  | .auto n k order eval => limbPass rd first n (autoSource n k order eval) order order
  | .nrot n s => limbPass rd first n (nrotSource n s) false false
  | .brev n => limbPass rd first n (fun j => (brev n j, false)) false true
  | .brevInv n => limbPass rd first n (fun j => (brev n j, false)) true false
  | .turner => (List.range ((rows + 7) / 8 * 8)).flatMap fun c => turnerRow rd first rows c
  | .pattern e0 =>
    (List.range rows).flatMap fun c =>
      patternRow (fun r b => rd c r b false) ty q0 q1
        (sumOf ((List.range 56).map fun w => (tget v.pstore (64 * (e0 + c) + w) 0).toNat * 2 ^ (64 * w)))
  | .sorted kp =>
    let keys (c : Nat) : List Nat := (List.range 128).map fun b => (v.pool kp).word (first + c) b % 2 ^ 32
    let ws := sortRows ((List.range rows).map keys) ((List.range rows).map row)
    rowsOf fun c => ws.getD c []
  | .gather l at_ => plan (.gather l at_) rd
  | .place l at_ part => plan (.place l at_ part) rd
  | .align l at_ => plan (.align l at_) rd
  | .index l at_ => plan (.index l at_) rd
  | .extract t => plan (.extract t) rd
  | .lanes zeros negs fills g => genWords v plan fill first rows ty q0 q1 (lanesRead fill zeros negs fills rd) g
where
  row (c : Nat) : List Nat := (List.range 128).map fun b => rd c (first + c) b false
  rowsOf (f : Nat → List Nat) : List (Nat × Nat × Nat) :=
    (List.range rows).flatMap fun c => (f c).zipIdx.map fun e => (first + c, e.2, e.1)

/-- The words of a pass over a source pool. -/
def passWords (v : Slice) (plan : Gen → ReadSide → List (Nat × Nat × Nat)) (src : Pool) (g : Gen) (fill first rows ty q0 q1 : Nat) : List (Nat × Nat × Nat) :=
  genWords v plan (fillReduce ty q0 q1 fill) first rows ty q0 q1 (plainRead src ty q0 q1) g

/-- A pool with words written: (row, bank, word) in order, later ones last. -/
def Pool.write (v : Pool) (ws : List (Nat × Nat × Nat)) : Pool :=
  { v with data := ws.foldl (fun t w => tset 0 t (128 * w.1 + w.2.1) (BitVec.ofNat 64 w.2.2)) v.data }

/-- Cycles from a pass's first row to the signal of its end (R65, R75). -/
def passDepth (g : Gen) (rows : Nat) : Nat := rows + if usesTurner g then 47 else 39

end Sys2Proof.Machine
end

