-- ==== Sys2Proof/Machine/Elem.lean ====
section
/-! DEFINITION. Residues as the lanes take them (R143, R144), the modulus binding (R105) and the effect of an opcode.
A value that the manual leaves undefined is `none` until it is written; then it is a free word. -/

namespace Sys2Proof.Machine

/-! ### Canonical residues (R144) -/

/-- -q^(-1) mod 2^64 for odd q (NINV, Table 02-7). -/
def ninv (q : Nat) : Nat := (2 ^ 64 - invPow2 64 q) % 2 ^ 64

/-- x × 2^(-64) mod q for x < q, by Montgomery reduction. -/
def montRed (q x : Nat) : Nat :=
  let t := (x + (x * ninv q % 2 ^ 64) * q) / 2 ^ 64
  t % q

/-- The canonical residue of an operand word of a single-residue type, or none when the word is out of range. -/
def canonIn (ty q w : Nat) : Option Nat :=
  if ty = tyS64 then
    let i := s64 w
    if 2 * i ≤ q ∧ -(q : Int) < 2 * i then some (i % (q : Int)).toNat else none
  else if ty = tyU64M then (if w < q then some (montRed q w) else none)
  else if w < q then some w else none

/-- The word of a canonical residue in a single-residue type. -/
def canonOut (ty q y : Nat) : Nat :=
  if ty = tyS64 then (if (q - 1) / 2 < y then wrapNat ((y : Int) - q) 64 else y)
  else if ty = tyU64M then y * 2 ^ 64 % q
  else y

/-- An operation on residues lifted to words of any residue type: U32P halves each with their own modulus.  `f` takes
the modulus and the canonical operands; `ops` are the types and words of the operands. -/
def residueOp (ty q0 q1 : Nat) (ops : List (Nat × Nat)) (f : Nat → Nat → List Nat → Nat) : Option Nat :=
  if ty = tyU32P then
    match ops.mapM fun o => canonIn tyU64 q0 (o.2 % 2 ^ 32), ops.mapM fun o => canonIn tyU64 q1 (o.2 / 2 ^ 32) with
    | some a, some b => some (f 0 q0 a + 2 ^ 32 * f 1 q1 b)
    | _, _ => none
  else
    (ops.mapM fun o => canonIn o.1 q0 o.2).map fun a => canonOut ty q0 (f 0 q0 a)

/-! ### Modulus binding (R105) -/

structure Binding where
  chain : Nat
  first : Nat
  axis : Nat
  deriving DecidableEq, Repr

/-- Bytes 80 to 83 of a descriptor (Table 11-4). -/
def binding (d : List Byte) : Binding :=
  { chain := byteAt d 80, first := bits (byteAt d 81) 0 6, axis := bits (byteAt d 82) 0 3 }

/-- The modulus indices of an element of type ty whose destination index is idx. -/
def Binding.indices (b : Binding) (ty : Nat) (idx : List Nat) : Nat × Nat :=
  let i := if b.axis < 6 then idx.getD b.axis 0 else 0
  if ty = tyU32P then (b.first + 2 * i, b.first + 2 * i + 1) else (b.first + i, b.first + i)

/-- The moduli of that element. -/
def State.bound (s : State) (b : Binding) (ty : Nat) (idx : List Nat) : Nat × Nat :=
  if b.axis = 7 then (0, 0)
  else
    let i := b.indices ty idx
    (s.modulus b.chain i.1, s.modulus b.chain i.2)

/-- The moduli of word j on the limb axis of a ciphertext on chain c. -/
def State.limbModuli (s : State) (c : CipherCard) (j : Nat) : Nat × Nat :=
  if c.paired then (s.modulus c.chain (2 * j), s.modulus c.chain (2 * j + 1)) else (s.modulus c.chain j, s.modulus c.chain j)

/-! ### Effects -/

/-- What an opcode does to its destinations: for each destination slot the elements written, none for an undefined
value; the counts of R134; whether a key is corrupt (R160). -/
structure Effect where
  vals : List (Nat × List (Nat × Option Nat))
  fills : Nat := 0
  drops : Nat := 0
  dups : Nat := 0
  keyBad : Bool := false
  deriving Repr

/-- The elements of a list with free words in place of the undefined ones, from free counter `f`. -/
def concrete (f : Nat) (vals : List (Nat × Option Nat)) : List (Nat × Nat) :=
  vals.zipIdx.map fun e =>
    (e.1.1, match e.1.2 with | some v => v | none => (Config.freeWord (f + e.2)).toNat)

/-- An effect on slot 4 alone. -/
def effect4 (vals : List (Nat × Option Nat)) : Effect := { vals := [(4, vals)] }

/-- An operand of a descriptor, or an empty one. -/
def Slot.opD (d : Slot) (k : Nat) : OpSnap :=
  (d.op k).getD { slot := k, res := false, stack := 0, addr := 0, card := parseCard [], turfs := [], xl := [] }

/-- The stack (or host memory) that owns the element at row-major position k. -/
def OpSnap.ownerAt (o : OpSnap) (k : Nat) : Nat :=
  (o.turfs.getD (o.card.byteOf (o.card.offsetAt k) / o.card.turfBytes) default).owner

end Sys2Proof.Machine
end

