-- ==== Sys2Proof/Machine/Keccak.lean ====
section
/-! DEFINITION. TurboSHAKE128 (R161; RFC 9861): Keccak-p[1600] with 12 rounds, rate 168 bytes.  A state is 25 lanes of
64 bits, lane (x, y) at position x + 5y. -/

namespace Sys2Proof.Machine

/-- Rotation left of a 64-bit lane. -/
def rotl (x n : Nat) : Nat := (x <<< n ||| x >>> (64 - n)) % 2 ^ 64

/-- Rotation offsets of ρ, by position. -/
def keccakRho : List Nat :=
  [0, 1, 62, 28, 27, 36, 44, 6, 55, 20, 3, 10, 43, 25, 39, 41, 45, 15, 21, 8, 18, 2, 61, 56, 14]

/-- The last 12 round constants of Keccak-f[1600], those of Keccak-p[1600, 12]. -/
def keccakRc : List Nat :=
  [0x000000008000808B, 0x800000000000008B, 0x8000000000008089, 0x8000000000008003, 0x8000000000008002,
   0x8000000000000080, 0x000000000000800A, 0x800000008000000A, 0x8000000080008081, 0x8000000000008080,
   0x0000000080000001, 0x8000000080008008]

/-- One round: θ, ρ, π, χ, ι. -/
def keccakRound (a : List Nat) (rc : Nat) : List Nat :=
  let g (l : List Nat) (i : Nat) := l.getD i 0
  let c := (List.range 5).map fun x => g a x ^^^ g a (x + 5) ^^^ g a (x + 10) ^^^ g a (x + 15) ^^^ g a (x + 20)
  let d := (List.range 5).map fun x => g c ((x + 4) % 5) ^^^ rotl (g c ((x + 1) % 5)) 1
  let r := (List.range 25).map fun i => rotl (g a i ^^^ g d (i % 5)) (g keccakRho i)
  -- π: lane (x, y) of the result is lane ((x + 3y) mod 5, x)
  let b := (List.range 25).map fun i => g r ((i % 5 + 3 * (i / 5)) % 5 + 5 * (i % 5))
  let e := (List.range 25).map fun i =>
    let y := 5 * (i / 5)
    g b i ^^^ ((2 ^ 64 - 1 - g b ((i + 1) % 5 + y)) &&& g b ((i + 2) % 5 + y))
  (g e 0 ^^^ rc) :: e.drop 1

def keccakP12 (a : List Nat) : List Nat := keccakRc.foldl keccakRound a

/-- The first 168 bytes of TurboSHAKE128 of a message of at most 166 bytes with domain byte `dom`: one permutation. -/
def ts128 (msg : List Byte) (dom : Byte) : List Byte :=
  let blk := padTo 168 (msg ++ [dom])
  let blk := blk.set 167 ((blk.getD 167 0) ^^^ 0x80)
  let a := (List.range 25).map fun i => if i < 21 then field blk (8 * i) 8 else 0
  ((keccakP12 a).take 21).flatMap fun l => natLe l 8

/-- Bytes `16 j` to `16 j + 15` of the output stream whose block b is ts128 of `x` and `b` (R161, R238). -/
def ts128Stream (x : List Byte) (dom : Byte) (j : Nat) : Nat :=
  let b := 16 * j / 168
  let o := 16 * j % 168
  let s := ts128 (x ++ natLe b 4) dom
  let s := if o + 16 > 168 then s ++ ts128 (x ++ natLe (b + 1) 4) dom else s
  leNat ((s.drop o).take 16)

end Sys2Proof.Machine
end

