-- ==== Sys2Proof/Machine/Fp.lean ====
section
/-! DEFINITION. Exact values, rounding and conversion of elements (R199, R203, R206 to R211). -/

namespace Sys2Proof.Machine

/-- An exact value: a fraction with its sign (so that −0 is a value), or a special value. -/
inductive Val where
  | nan (neg : Bool)
  | inf (neg : Bool)
  /-- (−1)^neg × num / den, den > 0. -/
  | fin (neg : Bool) (num den : Nat)
  deriving DecidableEq, Repr

/-- A floating format: exponent bits, fraction bits, bias, and whether it is E4M3 (no infinities). -/
structure Fmt where
  eb : Nat
  mb : Nat
  bias : Nat
  e4m3 : Bool := false
  deriving DecidableEq, Repr

/-- The format of a floating type (Table 09-1). -/
def fmtOf (ty : Nat) : Fmt :=
  if ty = 0x20 then ⟨11, 52, 1023, false⟩ else if ty = 0x21 then ⟨8, 23, 127, false⟩ else if ty = 0x22 then ⟨8, 7, 127, false⟩
  else if ty = 0x23 then ⟨5, 10, 15, false⟩ else if ty = 0x24 then ⟨4, 3, 7, true⟩ else ⟨5, 2, 15, false⟩

/-- m × 2^e as a value. -/
def dyad (neg : Bool) (m : Nat) (e : Int) : Val :=
  if 0 ≤ e then .fin neg (m * 2 ^ e.toNat) 1 else .fin neg m (2 ^ (-e).toNat)

/-- The value of a floating word (Table 09-1). -/
def floatVal (f : Fmt) (raw : Nat) : Val :=
  let neg := raw.testBit (f.eb + f.mb)
  let e := bits raw f.mb f.eb
  let m := raw % 2 ^ f.mb
  let top := 2 ^ f.eb - 1
  if f.e4m3 && e == top && m == 2 ^ f.mb - 1 then .nan neg
  else if !f.e4m3 && e == top then (if m = 0 then .inf neg else .nan neg)
  else if e = 0 then dyad neg m (1 - f.bias - f.mb : Int)
  else dyad neg (2 ^ f.mb + m) ((e : Int) - f.bias - f.mb)

/-- The exact value of an element of a non-residue type. -/
def elemVal (ty tp raw : Nat) : Val :=
  if isFloat ty then floatVal (fmtOf ty) raw
  else
    let i : Int := if isUnsignedInt ty then (raw % 2 ^ tyBits ty : Nat) else signed raw (tyBits ty)
    .fin (decide (i < 0)) i.natAbs (if isFixed ty then 2 ^ tp else 1)

/-- Whether rounding takes the point of larger magnitude, for num / den with remainder `rem` over the lower point `lo`
(R207). Modes of Table 09-3; R is the random value of R208. -/
def roundsUp (rnd : Nat) (neg : Bool) (lo rem den R : Nat) : Bool :=
  if rem = 0 then false
  else if rnd = 0 then decide (den < 2 * rem) || (decide (2 * rem = den) && lo % 2 == 1)
  else if rnd = 1 then false
  else if rnd = 2 then neg
  else if rnd = 3 then !neg
  else if neg then !decide (R * den < (den - rem) * 2 ^ 32) else decide (R * den < rem * 2 ^ 32)

/-- num / den rounded to a whole number of grid steps of 2^g, as a magnitude. -/
def roundGrid (rnd : Nat) (neg : Bool) (num den : Nat) (g : Int) (R : Nat) : Nat :=
  let n := if 0 ≤ g then num else num * 2 ^ (-g).toNat
  let d := if 0 ≤ g then den * 2 ^ g.toNat else den
  let lo := n / d
  if roundsUp rnd neg lo (n % d) d R then lo + 1 else lo

/-- ⌊log2 (num / den)⌋ for num > 0. -/
def ilog (num den : Nat) : Int :=
  let e : Int := (Nat.log2 num : Int) - Nat.log2 den
  -- num / den lies in (2^(e-1), 2^(e+1))
  let ge : Bool := if 0 ≤ e then decide (den * 2 ^ e.toNat ≤ num) else decide (den ≤ num * 2 ^ (-e).toNat)
  if ge then e else e - 1

/-- The largest finite code of a format, without sign. -/
def maxFinite (f : Fmt) : Nat := if f.e4m3 then 0x7E else (2 ^ f.eb - 1) * 2 ^ f.mb - 1
def signBit (f : Fmt) (neg : Bool) : Nat := if neg then 2 ^ (f.eb + f.mb) else 0
/-- Infinity; E4M3 has its NaN there. -/
def infCode (f : Fmt) (neg : Bool) : Nat := signBit f neg + if f.e4m3 then 0x7F else (2 ^ f.eb - 1) * 2 ^ f.mb
/-- The canonical quiet NaN with a sign (R199, R210). -/
def nanCode (f : Fmt) (neg : Bool) : Nat :=
  signBit f neg + if f.e4m3 then 0x7F else (2 ^ f.eb - 1) * 2 ^ f.mb + 2 ^ (f.mb - 1)

/-- What an overflow stores (Table 09-6). -/
def overflowCode (f : Fmt) (rnd : Nat) (sat neg : Bool) : Nat :=
  if sat then signBit f neg + maxFinite f
  else if f.e4m3 then infCode f neg
  else if rnd = 1 || (rnd == 2 && !neg) || (rnd == 3 && neg) then signBit f neg + maxFinite f
  else infCode f neg

/-- A finite value rounded into a floating format (R206 steps 3 and 4, R207, R210). -/
def roundFloat (f : Fmt) (rnd : Nat) (sat neg : Bool) (num den R : Nat) : Nat :=
  if num = 0 then signBit f neg
  else
    let emin : Int := 1 - f.bias
    let e := ilog num den
    let g : Int := (if e < emin then emin else e) - f.mb
    -- under STOCH a value beyond the largest finite value overflows as under RNE
    let big : Bool := match floatVal f (maxFinite f) with
      | .fin _ a b => decide (a * den < num * b)
      | _ => false
    let rnd' := if rnd = 4 && big then 0 else rnd
    let n := roundGrid rnd' neg num den g R
    -- n × 2^g with n at most 2^(mb + 1); its code counts n up from the code of the lowest point of its binade
    let code : Nat := n + (g + f.mb - emin).toNat * 2 ^ f.mb
    if maxFinite f < code then overflowCode f rnd' sat neg else signBit f neg + code

/-- An integer clamped or wrapped into an integer or fixed-point type (R203, R206 step 4), as bits. -/
def rangeInt (ty : Nat) (sat : Bool) (i : Int) : Nat :=
  let w := tyBits ty
  let lo : Int := if isUnsignedInt ty then 0 else -(2 ^ (w - 1) : Nat)
  let hi : Int := if isUnsignedInt ty then (2 ^ w - 1 : Nat) else (2 ^ (w - 1) - 1 : Nat)
  let j := if sat then (if i < lo then lo else if hi < i then hi else i) else i
  wrapNat j w

/-- A value converted into a non-residue type (R206, R210). -/
def storeVal (ty tp rnd : Nat) (sat : Bool) (R : Nat) (v : Val) : Nat :=
  if isFloat ty then
    let f := fmtOf ty
    match v with
    | .nan neg => nanCode f neg
    | .inf neg => if f.e4m3 && sat then signBit f neg + maxFinite f else infCode f neg
    | .fin neg n d => roundFloat f rnd sat neg n d R
  else
    match v with
    | .nan _ => 0
    | .inf neg => if sat then rangeInt ty true (if neg then -(2 ^ 200 : Nat) else (2 ^ 200 : Nat)) else 0
    | .fin neg n d =>
      let m : Int := roundGrid rnd neg n d (if isFixed ty then -(tp : Int) else 0) R
      rangeInt ty sat (if neg then -m else m)

/-- A value converted into the canonical residue modulo q (R206 step 4, R210). -/
def storeResidue (q rnd R : Nat) (v : Val) : Nat :=
  match v with
  | .nan _ => 0
  | .inf _ => 0
  | .fin neg n d =>
    let m := roundGrid rnd neg n d 0 R
    if 2 ^ 127 ≤ m then 0 else if neg then (q - m % q) % q else m % q

/-- The centred value of a canonical residue (R199). -/
def centred (q r : Nat) : Val := if (q - 1) / 2 < r then .fin true (q - r) 1 else .fin false r 1

/-! ### Scale (R211) -/

/-- The largest n below 2^k with n^256 ≤ x. -/
def root256 (x : Nat) : Nat → Nat → Nat
  | 0, n => n
  | k + 1, n => root256 x k (if (n + 2 ^ k) ^ 256 ≤ x then n + 2 ^ k else n)

/-- F[j] × 2^52: the FP64 significand nearest to 2^(j/256). -/
def scaleF (j : Nat) : Nat :=
  let x := 2 ^ (52 * 256 + j)
  let n := root256 x 53 0
  if (2 * n + 1) ^ 256 ≤ 2 ^ 256 * x then n + 1 else n

/-- S of a SCALE field, as a fraction (numerator, denominator). -/
def scaleOf (sigma : Nat) : Nat × Nat := (2 ^ (sigma / 256) * scaleF (sigma % 256), 2 ^ 52)

def Val.mul (s : Nat × Nat) : Val → Val
  | .fin neg n d => .fin neg (n * s.1) (d * s.2)
  | v => v
def Val.div (s : Nat × Nat) : Val → Val
  | .fin neg n d => .fin neg (n * s.2) (d * s.1)
  | v => v

/-! ### Conversion of one element (R206) -/

/-- A type with its parameter and its moduli. -/
structure ElTy where
  ty : Nat
  tp : Nat
  q0 : Nat
  q1 : Nat
  deriving DecidableEq, Repr

/-- Converts the bits `w` of an element; `sc` is S (1 when no scale applies). None: an undefined result (R144). -/
def convertElem (a b : ElTy) (sc : Nat × Nat) (rnd : Nat) (sat : Bool) (R w : Nat) : Option Nat :=
  if isResidue a.ty then
    (canonIn a.ty a.q0 w).map fun r =>
      if isResidue b.ty then canonOut b.ty b.q0 (storeResidue b.q0 rnd R (.fin false r 1))
      else storeVal b.ty b.tp rnd sat R ((centred a.q0 r).div sc)
  else
    let v := elemVal a.ty a.tp w
    if b.ty = tyU32P then
      some (storeResidue b.q0 rnd R (v.mul sc) + 2 ^ 32 * storeResidue b.q1 rnd R (v.mul sc))
    else if isResidue b.ty then some (canonOut b.ty b.q0 (storeResidue b.q0 rnd R (v.mul sc)))
    else some (storeVal b.ty b.tp rnd sat R v)

/-- The pairs of Table 09-5; `ext` adds the U32P column of CONVERT and VENC. -/
def pairOk (ext : Bool) (a b : Nat) : Bool :=
  if a = tyU32P then false
  else if b = tyU32P then ext && !isResidue a
  else true

/-- The random value of element k (R208). -/
def stochR (seed k : Nat) : Nat :=
  field (ts128 (natLe seed 8 ++ natLe (k / 42) 8) 0x53) (4 * (k % 42)) 4

/-! ### Floating arithmetic (R203) -/

/-- Signed numerator. -/
def sgn (neg : Bool) (n : Nat) : Int := if neg then -(n : Int) else n

/-- The exact sum of two values; an exact zero takes the sign of IEEE 754 (negative under RDN, else positive, unless
both terms have the same sign). -/
def Val.add (rnd : Nat) : Val → Val → Val
  | .nan s, _ => .nan s
  | _, .nan s => .nan s
  | .inf s, .inf t => if s == t then .inf s else .nan false
  | .inf s, _ => .inf s
  | _, .inf t => .inf t
  | .fin s a b, .fin t c d =>
    let n : Int := sgn s a * d + sgn t c * b
    if n = 0 then .fin (if a = 0 ∧ c = 0 ∧ s = t then s else rnd == 2) 0 1
    else .fin (decide (n < 0)) n.natAbs (b * d)

def Val.neg : Val → Val
  | .nan s => .nan s
  | .inf s => .inf (!s)
  | .fin s a b => .fin (!s) a b

/-- The exact product of two values. -/
def Val.prod : Val → Val → Val
  | .nan s, _ => .nan s
  | _, .nan s => .nan s
  | .inf s, .inf t => .inf (s != t)
  | .inf s, .fin t c _ => if c = 0 then .nan false else .inf (s != t)
  | .fin s a _, .inf t => if a = 0 then .nan false else .inf (s != t)
  | .fin s a b, .fin t c d => .fin (s != t) (a * c) (b * d)

/-- Rounds an arithmetic result into FP64 or FP32; a NaN is the canonical quiet NaN (R203). -/
def arith (ty rnd : Nat) : Val → Nat
  | .nan _ => nanCode (fmtOf ty) false
  | v => storeVal ty 0 rnd false 0 v

/-- a < b on values without NaN; −0 orders below +0 when `zeros`. -/
def Val.lt (zeros : Bool) : Val → Val → Bool
  | .inf s, .inf t => s && !t
  | .inf s, _ => s
  | _, .inf t => !t
  | .fin s a b, .fin t c d =>
    let x := sgn s a * d
    let y := sgn t c * b
    decide (x < y) || (zeros && x == y && s && !t)
  | _, _ => false

def Val.eq : Val → Val → Bool
  | .inf s, .inf t => s == t
  | .fin s a b, .fin t c d => sgn s a * d == sgn t c * b
  | _, _ => false

def Val.isNan : Val → Bool
  | .nan _ => true
  | _ => false

/-- The comparison of VCMP (Table 09-3, R203). -/
def compareVal (cond : Nat) (a b : Val) : Bool :=
  if a.isNan || b.isNan then cond == 1
  else if cond = 0 then a.eq b else if cond = 1 then !a.eq b else if cond = 2 then a.lt false b
  else if cond = 3 then !b.lt false a else if cond = 4 then b.lt false a else !a.lt false b

end Sys2Proof.Machine
end

