-- ==== Sys2Proof/Machine/Flue.lean ====
section
/-! DEFINITION. Exchanges of the Flue: streams (R79), rounds (R80, R83), schedule images (R84, R85), sub-rounds of a
fenced slice (R91). -/

namespace Sys2Proof.Machine

/-- Pool, row and bank of word k of a stream. -/
def streamAt : List Seg → Nat → Option (Nat × Nat × Nat)
  | [], _ => none
  | g :: gs, k => if k < 128 * g.count then some (g.pool, g.first + k / 128, k % 128) else streamAt gs (k - 128 * g.count)

/-- Words of one stream. -/
def streamLen (gs : List Seg) : Nat := 128 * sumOf (gs.map Seg.count)

/-- Words that each slice has sent and received, and where each word goes: (sender, word of its send stream, receiver,
word of its receive stream), in order of rounds. -/
def exchangeRoute (spec : ExchSpec) : List (Nat × Nat × Nat × Nat) :=
  (spec.rounds.foldl (fun (acc : List (Nat × Nat) × List (Nat × Nat) × List (List (Nat × Nat × Nat × Nat))) rd =>
    spec.slices.foldl (fun acc s =>
      let d := rd.dst.getD s 31
      let w := if d = 31 then 0 else rd.words.getD s 0
      let a := tget acc.1 s 0
      let b := tget acc.2.1 d 0
      (tput acc.1 s (a + w), tput acc.2.1 d (b + w),
        ((List.range w).map fun i => (s, a + i, d, b + i)) :: acc.2.2)) acc) ([], [], [])).2.2.reverse.flatten

/-! ### Rounds and sub-rounds -/

/-- One slice's transfer in a round: sender, receiver, words. -/
abbrev Transfer := Nat × Nat × Nat

/-- The transfers of a round that carry words. -/
def transfersOf (slices : List Nat) (rd : Round) : List Transfer :=
  slices.filterMap fun s =>
    let d := rd.dst.getD s 31
    if d = 31 ∨ rd.words.getD s 0 = 0 then none else some (s, d, rd.words.getD s 0)

/-- A transfer in which slice n sends or receives. -/
def takesPart (n : Nat) (t : Transfer) : Bool := t.1 == n || t.2.1 == n

/-- The sub-rounds of a round: that of each fenced slice whose buddy takes part too, one after another, then that of every
other transfer; one without words is omitted (R91; with several fenced slices, log 69). -/
def subRounds (buddy : Nat → Nat) : List Nat → List Transfer → List (List Transfer)
  | [], tr => if tr.isEmpty then [] else [tr]
  | n :: ns, tr =>
    if tr.any (takesPart n) && tr.any (takesPart (buddy n)) then
      tr.filter (takesPart n) :: subRounds buddy ns (tr.filter fun t => !takesPart n t)
    else subRounds buddy ns tr

/-- Beats of the largest of some transfers, with beats of `bw` words (R83, R90). -/
def transferBeats (bw : Nat) (tr : List Transfer) : Nat := maxOf (tr.map fun t => ceilDiv t.2.2 bw)

/-- The sub-rounds of an exchange with the fences in force, in order. -/
def State.subRoundsOf (s : State) (spec : ExchSpec) : List (List Transfer) :=
  spec.rounds.flatMap fun rd => subRounds s.buddy (spec.slices.filter fun n => !s.live n) (transfersOf spec.slices rd)

/-- Beats of an exchange (R80, R83, R84, R90, R91). -/
def State.exchangeBeats (s : State) (spec : ExchSpec) : Nat := sumOf ((s.subRoundsOf spec).map (transferBeats s.beatWords))

/-- A transfer with its place in the exchange: its first beat, its sub-round's beats, and the places of its words in the sender's
and the receiver's stream (R79). -/
structure Xfer where
  beat : Nat
  src : Nat
  dst : Nat
  words : Nat
  out : Nat
  into : Nat
  deriving DecidableEq, Repr

/-- The transfers of an exchange in order. -/
def State.xfers (s : State) (spec : ExchSpec) : List Xfer :=
  ((s.subRoundsOf spec).foldl (fun (acc : Nat × List (Nat × Nat) × List (Nat × Nat) × List Xfer) tr =>
    let xs := tr.map fun t => ({ beat := acc.1, src := t.1, dst := t.2.1, words := t.2.2, out := tget acc.2.1 t.1 0
                                 into := tget acc.2.2.1 t.2.1 0 } : Xfer)
    (acc.1 + transferBeats s.beatWords tr,
      xs.foldl (fun m x => tput m x.src (x.out + x.words)) acc.2.1,
      xs.foldl (fun m x => tput m x.dst (x.into + x.words)) acc.2.2.1,
      acc.2.2.2 ++ xs)) (0, [], [], [])).2.2.2

/-- The live planes, ascending (R90). -/
def State.livePlanes (s : State) : List Nat := (List.range 4).filter fun p => !s.planesOut.getLsbD p

/-- The plane whose loop-back is next, once the slices have been tested (Table 13-4). -/
def State.planeInTest (s : State) : BitVec 4 :=
  if s.ctl.stage = .kindling ∧ s.ctl.groupsLeft = 0 ∧ 1 ≤ s.ctl.planesLeft then BitVec.ofNat 4 (2 ^ (4 - s.ctl.planesLeft)) else 0

/-- The loop-back takes its plane when no exchange runs, and gives the earlier one back (R312; DEDUCED, log 69). -/
def State.holdPlane (s : State) : State :=
  if s.flue.exch.isEmpty then { s with flue := { s.flue with held := s.planeInTest } } else s

/-- The shift schedule over S slices for words w r s sent by slice s in round r (R83). -/
def shiftRounds (S : Nat) (w : Nat → Nat → Nat) : List Round :=
  (List.range S).map fun r =>
    { dst := (List.range 24).map fun s => if s < S then (s + r) % S else 31
      words := (List.range 24).map fun s => if s < S then w r s else 0 }

/-- A round with every slice that sends no word idle. -/
def Round.plain (rd : Round) : Round :=
  { dst := (List.range 24).map fun s => if rd.words.getD s 0 = 0 then 31 else rd.dst.getD s 31
    words := (List.range 24).map fun s => if rd.dst.getD s 31 = 31 then 0 else rd.words.getD s 0 }

/-- Two lists of rounds carry the same words, rounds without any apart (R83). -/
def sameRounds (a b : List Round) : Bool :=
  let busy (l : List Round) := (l.map Round.plain).filter fun rd => rd.words.any fun w => w != 0
  busy a == busy b

/-- Beats of the shift schedule for a traffic matrix (words from slice a to slice b), with beats of `bw` words. -/
def shiftBeats (bw S : Nat) (t : Nat → Nat → Nat) : Nat :=
  sumOf ((List.range S).map fun r => maxOf ((List.range S).map fun s => ceilDiv (t s ((s + r) % S)) bw))

/-! ### Schedule images -/

/-- A segment word (Table 04-3), if valid. -/
def parseSeg (w : Nat) : Option Seg :=
  if bit w 31 then some { pool := bits w 24 3, first := bits w 0 10, count := bits w 10 11 } else none

/-- Length in bytes of a schedule image, from its header. -/
def schedBytes (h : List Byte) : Nat := 64 + 64 * (bits (field h 4 2) 0 10 + 1)

/-- The schedule of an image (Table 04-3, Table 04-4). -/
def parseSched (slices : List Nat) (b : List Byte) : ExchSpec :=
  let segs (off : Nat) := (List.range 4).filterMap fun i => parseSeg (field b (off + 4 * i) 4)
  { slices := slices, send := segs 8, recv := segs 24, fsend := segs 8, frecv := segs 24
    rounds := (List.range (bits (field b 4 2) 0 10 + 1)).map fun r =>
      let o := 64 + 64 * r
      { dst := (List.range 24).map fun s => bits (field b o 15) (5 * s) 5
        words := (List.range 24).map fun s => field b (o + 16 + 2 * s) 2 } }

/-- Two segments share a row. -/
def segMeets (a b : Seg) : Bool :=
  a.pool == b.pool && decide (a.first < b.first + b.count) && decide (b.first < a.first + a.count)

/-- No two of a list's segments share a row. -/
def segsDisjoint : List Seg → Bool
  | [] => true
  | a :: as => as.all (fun b => !segMeets a b) && segsDisjoint as

/-- The checks of R85 on a schedule image for host function h, pattern pid and the descriptor's slices. A valid segment with COUNT 0,
which Table 04-3 does not permit, and words for a slice outside SLICES, which has no receive segment to hold them, are refused too (DESIGN
CHOICE, log 60: R85 and R125 give the first no status). -/
def schedOk (b : List Byte) (h pid : Nat) (slices : List Nat) : Bool :=
  let e := parseSched slices b
  let words (off : Nat) := (List.range 4).map fun i => field b (off + 4 * i) 4
  let segOk (off : Nat) :=
    (words off).all (fun w => bits w 27 4 == 0 && bits w 21 3 == 0 &&
      (!bit w 31 || (decide (bits w 24 3 ≤ 5) && decide (1 ≤ bits w 10 11) && decide (bits w 0 10 + bits w 10 11 ≤ 1024)))) &&
    ((words off).dropWhile fun w => bit w 31).all fun w => !bit w 31
  let sent (s : Nat) := sumOf (e.rounds.map fun r => if r.dst.getD s 31 = 31 then 0 else r.words.getD s 0)
  let got (s : Nat) := sumOf (e.rounds.map fun r =>
    sumOf ((List.range 24).map fun t => if r.dst.getD t 31 = s then r.words.getD t 0 else 0))
  field b 0 2 == pid && bits (byteAt b 2) 0 4 == h && bits (byteAt b 2) 4 4 == 0 && zeroAt b 3 1 &&
    bits (field b 4 2) 10 6 == 0 && zeroAt b 6 2 && zeroAt b 40 24 && segOk 8 && segOk 24 &&
    segsDisjoint e.send && segsDisjoint e.recv && (e.send.all fun x => e.recv.all fun y => x.pool != y.pool) &&
    ((List.range e.rounds.length).all fun r => zeroAt b (64 + 64 * r + 15) 1) &&
    (e.rounds.all fun r =>
      (r.dst.all fun d => decide (d < 24) || d == 31) &&
      ((List.range 24).all fun s => (List.range s).all fun t => r.dst.getD s 31 == 31 || r.dst.getD s 31 != r.dst.getD t 31) &&
      ((List.range 24).all fun s => r.words.getD s 0 == 0 || (slices.contains (r.dst.getD s 31) && slices.contains s)) &&
      r.words.any fun w => w != 0) &&
    (List.range 24).all fun s => decide (sent s ≤ streamLen e.send) && decide (got s ≤ streamLen e.recv)

end Sys2Proof.Machine
end

