-- ==== Sys2Proof/Machine/Reorder.lean ====
section
/-! DEFINITION. What the reordering opcodes write (05): the value of every destination element from the snapshots. -/

namespace Sys2Proof.Machine

/-- COPY (R112): the element with the same index; extents are equal, so the same row-major position. -/
def copyEffect (s : State) (r : RingId) (d : Slot) : Effect :=
  let src := s.source r (d.opD 0)
  effect4 ((List.range (d.opD 4).card.count).map fun k => (k, some (src k)))

/-- The bits of FILL of an element of type ty with moduli q0, q1 (R47). -/
def fillBits (c : LayoutCard) (q : Nat × Nat) : Nat := narrow c.ty (fillReduce c.ty q.1 q.2 c.fill.toNat)

/-- FILL (R113). -/
def fillEffect (s : State) (d : Slot) : Effect :=
  let c := (d.opD 4).card
  let b := binding d.bytes
  effect4 ((List.range c.count).map fun k =>
    (k, some (if isResidue c.ty && b.axis != 7 then fillBits c (s.bound b c.ty (unflatten c.dims k))
      else c.fill.toNat % 2 ^ tyBits c.ty)))

/-- RELAYOUT (R114): linear index k to linear index k. -/
def relayoutEffect (s : State) (r : RingId) (d : Slot) : Effect := copyEffect s r d

/-- PERM_a of TRANSPOSE. -/
def permField (d : List Byte) (a : Nat) : Nat := bits (field d 84 4) (3 * a) 3

/-- The source index of a destination index: on axis PERM_a it is i_a (R115). -/
def transposeSource (d : List Byte) (idx : List Nat) : List Nat :=
  (List.range idx.length).map fun x =>
    match (List.range idx.length).find? fun a => permField d a == x with
    | some a => idx.getD a 0
    | none => 0

/-- TRANSPOSE (R115). -/
def transposeEffect (s : State) (r : RingId) (d : Slot) : Effect :=
  let src := s.source r (d.opD 0)
  let sd := (d.opD 0).card.dims
  let dd := (d.opD 4).card.dims
  effect4 ((List.range (d.opD 4).card.count).map fun k =>
    (k, some (src (flatten sd (transposeSource d.bytes (unflatten dd k))))))

/-- BITREV (R117): within each last-axis row of 2^n elements. -/
def bitrevEffect (s : State) (r : RingId) (d : Slot) : Effect :=
  let src := s.source r (d.opD 0)
  let n := Nat.log2 ((d.opD 4).card.dims.getLastD 1)
  effect4 ((List.range (d.opD 4).card.count).map fun k => (k, some (src (k / 2 ^ n * 2 ^ n + brev n (k % 2 ^ n)))))

/-- A map of positions within each limb of a ciphertext, with negation modulo the limb's modulus (R118, R119). -/
def limbMapEffect (s : State) (r : RingId) (d : Slot) (source : Nat → Nat × Bool) : Effect :=
  let src := s.source r (d.opD 0)
  let c := (d.opD 4).card
  let N := c.dims.getLastD 1
  let limbs := c.dims.getD 1 1
  match d.scard with
  | none => effect4 []
  | some cc =>
    effect4 ((List.range c.count).map fun k =>
      let (i, neg) := source (k % N)
      let w := src (k / N * N + i)
      let q := s.limbModuli cc (k / N % limbs)
      (k, some (if neg then negWord c.ty q.1 q.2 w else w)))

/-- AUTOMORPH (R118). -/
def automorphEffect (s : State) (r : RingId) (d : Slot) : Effect :=
  match d.scard with
  | none => effect4 []
  | some cc => limbMapEffect s r d (autoSource cc.log2n (field d.bytes 84 4) cc.order cc.eval)

/-- NEGROT (R119). -/
def negrotEffect (s : State) (r : RingId) (d : Slot) : Effect :=
  match d.scard with
  | none => effect4 []
  | some cc => limbMapEffect s r d (nrotSource cc.log2n (field d.bytes 84 4))

/-- Coefficient j of the test polynomial (R120); none where its table entry is not below q (R121). -/
def lutCoeff (q n b : Nat) (half : Bool) (t : Nat → Nat) (j : Nat) : Option Nat :=
  let delta := 2 ^ (n - b)
  let e := (j + if half then delta / 2 else 0) / delta
  if e < 2 ^ b then (if t e < q then some (t e) else none)
  else if t 0 < q then some ((q - t 0) % q) else none

/-- LUTPOLY (R120). -/
def lutpolyEffect (s : State) (r : RingId) (d : Slot) : Effect :=
  let n := bits (byteAt d.bytes 84) 0 5
  let lb := bits (byteAt d.bytes 85) 0 5
  let q := (s.bound (binding d.bytes) tyU64 []).1
  let N := 2 ^ n
  effect4 ((List.range (d.opD 4).card.count).map fun k =>
    (k, if k < N then lutCoeff q n lb (bit (byteAt d.bytes 86) 0) (s.source r (d.opD 0)) k else some 0))

/-- EXTRACT (R122). -/
def extractEffect (s : State) (r : RingId) (d : Slot) : Effect :=
  let src := s.source r (d.opD 0)
  let ty := (d.opD 0).card.ty
  match d.scard with
  | none => effect4 []
  | some cc =>
    let N := cc.degree
    let q := s.modulus cc.chain 0
    let i0 := bits (field d.bytes 84 4) 0 18
    let st := bits (field d.bytes 88 4) 0 18
    effect4 ((List.range (d.opD 4).card.count).map fun k =>
      let t := k / (N + 1)
      let i := k % (N + 1)
      let iota := (i0 + t * st) % N
      if i < N then
        let m := (iota + 2 * N - i) % (2 * N)
        (k, (canonIn ty q (src (N + m % N))).map fun y => if N ≤ m then (q - y) % q else y)
      else (k, canonIn ty q (src iota)))

/-! ### PATTERN (R124) -/

/-- The program's fields (Table 05-10, Table 05-11). -/
def ppSteps (p : List Byte) : Nat := byteAt p 3
def ppPin (p : List Byte) : Nat := bits (byteAt p 4) 0 3
def ppPout (p : List Byte) : Nat := bits (byteAt p 5) 0 3
def ppSlices (p : List Byte) : List Nat := onesOf 24 (field p 8 3)
def ppStep (p : List Byte) (i : Nat) : List Byte := (p.drop (256 + 16 * i)).take 16

/-- The elements of an operand that lie on stack m, in row-major order. -/
def OpSnap.block (o : OpSnap) (m : Nat) : List Nat := (List.range o.card.count).filter fun k => o.ownerAt k == m

/-- Key of row, bank of logical pool k of slice n. -/
def ppKey (n k row bank : Nat) : Nat := ((n * 8 + k) * 1024 + row) * 128 + bank

/-- Entry e of a pattern image: 448 data bytes in a slot of 512 (R71). -/
def imageEntry (img : List Byte) (e : Nat) : Nat := leNat ((img.drop (512 * e)).take 448)

/-- The 64 bytes after the entry's data in its slot are 0 (R71). -/
def imageTailOk (img : List Byte) (e : Nat) : Bool := zeroAt img (512 * e + 448) 64

/-- One step of a pattern program on the pools: `rd` reads a pool word, undefined before any write. -/
def patternStep (s : State) (d : Slot) (f : Nat) (pools : List (Nat × Nat)) (i : Nat) : List (Nat × Nat) :=
  let st := ppStep d.image i
  let ty := (d.opD 0).card.ty
  let q := s.bound (binding d.bytes) ty []
  let rd (n k row bank : Nat) : Nat :=
    let key := ppKey n k row bank
    match pools.find? fun e => e.1 == key with
    | some e => e.2
    | none => (Config.freeWord (f + key)).toNat
  if byteAt st 0 = 1 then
    let e0 := field st 4 2
    (onesOf 24 (field st 8 3)).foldl (fun acc n =>
      (List.range (field st 6 2)).foldl (fun acc c =>
        (patternRow (rd n (byteAt st 1)) ty q.1 q.2 (imageEntry (tget d.aux n []) (e0 + c))).foldl (fun acc w =>
          (ppKey n (byteAt st 2) w.1 w.2.1, w.2.2) :: acc) acc) acc) pools
  else
    let spec := parseSched (ppSlices d.image) (tget d.aux (100 + i) [])
    (exchangeRoute spec).foldl (fun acc x =>
      match streamAt spec.send x.2.1, streamAt spec.recv x.2.2.2 with
      | some (sp, sr, sb), some (dp, dr, db) => (ppKey x.2.2.1 dp dr db, rd x.1 sp sr sb) :: acc
      | _, _ => acc) pools

/-- The free words that a PATTERN may use: one for each position of each logical pool of each slice. -/
def patternFree : Nat := ppKey 24 0 0 0

/-- PATTERN (R124): each slice's source block enters PIN, the steps run, POUT drains. -/
def patternEffect (s : State) (r : RingId) (d : Slot) : Effect :=
  let so := d.opD 0
  let dst := d.opD 4
  let ty := so.card.ty
  let src := s.source r so
  let slices := ppSlices d.image
  let f := s.clk.free
  let start := slices.flatMap fun n =>
    ((so.block n).zipIdx).map fun e => (ppKey n (ppPin d.image) (e.2 / 128) (e.2 % 128), widen ty (src e.1))
  let pools := (List.range (ppSteps d.image)).foldl (patternStep s d f) start
  effect4 (slices.flatMap fun n =>
    ((dst.block n).zipIdx).map fun e =>
      let key := ppKey n (ppPout d.image) (e.2 / 128) (e.2 % 128)
      (e.1, (pools.find? fun x => x.1 == key).map fun x => narrow ty x.2))

end Sys2Proof.Machine
end

