-- ==== Sys2Proof/Machine/Index.lean ====
section
/-! DEFINITION. Index-driven and window operations (06). -/

namespace Sys2Proof.Machine

/-- The outcome of resolving an index (Table 06-3): a position and whether it is negated, or out of bounds. -/
def resolve (mode e : Nat) (i : Int) : Option (Nat × Bool) :=
  if mode = 1 then some ((i % (e : Int)).toNat, false)
  else if 0 ≤ i ∧ i < e then some (i.toNat, false)
  else if mode = 2 ∧ -(e : Int) ≤ i ∧ i < 0 then some ((i + e).toNat, true)
  else none

/-- Parameters of GATHER and SCATTER (Table 11-4). -/
def ixMode (d : List Byte) : Nat := bits (byteAt d 84) 0 2
def ixPolicy (d : List Byte) : Nat := bits (byteAt d 84) 2 2
def ixIpb (d : List Byte) : Bool := bit (byteAt d 84) 4

/-- Entry k of instance b of the index tensor, read as a signed 32-bit integer. -/
def indexAt (s : State) (r : RingId) (d : Slot) (b k : Nat) : Int :=
  let o := d.opD 1
  let m := o.card.dims.getLastD 1
  signed (s.source r o (if ixIpb d.bytes then b * m + k else k)) 32

/-- Number of entries among the positions (in order) that name a position named before (R134). -/
def dupCount (ps : List Nat) : Nat :=
  ps.length - (ps.foldl (fun acc p => if acc.contains p then acc else p :: acc) []).length

/-- The bits of a value, negated where asked (R59), for an element with moduli q. -/
def negBits (ty : Nat) (q : Nat × Nat) (neg : Bool) (raw : Nat) : Nat :=
  if neg then narrow ty (negWord ty q.1 q.2 (widen ty raw)) else raw

/-- GATHER (R132). -/
def gatherEffect (s : State) (r : RingId) (d : Slot) : Effect :=
  let x := d.opD 0
  let y := d.opD 4
  let e := x.card.dims.getLastD 1
  let m := y.card.dims.getLastD 1
  let src := s.source r x
  let bnd := binding d.bytes
  let res (k : Nat) := resolve (ixMode d.bytes) e (indexAt s r d (k / m) (k % m))
  let n := y.card.count
  { vals := [(4, (List.range n).map fun k =>
      let q := s.bound bnd y.card.ty (unflatten y.card.dims k)
      (k, some (match res k with
        | some (p, neg) => negBits y.card.ty q neg (src (k / m * e + p))
        | none => fillBits y.card q)))]
    fills := ((List.range n).filter fun k => (res k).isNone).length
    dups := sumOf ((List.range (n / m)).map fun b =>
      dupCount ((List.range m).filterMap fun k => (res (b * m + k)).map (·.1))) }

/-- The sum of a list of element bits under MODADD (R133): modular for residues, wrapping otherwise. -/
def modSum (ty : Nat) (q : Nat × Nat) (vs : List Nat) : Option Nat :=
  if isResidue ty then
    residueOp ty q.1 q.2 (vs.map fun v => (ty, v)) fun _ m xs => sumOf xs % m
  else some (sumOf vs % 2 ^ tyBits ty)

/-- SCATTER (R133): the elements that some entry sets; a Sealed one also rewrites the others with their value (R139). The value of
an element of a resident destination that no entry sets and no earlier descriptor of the chain has kept is free (DESIGN CHOICE,
log 75). -/
def scatterEffect (s : State) (r : RingId) (d : Slot) : Effect :=
  let v := d.opD 0
  let y := d.opD 4
  let e := y.card.dims.getLastD 1
  let m := v.card.dims.getLastD 1
  let src := s.source r v
  let bnd := binding d.bytes
  let inst := v.card.count / m
  let res (b k : Nat) := resolve (ixMode d.bytes) e (indexAt s r d b k)
  let ents (b : Nat) : List (Nat × Nat) := (List.range m).filterMap fun k =>
    (res b k).map fun pn =>
      let q := s.bound bnd y.card.ty (unflatten y.card.dims (b * e + pn.1))
      (pn.1, negBits v.card.ty q pn.2 (src (b * m + k)))
  let old (k : Nat) : Option Nat :=
    if y.res then (s.resident r y).bind fun x => (x.vals.find? fun w => w.1 == k).map fun w => w.2.toNat
    else some (s.elem y k)
  { vals := [(4, (List.range inst).flatMap fun b =>
      let es := ents b
      (List.range e).filterMap fun p =>
        let vs := (es.filter fun x => x.1 == p).map (·.2)
        let k := b * e + p
        match vs with
        | [] => if dSealed d.bytes || y.res then some (k, old k) else none
        | w :: ws =>
          some (k, if ixPolicy d.bytes = 0 then some (ws.getLastD w)
            else if ixPolicy d.bytes = 1 then some w
            else modSum y.card.ty (s.bound bnd y.card.ty (unflatten y.card.dims k)) vs))]
    drops := sumOf ((List.range inst).map fun b => ((List.range m).filter fun k => (res b k).isNone).length)
    dups := sumOf ((List.range inst).map fun b => dupCount ((ents b).map (·.1))) }

/-! ### WINDOW -/

/-- Parameters of WINDOW (Table 11-4), window axis w. -/
def winAxis (d : List Byte) : Nat := bits (byteAt d 84) 0 3
def winTwo (d : List Byte) : Bool := bit (byteAt d 84) 3
def winN (d : List Byte) : Nat := if winTwo d then 2 else 1
def winK (d : List Byte) (w : Nat) : Nat := bits (byteAt d (86 + w)) 0 6 + 1
def winSt (d : List Byte) (w : Nat) : Nat := bits (byteAt d (88 + w)) 0 6 + 1
def winDl (d : List Byte) (w : Nat) : Nat := bits (byteAt d (90 + w)) 0 7
def winPl (d : List Byte) (w : Nat) : Nat := byteAt d (92 + w)

/-- The source index of a destination index, or none in padding (R140). -/
def windowSource (d : List Byte) (sdims idx : List Nat) : Option (List Nat) :=
  let a := winAxis d
  let n := winN d
  let ys := (List.range n).mapM fun w =>
    let y : Int := (idx.getD (a + w) 0 * winSt d w + idx.getD (a + n + w) 0 * winDl d w : Nat) - (winPl d w : Int)
    if 0 ≤ y ∧ y < sdims.getD (a + w) 0 then some y.toNat else none
  ys.map fun ys => idx.take a ++ ys ++ idx.drop (a + 2 * n)

/-- WINDOW (R140). A position whose source lies outside takes the FILL of the destination's layout card (DESIGN CHOICE, log 94: R132
names that card for GATHER alone, R47 and R140 neither). -/
def windowEffect (s : State) (r : RingId) (d : Slot) : Effect :=
  let x := d.opD 0
  let y := d.opD 4
  let src := s.source r x
  let bnd := binding d.bytes
  let srcOf (k : Nat) := windowSource d.bytes x.card.dims (unflatten y.card.dims k)
  { vals := [(4, (List.range y.card.count).map fun k =>
      (k, some (match srcOf k with
        | some i => src (flatten x.card.dims i)
        | none => fillBits y.card (s.bound bnd y.card.ty (unflatten y.card.dims k)))))]
    fills := ((List.range y.card.count).filter fun k => (srcOf k).isNone).length }

/-! ### Pass counts (R135, R136, R138, R141) -/

/-- The bank load of positions: the largest number of distinct positions in one bank, 1 when there is none. -/
def bankLoad (ps : List Nat) : Nat :=
  let u := ps.foldl (fun acc p => if acc.contains p then acc else p :: acc) []
  max 1 (maxOf ((List.range 128).map fun b => (u.filter fun p => p % 128 == b).length))

/-- λ of R138: ⌈log2(max(M, 128)) / 7⌉. -/
def sortLevels (m : Nat) : Nat :=
  let x := max m 128
  ceilDiv (Nat.log2 x + if 2 ^ Nat.log2 x = x then 0 else 1) 7

/-- Core duration of one Sealed instance (R138); the ceiling of the quotient by 7 of a real logarithm is that of the
least power of 128 not below M. -/
def gatherCore (S M : Nat) : Nat := 160 + ceilDiv S 128 + ceilDiv M 128 * (2 + 2 * sortLevels M)
def scatterCore (S M : Nat) : Nat := 160 + 2 * ceilDiv S 128 + ceilDiv M 128 * (2 + 2 * sortLevels M)

/-- Pass cycles of a WINDOW instance whose block is the destination elements `ks` (R141). -/
def windowCore (d : List Byte) (sdims ddims : List Nat) (blk : Nat) (ks : List Nat) : Nat :=
  let pos (k : Nat) : Option Nat := (windowSource d sdims (unflatten ddims k)).map fun i => flatten sdims i % blk
  let rows := ceilDiv ks.length 128
  sumOf ((List.range rows).map fun c => bankLoad (((ks.drop (128 * c)).take 128).filterMap pos)) + 40

end Sys2Proof.Machine
end

