-- ==== Sys2Proof/Machine/Retort.lean ====
section
/-! DEFINITION. The Retort's fused opcodes (07): bases and digits (R147), constant tables (Table 07-5, Table 07-6), key
maps and limb images (Table 07-8 to Table 07-10), DIGITS, BASECONV, RESCALE and KSIP. -/

namespace Sys2Proof.Machine

/-! ### Bases and digits -/

/-- The chain indices of a basis mask, ascending. -/
def basisOf (mask : Nat) : List Nat := onesOf 64 mask

/-- QP_l: the ordinary moduli 0 to l and the special moduli (R147). -/
def extBasis (c : Chain) (l : Nat) : List Nat := List.range (l + 1) ++ (List.range c.special).map fun j => c.count - c.special + j

/-- Number of digits of size alpha. -/
def digitCount (l alpha : Nat) : Nat := ceilDiv (l + 1) alpha
/-- Digit d: ordinary indices. -/
def digitOf (l alpha d : Nat) : List Nat := (List.range (l + 1)).filter fun i => i / alpha == d
/-- Complement of digit d in QP_l. -/
def digitRest (c : Chain) (l alpha d : Nat) : List Nat := (extBasis c l).filter fun i => !(digitOf l alpha d).contains i
/-- LX - α': limbs of the second axis of a digit-extension tensor. -/
def digitExtLimbs (c : Chain) (l alpha : Nat) : Nat :=
  (extBasis c l).length - (l + 1 - (digitCount l alpha - 1) * alpha)

/-! ### Constant tables -/

structure CBlock where
  smask : Nat
  tmask : Nat
  ns : Nat
  nt : Nat
  ofs : Nat
  rsv : Bool
  body : List Byte
  deriving DecidableEq, Repr

/-- Bytes of a vector of n words, padded to 64 bytes. -/
def vecBytes (n : Nat) : Nat := 64 * ceilDiv n 8

/-- Length of a block of a table of kind `kind` (Table 07-6). -/
def cblockLen (kind ns nt ofs : Nat) : Nat :=
  if kind = 1 then 64 + vecBytes ns * (ofs % 2 + 1 + nt) else 64 + 2 * vecBytes ns

/-- The blocks of a table image from its byte 64 on. -/
def parseBlocks (kind : Nat) : Nat → List Byte → List CBlock
  | 0, _ => []
  | k + 1, b =>
    let ns := byteAt b 16
    let nt := byteAt b 17
    let ofs := byteAt b 18
    let n := cblockLen kind ns nt ofs
    { smask := field b 0 8, tmask := field b 8 8, ns := ns, nt := nt, ofs := ofs
      rsv := !zeroAt b 19 45 || ofs / 2 != 0 || (kind == 2 && ofs != 0)
      body := (b.take n).drop 64 } :: parseBlocks kind k (b.drop n)

def tableBlocks (img : List Byte) : List CBlock := parseBlocks (byteAt img 0) (byteAt img 1) (img.drop 64)

/-- Word s of vector v of a block's body (vectors and matrix rows in order). -/
def CBlock.word (b : CBlock) (v s : Nat) : Nat := field b.body (v * vecBytes b.ns + 8 * s) 8
def CBlock.offset (b : CBlock) (s : Nat) : Nat := if b.ofs % 2 = 1 then b.word 0 s else 0
def CBlock.pre (b : CBlock) (s : Nat) : Nat := b.word (b.ofs % 2) s
def CBlock.mat (b : CBlock) (t s : Nat) : Nat := b.word (b.ofs % 2 + 1 + t) s
def CBlock.add (b : CBlock) (s : Nat) : Nat := b.word 0 s
def CBlock.dinv (b : CBlock) (s : Nat) : Nat := b.word 1 s

/-- A constant of modulus q, undefined at or above it (Table 07-6). -/
def constOk (q w : Nat) : Option Nat := if w < q then some w else none

/-! ### DIGITS (R151) -/

/-- ((a + off) × pre) mod q, undefined when a constant is not below q. -/
def prescale (q a off pre : Nat) : Option Nat := do
  let o ← constOk q off
  let p ← constOk q pre
  return (a + o) % q * p % q

/-- The word of a residue type whose single-residue parts are computed by `f h q a` (h: which half). -/
def liftWord (tin tout q0 q1 w : Nat) (f : Nat → Nat → Nat → Option Nat) : Option Nat :=
  if tin = tyU32P then do
    let a ← canonIn tyU64 q0 (w % 2 ^ 32)
    let b ← if q1 = 0 then some 0 else canonIn tyU64 q1 (w / 2 ^ 32)
    let x ← f 0 q0 a
    let y ← if q1 = 0 then some 0 else f 1 q1 b
    return x + 2 ^ 32 * y
  else do
    let a ← canonIn tin q0 w
    let y ← f 0 q0 a
    return canonOut tout q0 y

/-- DIGITS (R151). -/
def digitsEffect (s : State) (r : RingId) (d : Slot) : Effect :=
  let a := d.opD 0
  let h := d.opD 4
  match d.scard with
  | none => effect4 []
  | some cc =>
    let l := cc.level
    let alpha := bits (byteAt d.bytes 85) 0 6
    let poly := bits (byteAt d.bytes 84) 0 2
    let blocks := tableBlocks d.image
    let N := cc.degree
    let words := h.card.dims.getD 0 1
    let src := s.source r a
    effect4 ((List.range h.card.count).map fun k =>
      let w := k / N
      let idx (half : Nat) := if cc.paired then 2 * w + half else w
      let q (half : Nat) := if idx half ≤ l then s.modulus cc.chain (idx half) else 0
      (k, liftWord a.card.ty h.card.ty (q 0) (if cc.paired then q 1 else 0) (src (poly * words * N + k)) fun half m x =>
        let i := idx half
        match blocks[i / alpha]? with
        | some b => prescale m x (b.offset (i % alpha)) (b.pre (i % alpha))
        | none => none))

/-! ### BASECONV (R152) -/

/-- Σ over the sources of x̂ × W mod q, undefined when an operand or a constant is. -/
def convSum (q : Nat) (terms : List (Option Nat × Nat)) : Option Nat :=
  terms.foldl (fun acc t => do
    let a ← acc
    let x ← t.1
    let w ← constOk q t.2
    return (a + x * w) % q) (some 0)

/-- BASECONV (R152). -/
def baseconvEffect (s : State) (r : RingId) (d : Slot) : Effect :=
  let x := d.opD 0
  let y := d.opD 4
  let src := s.source r x
  match d.scard with
  | none => effect4 []
  | some cc =>
    let N := cc.degree
    let c := s.chain cc.chain
    let blocks := tableBlocks d.image
    let mi (i : Nat) := s.modulus cc.chain i
    if bit (byteAt d.bytes 84) 0 then
      let alpha := bits (byteAt d.bytes 85) 0 6
      let nt := y.card.dims.getD 1 1
      effect4 ((List.range (y.card.dims.getD 0 1)).flatMap fun g =>
        let rest := digitRest c cc.level alpha g
        (rest.zipIdx).flatMap fun te =>
          (List.range N).map fun j =>
            ((g * nt + te.2) * N + j,
              match blocks[g]? with
              | none => none
              | some b =>
                (convSum (mi te.1) ((digitOf cc.level alpha g).zipIdx.map fun se =>
                  (canonIn x.card.ty (mi se.1) (src (se.1 * N + j)), b.mat te.2 se.2))).map (canonOut y.card.ty (mi te.1))))
    else
      match blocks with
      | [] => effect4 []
      | b :: _ =>
        let S := basisOf b.smask
        let T := basisOf b.tmask
        effect4 ((List.range y.card.count).map fun k =>
          let g := k / (T.length * N)
          let t := k / N % T.length
          let j := k % N
          let m := mi (T.getD t 0)
          (k, (convSum m (S.zipIdx.map fun se =>
            let a := canonIn x.card.ty (mi se.1) (src ((g * S.length + se.2) * N + j))
            let a := if bit (byteAt d.bytes 84) 1 then a.bind fun v => prescale (mi se.1) v (b.offset se.2) (b.pre se.2) else a
            (a, b.mat t se.2))).map (canonOut y.card.ty m)))

/-! ### RESCALE (R156) -/

/-- ((x + add + m - v) mod m) × dinv mod m. -/
def rescaleAt (m x v add dinv : Nat) : Option Nat := do
  let a ← constOk m add
  let i ← constOk m dinv
  return (x + a + m - v) % m * i % m

/-- RESCALE (R156). -/
def rescaleEffect (s : State) (r : RingId) (d : Slot) : Effect :=
  let x := d.opD 0
  let v := d.opD 1
  let o := d.opD 4
  let sx := s.source r x
  let sv := s.source r v
  match d.scard, tableBlocks d.image with
  | some cc, b :: _ =>
    let N := cc.degree
    let kept := basisOf b.smask
    let words := o.card.dims.getD 1 1
    let paired := o.card.ty == tyU32P
    effect4 ((List.range o.card.count).map fun k =>
      let w := k / N % words
      let one (half : Nat) (i a c : Nat) (m : Nat) : Option Nat :=
        if half = 0 ∨ half = 1 then rescaleAt m a c (b.add i) (b.dinv i) else none
      if paired then
        let part (half : Nat) : Option Nat :=
          match kept[2 * w + half]? with
          | none => some 0
          | some i => do
            let m := s.modulus cc.chain i
            let a ← canonIn tyU64 m (bits (sx k) (32 * half) 32)
            let c ← canonIn tyU64 m (bits (sv k) (32 * half) 32)
            one half (2 * w + half) a c m
        (k, match part 0, part 1 with
          | some lo, some hi => some (lo + 2 ^ 32 * hi)
          | _, _ => none)
      else
        let m := s.modulus cc.chain (kept.getD w 0)
        (k, do
          let a ← canonIn x.card.ty m (sx k)
          let c ← canonIn v.card.ty m (sv k)
          let y ← one 0 w a c m
          return canonOut o.card.ty m y))
  | _, _ => effect4 []

/-! ### Keys and KSIP -/

/-- The key tag that a limb image of digit g must carry (Table 07-8). -/
def keyTag (cc : CipherCard) (galois phash g : Nat) : List Byte :=
  natLe cc.keyset.toNat 4 ++ natLe galois 4 ++ natLe cc.chain 2 ++ natLe cc.level 1 ++ natLe g 1 ++ natLe phash 4

/-- Chunks of a limb image (R158). -/
def keyChunks (N : Nat) : Nat := ceilDiv N 8192
def limbImageBytes (N : Nat) : Nat := 64 + 64 * keyChunks N + 8 * N

/-- Entry of a key map (Table 07-9). -/
def kmBase (b : List Byte) : Nat := field b 0 8
def kmOwner (b : List Byte) : Nat := byteAt b 8
def kmEntryOk (s : State) (h : HF) (N : Nat) (b : List Byte) : Bool :=
  kmBase b % 64 == 0 && kmBase b < 2 ^ 40 && zeroAt b 9 1 && bits (byteAt b 10) 4 4 == 0 && bits (byteAt b 10) 0 4 == h.val &&
    byteAt b 11 == 1 && zeroAt b 12 4 && s.locOk h (kmOwner b) (kmBase b) (limbImageBytes N)

/-- Chunk c of a limb image of digit-limb (tag, m) is as R160 demands: header, then every word below q. -/
def chunkOk (tag : List Byte) (m q N c : Nat) (b : List Byte) : Bool :=
  b.take 16 == tag && field b 16 2 == m && field b 18 2 == c && zeroAt b 20 44 &&
    (List.range (min N 8192)).all fun i => decide (field b (64 + 8 * i) 8 < q)

/-- Coefficient j of U_d at the limb with chain index m and modulus q (R161). -/
def keyUniform (seed tag : List Byte) (m q j : Nat) : Nat :=
  ts128Stream (seed ++ tag ++ natLe m 2) 0x4B j % q

/-- KSIP (R163). `aux` holds, under d × LX + k, the key map entry and the 64-byte header of the limb image. -/
def ksipEffect (s : State) (r : RingId) (d : Slot) : Effect :=
  let a := d.opD 0
  let cx := d.opD 1
  let z := d.opD 4
  let sa := s.source r a
  let sc := s.source r cx
  match d.scard with
  | none => effect4 []
  | some cc =>
    let c := s.chain cc.chain
    let l := cc.level
    let N := cc.degree
    let alpha := bits (byteAt d.bytes 85) 0 6
    let poly := bits (byteAt d.bytes 84) 0 2
    let galois := field d.bytes 88 4
    let QP := extBasis c l
    let LX := QP.length
    let D := digitCount l alpha
    let nt := cx.card.dims.getD 1 1
    let ent (g k : Nat) := tget d.aux (g * LX + k) []
    let img (g k : Nat) (off n : Nat) := s.readBytes (kmOwner (ent g k)) (kmBase (ent g k) + off) n
    let chunk (g k j : Nat) := img g k (64 + j * (64 + 65536)) (64 + 8 * min N 8192)
    let bad := (List.range D).any fun g => (QP.zipIdx).any fun mk => (List.range (keyChunks N)).any fun j =>
      !chunkOk (keyTag cc galois c.phash g) mk.1 (s.modulus cc.chain mk.1) N j (chunk g mk.2 j)
    let E (g m j : Nat) : Option Nat :=
      let q := s.modulus cc.chain m
      if (digitOf l alpha g).contains m then canonIn a.card.ty q (sa ((poly * (l + 1) + m) * N + j))
      else canonIn cx.card.ty q (sc ((g * nt + ((digitRest c l alpha g).findIdx fun x => x == m)) * N + j))
    { vals := [(4, (List.range z.card.count).map fun k =>
        let half := k / (LX * N)
        let kk := k / N % LX
        let j := k % N
        let m := QP.getD kk 0
        let q := s.modulus cc.chain m
        (k, ((List.range D).foldl (fun (acc : Option Nat) g => do
          let x ← acc
          let e ← E g m j
          let hdr := (ent g kk).drop 16
          let w := if half = 0 then field (img g kk (64 + j / 8192 * (64 + 65536) + 64 + 8 * (j % 8192)) 8) 0 8
            else keyUniform ((hdr.drop 16).take 32) (hdr.take 16) m q j
          return (x + e * w) % q) (some 0)).map (canonOut z.card.ty q)))]
      keyBad := bad }

end Sys2Proof.Machine
end

