-- ==== Sys2Proof/Machine/Tile.lean ====
section
/-! DEFINITION. The tile unit of a slice (08): shapes, instruction fields, issue timing and operand delivery, and the
data effects of the tile, control and Retort instructions. -/

namespace Sys2Proof.Machine

/-! ### Instructions (R182) -/

/-- The fields of a tile instruction. -/
structure TI where
  op : Nat
  dst : Nat
  sa : Nat
  sb : Nat
  md : Nat
  deriving DecidableEq, Repr

def tiOf (w : W64) : TI :=
  { op := bits w.toNat 56 8, dst := bits w.toNat 48 8, sa := bits w.toNat 40 8, sb := bits w.toNat 32 8, md := bits w.toNat 0 32 }

def TI.msel (i : TI) : Nat := bits i.md 26 6
def TI.pm (i : TI) : Bool := bit i.md 25
def TI.brow (i : TI) : Nat := bits i.md 16 6
def TI.base (i : TI) : Nat := bits i.md 22 10
/-- S1, S2, S3 of the Address layout. -/
def TI.steps (i : TI) : List Nat := [bits i.md 15 7, bits i.md 8 7, bits i.md 1 7]
def TI.count (i : TI) : Nat := bits i.md 0 12

/-! Opcodes of Table 08-5 and Table 08-6. -/
def tNOP : Nat := 0x00
def tTCFG : Nat := 0x01
def tTZERO : Nat := 0x02
def tAZERO : Nat := 0x03
def tTMOV : Nat := 0x04
def tTLD : Nat := 0x08
def tTST : Nat := 0x09
def tASTR : Nat := 0x0A
def tLOOP : Nat := 0x10
def tENDL : Nat := 0x11
def tTMACE : Nat := 0x40
def tTMACB : Nat := 0x41
def tTMACR : Nat := 0x42
def tTMULE : Nat := 0x48

/-! ### Operand bytes (Table 08-1) -/

def isTile (b : Nat) : Bool := decide (b < 0x10)
def isAcc (b : Nat) : Bool := decide (0x10 ≤ b) && decide (b < 0x14)
def isChar (b : Nat) : Bool := decide (0x20 ≤ b) && decide (b < 0x40)
def isSrcSlot (b : Nat) : Bool := decide (0x80 ≤ b) && decide (b < 0x84)
def isDstSlot (b : Nat) : Bool := decide (0x84 ≤ b) && decide (b < 0x86)
def isTmac (op : Nat) : Bool := op == tTMACE || op == tTMACB || op == tTMACR

/-! ### Shapes (Table 08-2) -/

structure Shape where
  ty : Nat
  tp : Nat
  rows : Nat
  cols : Nat
  pair : Bool
  deriving DecidableEq, Repr

def shapeOf (e : W64) : Shape :=
  { ty := bits e.toNat 56 8, tp := bits e.toNat 48 8, rows := bits e.toNat 40 8, cols := bits e.toNat 32 8 + 1
    pair := bit e.toNat 31 }

/-- The current shape entry of a tile or accumulator byte. -/
def TileUnit.entry (u : TileUnit) (b : Nat) : W64 := tget u.shape b 0
def TileUnit.sh (u : TileUnit) (b : Nat) : Shape := shapeOf (u.entry b)
/-- A register is empty (R177). -/
def TileUnit.empty (u : TileUnit) (b : Nat) : Bool := (u.sh b).ty == 0

/-- Entry k of a shape table of 192 bytes. -/
def tableEntry (t : List Byte) (k : Nat) : W64 := BitVec.ofNat 64 (field t (8 * k) 8)

/-- Footprint of a tile in half bytes times 2, compared with 4 KiB (R171): rows × 128 × bits. -/
def tileBits (h : Shape) : Nat := h.rows * 128 * tyBits h.ty

/-- The consistency of a shape table (R175). A non-zero byte among the 32 that end it makes it inconsistent too, at the TCFG that installs it:
R174 has them 0, and R175's list does not name them (DESIGN CHOICE, log 99). -/
def tableOk (t : List Byte) : Bool :=
  zeroAt t 160 32 && (List.range 20).all fun k =>
    let e := tableEntry t k
    let h := shapeOf e
    if h.ty = 0 then e == 0
    else
      bits e.toNat 0 31 == 0 && decide (1 ≤ h.rows) && decide (h.cols ≤ 128) &&
        if k < 16 then
          decide (tyBits h.ty ≠ 0) && tparamOk h.ty h.tp && decide (tileBits h ≤ if h.pair then 65536 else 32768) &&
            (!h.pair || (k % 2 == 0 && tableEntry t (k + 1) == 0))
        else (h.ty == tyU64 || h.ty == tyU32P) && h.tp == 0 && !h.pair && decide (h.rows * 128 ≤ 1024)

/-! ### Issue and delivery (R187 to R192) -/

/-- A row read: which input reads (0 input A, 1 input B, 2 any other) and which physical row. -/
abbrev RowRead := Nat × Nat

/-- The physical row of logical row r of tile byte b (R171). -/
def physRow (u : TileUnit) (b r : Nat) : Nat := 4 * b + 128 * tyBits (u.sh b).ty * r / 8192

/-- Moves `k` to the end of a least-recently-used list, dropping the oldest when more than `n` stay. -/
def lruTouch (n : Nat) (l : List (Nat × Nat)) (k : Nat) : List (Nat × Nat) :=
  let l := (l.filter fun e => e.1 != k) ++ [(k, 0)]
  l.drop (l.length - n)

/-- One read through the latches, the operand cache or a port: the unit and whether it missed (R190 to R192). A Retort
input's latch takes the row also when the operand cache serves the read (DESIGN CHOICE, log 62: R192 names the port
alone). -/
def rowRead (u : TileUnit) (x : RowRead) : TileUnit × Bool :=
  let (inp, row) := x
  let lat := if inp = 0 then u.latA else if inp = 1 then u.latB else []
  let setLat (u : TileUnit) : TileUnit :=
    if inp = 0 then { u with latA := lruTouch 3 u.latA row } else if inp = 1 then { u with latB := lruTouch 3 u.latB row } else u
  if lat.any fun e => e.1 == row then (setLat u, false)
  else
    let u := setLat u
    if u.wide then (u, true)
    else
      let hit := u.cache.any fun e => e.1 == row
      ({ u with cache := lruTouch 8 u.cache row }, !hit)

/-- A write to a physical row: the operand cache's copy takes the new row and stays (R190), and every latch of it is
invalid (R192). R192 also names cache copies; that R190's copy stays is a DESIGN CHOICE (log 62). -/
def rowWrite (u : TileUnit) (row : Nat) : TileUnit :=
  let f (l : List (Nat × Nat)) := l.filter fun e => e.1 != row
  { u with latA := f u.latA, latB := f u.latB }

/-- The cost of a row-op with these reads and writes (R190, R191). The reads are taken one after another, SA, SB, then DST: a row that one of
them misses is a hit for a later one of the same row-op, and a latch hit leaves the cache's order as it is (DESIGN CHOICE, log 99: the
rules give no order). -/
def rowOpCost (u : TileUnit) (reads : List RowRead) (writes : List Nat) : TileUnit × Nat :=
  let (u, miss) := reads.foldl (fun (acc : TileUnit × List Nat) x =>
    let (u, m) := rowRead acc.1 x
    (u, if m then x.2 :: acc.2 else acc.2)) (u, [])
  let cost := if u.wide then max 1 (maxOf ((List.range 4).map fun g => (miss.filter fun r => r / 16 == g).length))
    else max 1 (ceilDiv miss.length 2)
  (writes.foldl rowWrite u, cost)

/-! MOD fields of a Char instruction (Table 09-2). -/
def TI.rnd (i : TI) : Nat := bits i.md 22 3
def TI.sat (i : TI) : Bool := bit i.md 21
def TI.cond (i : TI) : Nat := bits i.md 18 3
def TI.trow (i : TI) : Nat := bits i.md 12 6
def TI.dty (i : TI) : Nat := bits i.md 6 6
def TI.sty (i : TI) : Nat := bits i.md 0 6
/-! Scale layout. -/
def TI.scScale (i : TI) : Nat := bits i.md 9 16
def TI.scRnd (i : TI) : Nat := bits i.md 6 3

/-- VENC and VDEC. -/
def isScaleOp (op : Nat) : Bool := op == 0xA9 || op == 0xAA

/-- The tile or accumulator row that an instruction with a Char-register destination reads: TROW, which VENC and VDEC
take as 0 (R198, R211). -/
def TI.charRow (i : TI) : Nat := if isScaleOp i.op then 0 else i.trow

/-- Char instructions that also read their destination: VFMA and VSEL. -/
def readsDst (op : Nat) : Bool := op == 0x93 || op == 0x99

/-- The row-ops of an instruction: reads and written physical rows of each (Table 08-5, Table 08-6, R198). -/
def rowOps (u : TileUnit) (i : TI) : List (List RowRead × List Nat) :=
  let rows (b : Nat) := (u.sh b).rows
  let per (b : Nat) (f : Nat → List RowRead × List Nat) := (List.range (rows b)).map f
  if i.op = tNOP ∨ i.op = tTCFG ∨ i.op = tAZERO then [([], [])]
  else if i.op = tTZERO then [([], (List.range (rows i.dst)).map (physRow u i.dst))]
  else if i.op = tTMOV then per i.dst fun r => ([(2, physRow u i.sa r)], [physRow u i.dst r])
  else if i.op = tTLD then per i.dst fun r => ([], [physRow u i.dst r])
  else if i.op = tTST then per i.sa fun r => ([(2, physRow u i.sa r)], [])
  else if i.op = tASTR then per i.sa fun _ => ([], [])
  else if i.op = tTMACE then per i.dst fun r => ([(0, physRow u i.sa r), (1, physRow u i.sb r)], [])
  else if i.op = tTMULE then per i.dst fun r => ([(0, physRow u i.sa r), (1, physRow u i.sb r)], [physRow u i.dst r])
  else if i.op = tTMACR then per i.dst fun r => ([(0, physRow u i.sa r), (1, physRow u i.sb i.brow)], [])
  else if i.op = tTMACB then
    (List.range (rows i.sa)).flatMap fun r => (List.range (u.sh i.sa).cols).map fun k =>
      ([(0, physRow u i.sa r), (1, physRow u i.sb k)], [])
  else
    -- Char instructions
    let rd (r : Nat) (b : Nat) : List RowRead := if isTile b then [(2, physRow u b r)] else []
    if isTile i.dst then
      per i.dst fun r => (rd r i.sa ++ rd r i.sb ++ (if readsDst i.op then rd r i.dst else []), [physRow u i.dst r])
    else [(rd i.charRow i.sa ++ rd i.charRow i.sb, [])]

/-- Λ of Table 08-7 and Table 09-4. -/
def latency (op : Nat) : Nat :=
  if op = tNOP ∨ op = tTCFG then 0 else if op = tAZERO then 1 else if op = tTZERO ∨ op = tTMOV then 4
  else if op < 0x40 then 8 else if op < 0x80 then 12
  else if op = 0x82 then 12 else if op = 0x84 then 8 else if op = 0x8A then 6
  else if op = 0x90 ∨ op = 0x91 ∨ op = 0x92 then 8 else if op = 0x93 then 10 else if op = 0xA8 then 8
  else if op = 0xA9 ∨ op = 0xAA then 16 else 4

/-- The registers that an instruction reads and writes (tiles, accumulators, Char registers). -/
def regsRead (i : TI) : List Nat :=
  ([i.sa, i.sb].filter fun b => isTile b || isAcc b || isChar b) ++
    (if readsDst i.op || isTmac i.op then [i.dst] else [])
def regsWritten (i : TI) : List Nat := [i.dst].filter fun b => isTile b || isAcc b || isChar b

/-- Tiles and accumulators that a shape table changes, pair partners among them (R175). -/
def changedRegs (u : TileUnit) (t : List Byte) : List Nat :=
  let ch (k : Nat) : Bool := u.entry (if k < 16 then k else k) != tableEntry t k
  let prt (k : Nat) : Bool := decide (k < 16) && k % 2 == 1 && ch (k - 1) && ((u.sh (k - 1)).pair || (shapeOf (tableEntry t (k - 1))).pair)
  (List.range 20).filter fun k => ch k || prt k

/-- Issues an instruction: its cycles, retirement and operand copies (R187 to R192). LOOP and ENDL take no cycles. -/
def tileIssue (u : TileUnit) (i : TI) : TileUnit :=
  if i.op = tLOOP ∨ i.op = tENDL then u
  else
    let after (l : List Nat) (t : List (Nat × Nat)) := maxOf (l.map fun b => tget t b 0)
    let waits := (regsRead i ++ regsWritten i).filter fun b => !(isTmac i.op && b == i.dst && tget u.tmac b false)
    let tbl := u.tables.getD (bits i.md 0 4) []
    let start := maxOf [u.cyc, after waits u.retire, if i.op = tTCFG then after (changedRegs u tbl) u.used else 0]
    let (u, len) := (rowOps u i).foldl (fun (acc : TileUnit × Nat) x =>
      let (u, c) := rowOpCost acc.1 x.1 x.2
      (u, acc.2 + c)) (u, 0)
    let last := start + len - 1
    -- `retire` and `used` hold the first cycle after retirement
    let done := last + latency i.op + 1
    let put (l : List Nat) (t : List (Nat × Nat)) := l.foldl (fun t b => tput t b (max (tget t b 0) done)) t
    { u with
      cyc := last + 1
      retire := put (regsWritten i) u.retire
      used := put (regsRead i ++ regsWritten i ++ [255]) u.used
      tmac := (regsWritten i).foldl (fun t b => tput t b (isTmac i.op)) u.tmac }

/-- P (R189): the latest retire cycle plus 1; key 255 of `used` collects every instruction. -/
def TileUnit.length (u : TileUnit) : Nat := tget u.used 255 1

/-- TCFG installs a table (R176): shapes, zeroing and invalidation. -/
def tcfg (u : TileUnit) (t : List Byte) : TileUnit :=
  let ch := changedRegs u t
  let inv (l : List (Nat × Nat)) := l.filter fun e => !ch.contains (e.1 / 4)
  { u with
    shape := (List.range 20).foldl (fun s k => tset 0 s k (tableEntry t k)) u.shape
    tile := u.tile.filter fun e => !ch.contains (e.1 / 16384)
    acc := u.acc.filter fun e => !ch.contains (16 + e.1 / 1024)
    accMod := u.accMod.filter fun e => !ch.contains (16 + e.1)
    cache := inv u.cache, latA := inv u.latA, latB := inv u.latB }

/-! ### Data -/

/-- Element (row, lane) of a tile byte; a pair keeps all its rows under its even tile. -/
def TileUnit.el (u : TileUnit) (b row lane : Nat) : Nat := (tget u.tile (16384 * b + 128 * row + lane) 0).toNat
def TileUnit.setEl (u : TileUnit) (b row lane v : Nat) : TileUnit :=
  { u with tile := tset 0 u.tile (16384 * b + 128 * row + lane) (BitVec.ofNat 64 v) }
def TileUnit.vtLane (u : TileUnit) (b lane : Nat) : Nat := (tget u.vt (128 * (b - 0x20) + lane) 0).toNat
def TileUnit.setVt (u : TileUnit) (b lane v : Nat) : TileUnit :=
  { u with vt := tset 0 u.vt (128 * (b - 0x20) + lane) (BitVec.ofNat 64 v) }
def TileUnit.accEl (u : TileUnit) (b row lane : Nat) : Acc := tget u.acc (1024 * (b - 16) + 128 * row + lane) {}
def TileUnit.setAcc (u : TileUnit) (b row lane : Nat) (a : Acc) : TileUnit :=
  { u with acc := tset {} u.acc (1024 * (b - 16) + 128 * row + lane) a }

/-- The moduli of a modulus select in a slice (R181). -/
def tileModuli (s : State) (u : TileUnit) (sel : Nat) : Nat × Nat :=
  match u.chain with
  | none => (0, 0)
  | some c => (s.modulus c (u.mbase + sel), s.modulus c (u.mbase + sel + 1))

/-- A free 128-bit value. -/
def freeWide (f : Nat) : Nat := (Config.freeWord f).toNat + 2 ^ 64 * (Config.freeWord (f + 1)).toNat

/-- One accumulation into a single-mode element (R145, R146): operands none when undefined. -/
def accSingle (q f : Nat) (e : Acc) (a b : Option Nat) : Acc :=
  let red := e.cnt == 31
  match a, b with
  | some a, some b =>
    let v := e.v.toNat + a * b
    let sh := (e.sh0 + a % 8191 * (b % 8191)) % 8191
    if red then { e with v := BitVec.ofNat 128 (v % q), cnt := 0, sh0 := (sh + 8191 - v / q % 8191 * (q % 8191) % 8191) % 8191 }
    else { e with v := BitVec.ofNat 128 v, cnt := e.cnt + 1, sh0 := sh }
  | _, _ =>
    let v := freeWide f % q
    { e with v := BitVec.ofNat 128 v, cnt := if red then 0 else e.cnt + 1, sh0 := v % 8191 }

/-- One half of a paired element: value, count and shadow kept together. -/
def accHalf (q f : Nat) (v sh : Nat) (red : Bool) (a b : Option Nat) : Nat × Nat :=
  match a, b with
  | some a, some b =>
    let v := v + a * b
    let sh := (sh + a % 8191 * (b % 8191)) % 8191
    if red then (v % q, (sh + 8191 - v / q % 8191 * (q % 8191) % 8191) % 8191) else (v, sh)
  | _, _ =>
    let v := (Config.freeWord f).toNat % q
    (v, v % 8191)

/-- One accumulation of two operand words of tiles of types ta, tb (R143, R144). -/
def accumulate (pm : Bool) (ta tb : Nat) (q : Nat × Nat) (f : Nat) (e : Acc) (x y : Nat) : Acc :=
  if pm then
    let red := e.cnt == 31
    let lo := accHalf q.1 f (e.v.toNat % 2 ^ 64) e.sh0 red (canonIn tyU64 q.1 (x % 2 ^ 32)) (canonIn tyU64 q.1 (y % 2 ^ 32))
    let hi := accHalf q.2 (f + 1) (e.v.toNat / 2 ^ 64) e.sh1 red (canonIn tyU64 q.2 (x / 2 ^ 32)) (canonIn tyU64 q.2 (y / 2 ^ 32))
    { v := BitVec.ofNat 128 (lo.1 + 2 ^ 64 * hi.1), cnt := if red then 0 else e.cnt + 1, sh0 := lo.2, sh1 := hi.2 }
  else accSingle q.1 f e (canonIn ta q.1 x) (canonIn tb q.1 y)

/-- The canonical residue (or residue pair) that a read of an element delivers; the element keeps its contents (R145). -/
def accRead (s : State) (u : TileUnit) (b row lane : Nat) : Nat :=
  let e := u.accEl b row lane
  match u.accMod.find? fun m => m.1 == b - 16 with
  | none => 0
  | some (_, sel, pm) =>
    let q := tileModuli s u sel
    if pm then e.v.toNat % 2 ^ 64 % q.1 + 2 ^ 32 * (e.v.toNat / 2 ^ 64 % q.2) else e.v.toNat % q.1

/-- The first pool row of an Address instruction, in the iterations of the open loops (R183). -/
def firstRow (u : TileUnit) (i : TI) : Nat := i.base + sumOf (List.zipWith (fun st (l : Nat × Nat × Nat) => st * l.2.1) i.steps u.loops)

/-- A word written into a destination slot's pool: dropped at or beyond the block, else the written bit is set (R180). -/
def poolStore (v : Slice) (slot pos word : Nat) : Slice :=
  if tget v.tu.slotLen slot 0 ≤ pos then v
  else
    let v := v.updPool (tget v.tu.slotPool slot 0) fun p => { p with data := tset 0 p.data pos (BitVec.ofNat 64 word) }
    { v with tu := { v.tu with written := tput v.tu.written (131072 * slot + pos) true } }

/-- Folds over the cells (row, lane) of a shape. -/
def overCells {α : Type} (rows cols : Nat) (a : α) (f : α → Nat → Nat → α) : α :=
  (List.range rows).foldl (fun a r => (List.range cols).foldl (fun a u => f a r u) a) a

/-- Free values that one tile instruction may use. -/
def tileFree : Nat := 65536

/-- The data effect of a tile, control or Retort instruction on a slice (Table 08-5, Table 08-6); `f` is the first free
value it may use. -/
def tileData (s : State) (f : Nat) (v : Slice) (i : TI) : Slice :=
  let u := v.tu
  let h := u.sh i.dst
  let onU (u : TileUnit) : Slice := { v with tu := u }
  if i.op = tTCFG then onU (tcfg u (u.tables.getD (bits i.md 0 4) []))
  else if i.op = tTZERO then onU { u with tile := u.tile.filter fun e => e.1 / 16384 != i.dst }
  else if i.op = tAZERO then
    onU { u with acc := u.acc.filter fun e => e.1 / 1024 != i.dst - 16, accMod := u.accMod.filter fun e => e.1 != i.dst - 16 }
  else if i.op = tTMOV then onU (overCells h.rows h.cols u fun w r l => w.setEl i.dst r l (u.el i.sa r l))
  else if i.op = tTLD then
    let p := v.pool (tget u.slotPool (i.sa - 0x80) 0)
    onU (overCells h.rows h.cols u fun w r l => w.setEl i.dst r l (narrow h.ty (p.word (firstRow u i + r) l)))
  else if i.op = tTST then
    let hs := u.sh i.sa
    overCells hs.rows hs.cols v fun v r l =>
      poolStore v (i.dst - 0x80) (128 * (firstRow u i + r) + l) (widen hs.ty (u.el i.sa r l))
  else if i.op = tASTR then
    let hs := u.sh i.sa
    let slot := i.dst - 0x80
    let ty := tget u.slotTy slot 0
    let q := match u.accMod.find? fun m => m.1 == i.sa - 16 with
      | some (_, sel, _) => tileModuli s u sel
      | none => (1, 1)
    overCells hs.rows hs.cols v fun v r l =>
      poolStore v slot (128 * (firstRow u i + r) + l)
        (let y := accRead s u i.sa r l
         if ty = tyU32P then y else canonOut ty q.1 y)
  else if isTmac i.op then
    let q := tileModuli s u i.msel
    let ta := (u.sh i.sa).ty
    let tb := (u.sh i.sb).ty
    let add (w : TileUnit) (r l : Nat) (x y : Nat) : TileUnit :=
      w.setAcc i.dst r l (accumulate i.pm ta tb q (f + 2 * (128 * r + l)) (w.accEl i.dst r l) x y)
    let u' :=
      if i.op = tTMACE then overCells h.rows h.cols u fun w r l => add w r l (u.el i.sa r l) (u.el i.sb r l)
      else if i.op = tTMACR then overCells h.rows h.cols u fun w r l => add w r l (u.el i.sa r l) (u.el i.sb i.brow l)
      else (List.range (u.sh i.sa).rows).foldl (fun w r => (List.range (u.sh i.sa).cols).foldl (fun w k =>
        (List.range h.cols).foldl (fun w l => add w r l (u.el i.sa r k) (u.el i.sb k l)) w) w) u
    onU { u' with accMod := tput u'.accMod (i.dst - 16) (i.msel, i.pm) }
  else if i.op = tTMULE then
    let q := tileModuli s u i.msel
    let ta := (u.sh i.sa).ty
    let tb := (u.sh i.sb).ty
    onU (overCells h.rows h.cols u fun w r l =>
      let x := u.el i.sa r l
      let y := u.el i.sb r l
      let z := if i.pm then residueOp tyU32P q.1 q.2 [(tyU32P, x), (tyU32P, y)] fun _ m o => o.foldl (fun a b => a * b % m) 1
        else do
          let a ← canonIn ta q.1 x
          let b ← canonIn tb q.1 y
          return canonOut h.ty q.1 (a * b % q.1)
      w.setEl i.dst r l (z.getD (Config.freeWord (f + 128 * r + l)).toNat))
  else v

end Sys2Proof.Machine
end

