-- ==== Sys2Proof/Machine/Char.lean ====
section
/-! DEFINITION. The Char engine (09): the effect of each Char instruction on one lane, and on the destination's lanes. -/

namespace Sys2Proof.Machine

/-- Source type of an instruction. -/
def TI.srcTy (i : TI) : Nat := if i.op = 0xA9 then i.sty else if i.op = 0xAA then tyU64 else i.sty
/-- Destination type of an instruction. -/
def TI.dstTy (i : TI) : Nat :=
  if i.op = 0xA9 then (if i.pm then tyU32P else tyU64) else if i.op = 0xAA then i.sty else i.dty

/-- What a lane operation works with: types, moduli, the instruction, the random value and a free word. -/
structure LaneEnv where
  i : TI
  q : Nat × Nat
  /-- TPARAM of SA, of SB and of the destination. -/
  stp : Nat
  btp : Nat
  dtp : Nat
  R : Nat
  deriving Repr

/-- Exact integer of raw bits of an integer or fixed-point type. -/
def rawInt (ty raw : Nat) : Int := if isUnsignedInt ty then (raw % 2 ^ tyBits ty : Nat) else signed raw (tyBits ty)

/-- The value by which VCMP compares a lane (R203). -/
def cmpVal (ty tp q raw : Nat) : Option Val :=
  if ty = tyS64 then (canonIn ty q raw).map (centred q)
  else if isResidue ty then (canonIn ty q raw).map fun r => .fin false r 1
  else some (elemVal ty tp raw)

/-- A modular operation on two lanes (Table 09-4, R144). -/
def modLane (e : LaneEnv) (a b : Nat) (g : Nat → Nat → Nat → Nat) : Option Nat :=
  let ty := e.i.sty
  if ty = tyU32P then
    residueOp tyU32P e.q.1 e.q.2 [(ty, a), (ty, b)] fun _ m o => g m (o.getD 0 0) (o.getD 1 0)
  else do
    let x ← canonIn ty e.q.1 a
    let y ← canonIn ty e.q.1 b
    return canonOut e.i.dty e.q.1 (g e.q.1 x y)

/-- The larger or smaller of two values; −0 orders below +0, a NaN yields the other operand (R203). -/
def minMax (ty : Nat) (mx : Bool) (a b : Nat) : Nat :=
  if isFloat ty then
    let x := floatVal (fmtOf ty) a
    let y := floatVal (fmtOf ty) b
    if x.isNan && y.isNan then nanCode (fmtOf ty) false else if x.isNan then b else if y.isNan then a
    else if x.lt true y then (if mx then b else a) else (if mx then a else b)
  else if rawInt ty a < rawInt ty b then (if mx then b else a) else (if mx then a else b)

/-- The effect of a Char instruction on one lane: operands a, b and the destination's word d, all as raw bits of their
types (d as a lane word for VSEL).  None: an undefined result (R144). VADD, VSUB, VMIN and VMAX of fixed-point operands work on the raw
integers, also where the TPARAMs of two tiles differ, for which R203 names no status (DESIGN CHOICE, log 94). -/
def charLane (e : LaneEnv) (a b d : Nat) : Option Nat :=
  let op := e.i.op
  let ty := e.i.sty
  let w := tyBits ty
  if op = 0x80 then modLane e a b fun m x y => (x + y) % m
  else if op = 0x81 then modLane e a b fun m x y => (x + m - y) % m
  else if op = 0x82 then modLane e a b fun m x y => x * y % m
  else if op = 0x83 then modLane e a a fun m x _ => (m - x) % m
  else if op = 0x88 then some (rangeInt ty e.i.sat (rawInt ty a + rawInt ty b))
  else if op = 0x89 then some (rangeInt ty e.i.sat (rawInt ty a - rawInt ty b))
  else if op = 0x8A then some (rangeInt ty e.i.sat (rawInt ty a * rawInt ty b))
  else if op = 0x8B then some (minMax ty false a b)
  else if op = 0x8C then some (minMax ty true a b)
  else if op = 0x8D then some (a &&& b)
  else if op = 0x8E then some (a ||| b)
  else if op = 0x8F then some (a ^^^ b)
  else if op = 0x90 then some (arith ty e.i.rnd ((elemVal ty 0 a).add e.i.rnd (elemVal ty 0 b)))
  else if op = 0x91 then some (arith ty e.i.rnd ((elemVal ty 0 a).add e.i.rnd (elemVal ty 0 b).neg))
  else if op = 0x92 then some (arith ty e.i.rnd ((elemVal ty 0 a).prod (elemVal ty 0 b)))
  else if op = 0x93 then some (arith ty e.i.rnd (((elemVal ty 0 a).prod (elemVal ty 0 b)).add e.i.rnd (elemVal ty 0 d)))
  else if op = 0x98 then do
    let x ← cmpVal ty e.stp e.q.1 a
    let y ← cmpVal ty e.btp e.q.1 b
    return (compareVal e.i.cond x y).toNat
  else if op = 0x99 then some (if d = 0 then b else a)
  else if op = 0x9B then some a
  else if op = 0xA0 then some (a * 2 ^ bits e.i.md 26 6 % 2 ^ w)
  else if op = 0xA1 then some (a / 2 ^ bits e.i.md 26 6)
  else if op = 0xA2 then some (wrapNat (signed a w / (2 ^ bits e.i.md 26 6 : Nat)) w)
  else if op = 0xA8 then
    convertElem ⟨ty, e.stp, e.q.1, e.q.2⟩ ⟨e.i.dty, e.dtp, e.q.1, e.q.2⟩ (1, 1) e.i.rnd e.i.sat e.R a
  else if op = 0xA9 then
    convertElem ⟨ty, e.stp, 0, 0⟩ ⟨e.i.dstTy, 0, e.q.1, e.q.2⟩ (scaleOf e.i.scScale) e.i.scRnd false e.R a
  else if op = 0xAA then
    convertElem ⟨tyU64, 0, e.q.1, e.q.2⟩ ⟨e.i.sty, 0, 0, 0⟩ (scaleOf e.i.scScale) e.i.scRnd false e.R a
  else some a

/-- Whether MSEL of an instruction selects a modulus: a residue type is read or written (R201). -/
def usesModulus (i : TI) : Bool := isResidue i.srcTy || isResidue i.dstTy

/-- The raw source bits of type ty in lane l of row r of an operand byte: a tile's lanes at or above COLS read 0 into a
Char register (R198). -/
def charOperand (u : TileUnit) (ty b r l : Nat) : Nat :=
  if isTile b then (if l < (u.sh b).cols then u.el b r l else 0) else u.vtLane b l % 2 ^ tyBits ty

/-- TPARAM of an operand byte: a tile's; a Char register carries none, and the value is free (log 12). -/
def charTp (u : TileUnit) (ty f b : Nat) : Nat :=
  if isTile b then (u.sh b).tp else if isFixed ty then Config.freeNat f % tyBits ty else 0

/-- The result of a Char instruction in row-op r, lane l. VACC into a Char register reads the lanes of an accumulator from its COLS on as 0
before it adds SB (R198 says so of tile sources alone); it reduces by the modulus of the accumulator's TMACs, and adds and converts by its
own MSEL, also where a loop brings it after TMACs of another one (R205; DESIGN CHOICE, log 99). -/
def charCell (s : State) (n f : Nat) (u : TileUnit) (i : TI) (r l : Nat) : Nat :=
  let row := if isTile i.dst then r else i.charRow
  let q := if usesModulus i || i.op == 0x84 then tileModuli s u i.msel else (0, 0)
  let free := (Config.freeWord (f + 1 + 128 * r + l)).toNat
  if i.op = 0x9A then
    -- VSPL (R204)
    let src := if i.cond = 0 then 16 * (i.trow % 8) + l % 16 else 16 * (l / 16) + i.trow % 16
    u.vtLane i.sa src % 2 ^ tyBits i.sty
  else if i.op = 0x84 then
    -- VACC (R205)
    let y := if l < (u.sh i.sa).cols then accRead s u i.sa row l else 0
    let y : Option Nat :=
      if i.dty = tyU32P then
        if i.sb = 0xFF then some y
        else residueOp tyU32P q.1 q.2 [(tyU32P, y), (tyU32P, charOperand u i.sty i.sb row l)] fun _ m o => sumOf o % m
      else
        if i.sb = 0xFF then some (canonOut i.dty q.1 y)
        else (canonIn i.sty q.1 (charOperand u i.sty i.sb row l)).map fun b => canonOut i.dty q.1 ((y + b) % q.1)
    y.getD free
  else
    let tp := charTp u i.srcTy f i.sa
    let dtp := charTp u i.dstTy f i.dst
    let e : LaneEnv := { i := i, q := q, stp := tp, btp := charTp u i.sty f i.sb, dtp := dtp
                         R := stochR u.seed.toNat (((n * 2 ^ 20 + u.ord) * 128 + r) * 128 + l) }
    let d := if isTile i.dst then u.el i.dst row l else u.vtLane i.dst l
    let d := if i.op = 0x93 then d % 2 ^ tyBits i.sty else d
    (charLane e (charOperand u i.srcTy i.sa row l) (charOperand u i.sty i.sb row l) d).getD free

/-- The data effect of a Char instruction on slice n's tile unit. -/
def charData (s : State) (n f : Nat) (u : TileUnit) (i : TI) : TileUnit :=
  let ty := i.dstTy
  if isTile i.dst then
    let h := u.sh i.dst
    overCells h.rows h.cols u fun w r l => w.setEl i.dst r l (narrow ty (charCell s n f u i r l))
  else
    overCells 1 128 u fun w r l => w.setVt i.dst l (widen ty (charCell s n f u i r l))

/-- One instruction on a slice: its data effect, its timing, the ordinal and the index of the next (R187, R208). -/
def tileStep (s : State) (n f : Nat) (v : Slice) (i : TI) : Slice :=
  let w := if 0x80 ≤ i.op then { v with tu := charData s n f v.tu i } else tileData s f v i
  let t := tileIssue v.tu i
  -- the issue's bookkeeping of copies, then the invalidation of a TCFG
  let gone (k : Nat) : Bool := i.op == tTCFG && (changedRegs v.tu (v.tu.tables.getD (bits i.md 0 4) [])).contains (k / 4)
  let keep (l : List (Nat × Nat)) := l.filter fun e => !gone e.1
  { w with tu := { w.tu with
      cache := keep t.cache, latA := keep t.latA, latB := keep t.latB, cyc := t.cyc, retire := t.retire, used := t.used
      tmac := t.tmac, ord := v.tu.ord + 1, pc := v.tu.pc + 1 } }

/-- LOOP: opens a loop whose body begins at the next instruction (R184). -/
def loopStart (u : TileUnit) (i : TI) : TileUnit := { u with loops := (u.pc, 0, i.count) :: u.loops, pc := u.pc + 1 }

/-- ENDL: the innermost loop's next iteration, or its end (R184). -/
def loopEnd (u : TileUnit) : TileUnit :=
  match u.loops with
  | [] => { u with pc := u.pc + 1 }
  | (p, k, c) :: rest => if k < c then { u with loops := (p, k + 1, c) :: rest, pc := p + 1 } else { u with loops := rest, pc := u.pc + 1 }

/-- Runs the program of a slice from its pc to its end, at most `fuel` instructions. -/
def runProgram (s : State) (n f : Nat) (v : Slice) : Nat → Slice
  | 0 => v
  | k + 1 =>
    match v.tu.prog[v.tu.pc]? with
    | none => v
    | some w =>
      let i := tiOf w
      let v' := if i.op = tLOOP then { v with tu := loopStart v.tu i }
        else if i.op = tENDL then { v with tu := loopEnd v.tu }
        else tileStep s n (f + v.tu.ord * tileFree) v i
      runProgram s n f v' k

/-- Steps that suffice for any admitted program: 2^20 executed instructions, each with at most three loop ends and
starts besides (R193). -/
def programFuel : Nat := 8 * 2 ^ 20

end Sys2Proof.Machine
end

