-- ==== Sys2Proof/Machine/Walk.lean ====
section
/-! DEFINITION. The shape walk of a tile program (R193, Table 08-9; R212, Table 09-8) and its length P (R189). -/

namespace Sys2Proof.Machine

/-! ### The image (Table 08-3) -/

def piLen (b : List Byte) : Nat := bits (field b 0 2) 0 10 + 1
def piNshape (b : List Byte) : Nat := byteAt b 3
def piChain (b : List Byte) : Option Nat := if byteAt b 5 = 0xFF then none else some (byteAt b 5)
def piSlices (b : List Byte) : List Nat := onesOf 24 (field b 8 3)
def piMb (b : List Byte) (s : Nat) : Nat := bits (byteAt b (16 + s)) 0 6
def piBytes (b : List Byte) : Nat := 64 + 192 * piNshape b + 8 * piLen b
def piTable (b : List Byte) (k : Nat) : List Byte := (b.drop (64 + 192 * k)).take 192
def piInstr (b : List Byte) (i : Nat) : W64 := BitVec.ofNat 64 (field b (64 + 192 * piNshape b + 8 * i) 8)
def piProg (b : List Byte) : List W64 := (List.range (piLen b)).map (piInstr b)
def piTables (b : List Byte) : List (List Byte) := (List.range (piNshape b)).map (piTable b)

/-- Header checks of Table 08-9 but for the location and the operands' slices. -/
def piHeaderOk (b : List Byte) (nslices : Nat) : Bool :=
  bits (field b 0 2) 10 6 == 0 && bits (byteAt b 2) 4 4 == 0 && bits (byteAt b 4) 1 7 == 0 && zeroAt b 6 2 && zeroAt b 11 5 &&
    zeroAt b 40 24 && ((List.range 24).all fun s => bits (byteAt b (16 + s)) 6 2 == 0) && decide (piNshape b ≤ 16) &&
    !(piSlices b).isEmpty && ((piSlices b).all fun s => decide (s < nslices)) &&
    (List.range 24).all fun s => (piSlices b).contains s || piMb b s == 0

/-! ### Instruction rules -/

/-- The operand form of a field: which bytes it accepts. -/
inductive OpForm where
  | none_
  | tile
  | acc
  | src
  | dst
  | char
  /-- A tile or a Char register. -/
  | tc
  /-- No operand, a tile or a Char register. -/
  | ntc
  deriving DecidableEq, Repr

def OpForm.ok (f : OpForm) (b : Nat) : Bool :=
  match f with
  | .none_ => b == 0xFF
  | .tile => isTile b
  | .acc => isAcc b
  | .src => isSrcSlot b
  | .dst => isDstSlot b
  | .char => isChar b
  | .tc => isTile b || isChar b
  | .ntc => b == 0xFF || isTile b || isChar b

/-- Operand forms of DST, SA, SB and the MOD bits that the instruction defines (Table 08-5, 08-6, 09-4, R200); none for
an unassigned OP. -/
def instrForm (op : Nat) : Option (OpForm × OpForm × OpForm × Nat) :=
  let n := OpForm.none_
  let addr := 0xFFFFFFFE
  let char (msel rnd sat cond pm : Nat) : Nat :=
    msel * 0xFC000000 + pm * 0x02000000 + rnd * 0x01C00000 + sat * 0x00200000 + cond * 0x001C0000 + 0x0003FFFF
  if op = 0x00 then some (n, n, n, 0) else if op = 0x01 then some (n, n, n, 0xF) else if op = 0x02 then some (.tile, n, n, 0)
  else if op = 0x03 then some (.acc, n, n, 0) else if op = 0x04 then some (.tile, .tile, n, 0)
  else if op = 0x08 then some (.tile, .src, n, addr) else if op = 0x09 then some (.dst, .tile, n, addr)
  else if op = 0x0A then some (.dst, .acc, n, addr) else if op = 0x10 then some (n, n, n, 0xFFF)
  else if op = 0x11 then some (n, n, n, 0)
  else if op = 0x40 ∨ op = 0x41 then some (.acc, .tile, .tile, 0xFE000000)
  else if op = 0x42 then some (.acc, .tile, .tile, 0xFE3F0000)
  else if op = 0x48 then some (.tile, .tile, .tile, 0xFE000000)
  else if op = 0x80 ∨ op = 0x81 ∨ op = 0x82 then some (.tc, .tc, .tc, char 1 0 0 0 1)
  else if op = 0x83 then some (.tc, .tc, n, char 1 0 0 0 1)
  else if op = 0x84 then some (.tc, .acc, .ntc, char 1 0 0 0 1)
  else if op = 0x88 ∨ op = 0x89 ∨ op = 0x8A then some (.tc, .tc, .tc, char 0 0 1 0 0)
  else if 0x8B ≤ op ∧ op ≤ 0x8F then some (.tc, .tc, .tc, char 0 0 0 0 0)
  else if 0x90 ≤ op ∧ op ≤ 0x93 then some (.tc, .tc, .tc, char 0 1 0 0 0)
  else if op = 0x98 then some (.tc, .tc, .tc, char 1 0 0 1 0)
  else if op = 0x99 then some (.tc, .tc, .tc, char 1 0 0 0 1)
  else if op = 0x9A then some (.char, .char, n, char 1 0 0 1 1)
  else if op = 0x9B then some (.tc, .tc, n, char 1 0 0 0 1)
  else if op = 0xA0 ∨ op = 0xA1 ∨ op = 0xA2 then some (.tc, .tc, n, char 1 0 0 0 0)
  else if op = 0xA8 then some (.tc, .tc, n, char 1 1 1 0 0)
  else if op = 0xA9 then some (.tc, .tc, n, 0xFFFFFFFF)
  else if op = 0xAA then some (.tc, .tc, n, 0xFDFFFFFF)
  else none

/-- Bits of `w` outside `mask`. -/
def outside (w mask : Nat) : Bool := w &&& mask != w

/-- What the walk knows of an operand slot: type, TPARAM, and its rows in each slice. -/
structure WSlot where
  slot : Nat
  ty : Nat
  tp : Nat
  rows : List Nat
  deriving DecidableEq, Repr

/-- The first failing check of a list. -/
def firstFail : List (Bool × W16) → Option W16
  | [] => none
  | (ok, st) :: cs => if ok then firstFail cs else some st

/-- The chain of a program and the modulus base of each of its slices (R181). -/
abbrev ProgMods := Option (Nat × List Nat)

def piMods (b : List Byte) : ProgMods := (piChain b).map fun c => (c, (piSlices b).map (piMb b))

/-- The chain checks of an instruction that uses moduli (R181): for each slice the indices, and the widths of those in the chain. -/
def modulusChecks (s : State) (mods : ProgMods) (i : TI) (charOrder : Bool) : List (Bool × W16) :=
  match mods with
  | none => [(false, stBadModulus)]
  | some (c, bases) =>
    let idx := bases.flatMap fun mb => if i.pm then [mb + i.msel, mb + i.msel + 1] else [mb + i.msel]
    let inChain := (idx.all fun k => decide (k < (s.chain c).count), stChainMismatch)
    let narrow := (!i.pm || idx.all fun k => decide ((s.chain c).count ≤ k) || decide (bitLen (s.modulus c k) < 30), stBadModulus)
    if charOrder then [narrow, inChain] else [inChain, narrow]

/-- The checks of a Char instruction (Table 09-8). -/
def charChecks (s : State) (mods : ProgMods) (u : TileUnit) (i : TI) : List (Bool × W16) :=
  let op := i.op
  let tile := isTile i.dst
  let srcs := [i.sa, i.sb].filter fun b => isTile b || isAcc b
  let iuq (t : Nat) : Bool := isSignedInt t || isUnsignedInt t || isFixed t
  let iu (t : Nat) : Bool := isSignedInt t || isUnsignedInt t
  let known (t : Nat) : Bool := tyBits t != 0
  let fp (t : Nat) : Bool := t == 0x20 || t == 0x21
  let S := i.srcTy
  let D := i.dstTy
  let resPm (t : Nat) : Bool := isResidue t && (t == tyU32P) == i.pm
  let scaleOp := isScaleOp op
  let sel := i.trow
  let rndOk := if scaleOp then decide (i.scRnd ≤ 4) else if 0x90 ≤ op ∧ op ≤ 0x93 then decide (i.rnd ≤ 3) else decide (i.rnd ≤ 4)
  let mselOk := usesModulus i || op == 0x84 || (0xA0 ≤ op && op ≤ 0xA2) || i.msel == 0
  let trowOk := scaleOp || op == 0x9A || (if tile ∨ srcs.isEmpty then sel == 0 else true)
  let shapes := if op = 0x9A then true
    else if tile then srcs.all fun b => (u.sh b).rows == (u.sh i.dst).rows && (u.sh b).cols == (u.sh i.dst).cols
    else srcs.all fun b => decide (i.charRow < (u.sh b).rows)
  let types : Bool :=
    if op ≤ 0x83 then resPm S && resPm D
    else if op = 0x84 then
      resPm D && (u.sh i.sa).ty == (if i.pm then tyU32P else tyU64) && (i.sb == 0xFF || resPm i.sty)
    else if op = 0x8A then iu S && D == S
    else if op = 0x8B ∨ op = 0x8C then (iuq S || fp S) && D == S
    else if op ≤ 0x8F ∨ (0xA0 ≤ op ∧ op ≤ 0xA2) then iuq S && D == S
    else if op ≤ 0x93 then fp S && D == S
    else if op = 0x98 then known S && S != tyU32P && iu D
    else if op ≤ 0x9B then known S && D == S && (S == tyU32P) == i.pm
    else if op = 0xA8 then known S && known D && pairOk false S D
    else if op = 0xA9 then known i.sty && !isResidue i.sty
    else fp i.sty
  let carries (b t : Nat) : Bool := !isTile b || (u.sh b).ty == t
  [(rndOk && (op != 0x98 || decide (i.cond ≤ 5)) &&
      (op != 0x9A || (if i.cond = 0 then sel < 8 else i.cond == 1 && sel < 16)) && mselOk && trowOk &&
      (op != 0x84 || i.sb != 0xFF || i.sty == 0), stShapeFault),
   (shapes, stShapeFault),
   (types && carries i.sa S && carries i.sb i.sty && carries i.dst D, stBadType),
   (op != 0x84 || match u.accMod.find? fun m => m.1 == i.sa - 16 with
      | some (_, m) => m == (i.msel, i.pm)
      | none => true, stShapeFault)] ++
    (if usesModulus i then modulusChecks s mods i true else [])

/-- Rows of loop iterations that enclose an instruction at its last iteration: the last first row (R183). -/
def lastRow (i : TI) (encl : List (Nat × Nat)) : Nat := i.base + sumOf (List.zipWith (fun st (l : Nat × Nat) => st * l.2) i.steps encl)

/-- The checks of one instruction, in the order of Table 08-9, up to the executed instructions. `encl` holds the open loops (index,
COUNT), innermost first; `next` is the following instruction. An instruction that names an operand slot which the descriptor leaves empty
is refused with SHAPE_FAULT in the row of the operand bytes: no row of the table names that case (DESIGN CHOICE, log 99). -/
def commonChecks (s : State) (mods : ProgMods) (slots : List WSlot) (u : TileUnit) (encl : List (Nat × Nat)) (next : Option TI)
    (i : TI) : List (Bool × W16) :=
  match instrForm i.op with
  | none => [(false, stBadOpcode)]
  | some (fd, fa, fb, mask) =>
    let slotB := if i.op = tTLD then some (i.sa - 0x80) else if i.op = tTST ∨ i.op = tASTR then some (i.dst - 0x80) else none
    let slot := slotB.bind fun j => slots.find? fun w => w.slot == j
    let regs := [i.dst, i.sa, i.sb].filter fun b => isTile b || isAcc b
    let D := u.sh i.dst
    let A := u.sh i.sa
    let B := u.sh i.sb
    let same (x y : Shape) : Bool := x.rows == y.rows && x.cols == y.cols
    let res (t : Nat) : Bool := if i.pm then t == tyU32P else t == tyU64 || t == tyU64M || t == tyS64
    let accTy (t : Nat) : Bool := t == if i.pm then tyU32P else tyU64
    let retort := isTmac i.op || i.op == tTMULE
    let table := u.tables.getD (bits i.md 0 4) []
    [ (fd.ok i.dst && fa.ok i.sa && fb.ok i.sb && !outside i.md mask && (i.op != tTCFG || decide (bits i.md 0 4 < u.tables.length)) &&
        (slotB.isNone || slot.isSome), stShapeFault),
      ((regs.all fun b => !u.empty b) &&
        (if i.op = tTMOV then same D A
         else if i.op = tTMACE ∨ i.op = tTMULE then same D A && same D B
         else if i.op = tTMACR then same D A && D.cols == B.cols && decide (i.brow < B.rows)
         else if i.op = tTMACB then D.rows == A.rows && D.cols == B.cols && A.cols == B.rows
         else true), stShapeFault),
      (i.op != tTCFG || (tableOk table && encl.isEmpty), stShapeFault),
      (if i.op = tTMOV then D.ty == A.ty && D.tp == A.tp
        else if i.op = tTLD then (match slot with | some w => w.ty == D.ty && w.tp == D.tp | none => true)
        else if i.op = tTST then (match slot with | some w => w.ty == A.ty && w.tp == A.tp | none => true)
        else if i.op = tASTR then (match slot with
          | some w => if A.ty = tyU32P then w.ty == tyU32P else w.ty == tyU64 || w.ty == tyU64M || w.ty == tyS64
          | none => true)
        else if isTmac i.op then res A.ty && res B.ty && accTy D.ty
        else if i.op = tTMULE then res A.ty && res B.ty && res D.ty
        else true, stBadType),
      (!isTmac i.op || (match u.accMod.find? fun m => m.1 == i.dst - 16 with
        | some (_, m) => m == (i.msel, i.pm)
        | none => true), stShapeFault) ] ++
    (if retort then modulusChecks s mods i false else []) ++
    [ (match slot with
        | none => true
        | some w =>
          let rows := if i.op = tTLD then D.rows else A.rows
          (w.rows.all fun r => decide (lastRow i encl + rows ≤ r)) &&
            ((i.steps.drop encl.length).all fun st => st == 0), stShapeFault),
      (if i.op = tENDL then !encl.isEmpty
        else if i.op = tLOOP then decide (encl.length < 3) && (match next with | some j => j.op != tENDL | none => true)
        else true, stShapeFault) ]

/-- The checks that a Char instruction adds (Table 08-9, last row). -/
def ownChecks (s : State) (mods : ProgMods) (u : TileUnit) (i : TI) : List (Bool × W16) :=
  if 0x80 ≤ i.op ∧ (instrForm i.op).isSome then charChecks s mods u i else []

/-- All the static checks of one instruction (Table 08-9, Table 09-8). -/
def instrChecks (s : State) (mods : ProgMods) (slots : List WSlot) (u : TileUnit) (encl : List (Nat × Nat)) (next : Option TI)
    (i : TI) : List (Bool × W16) :=
  commonChecks s mods slots u encl next i ++ ownChecks s mods u i

/-- Executed instructions of a run of instructions under a multiplier for each open loop, until the loop depth returns
to 0: the expansion of an outermost loop. -/
def expansion : List TI → List Nat → Nat → Nat
  | [], _, acc => acc
  | i :: is, ms, acc =>
    if i.op = tLOOP then expansion is ((ms.headD 1 * (i.count + 1)) :: ms) acc
    else if i.op = tENDL then (match ms with
      | _ :: m :: ms => expansion is (m :: ms) acc
      | _ => acc)
    else expansion is ms (acc + ms.headD 1)

/-- What an instruction that passes changes for the walk: shapes and the modulus of each accumulator (R186). -/
def walkStep (u : TileUnit) (i : TI) : TileUnit :=
  if i.op = tTCFG then tcfg u (u.tables.getD (bits i.md 0 4) [])
  else if i.op = tAZERO then { u with accMod := u.accMod.filter fun e => e.1 != i.dst - 16 }
  else if isTmac i.op then { u with accMod := tput u.accMod (i.dst - 16) (i.msel, i.pm) }
  else u

/-- The most instructions that a tile program may execute (Table 08-9). -/
def execLimit : Nat := 1048576

/-- The walk from instruction k on: status and DETAIL of the first failing check (R193). `done` counts the instructions
executed before an outermost position. An instruction outside every LOOP that crosses the limit carries its own index
(DESIGN CHOICE, log 61: Table 08-9 names only an outermost LOOP), and a loop that is still open carries the index of the last
instruction (DESIGN CHOICE, log 61: the table names none). -/
def walk (s : State) (img : List Byte) (slots : List WSlot) : List TI → Nat → Nat → TileUnit → List (Nat × Nat) → Option (W16 × Nat)
  | [], k, _, _, encl => if encl.isEmpty then none else some (stShapeFault, k - 1)
  | i :: is, k, done, u, encl =>
    let ex := if !encl.isEmpty || i.op == tENDL then 0 else if i.op = tLOOP then expansion is [i.count + 1] 0 else 1
    match firstFail (commonChecks s (piMods img) slots u encl is.head? i ++ (decide (done + ex ≤ execLimit), stShapeFault) ::
        ownChecks s (piMods img) u i) with
    | some st => some (st, k)
    | none =>
      let open' := if i.op = tLOOP then (k, i.count) :: encl else if i.op = tENDL then encl.drop 1 else encl
      walk s img slots is (k + 1) (done + ex) (walkStep u i) open'

/-- A tile unit with the program and tables of an image installed for slice n (R177, R179, R181). -/
def loadUnit (img : List Byte) (seed : W64) (n : Nat) : TileUnit :=
  { tables := piTables img, prog := piProg img, chain := piChain img, mbase := piMb img n, wide := bit (byteAt img 4) 0, seed := seed }

/-- Executes the issue rules alone along the executed sequence (R189). -/
def issueProgram (u : TileUnit) : Nat → TileUnit
  | 0 => u
  | k + 1 =>
    match u.prog[u.pc]? with
    | none => u
    | some w =>
      let i := tiOf w
      issueProgram (if i.op = tLOOP then loopStart u i
        else if i.op = tENDL then loopEnd u
        else
          let v := tileIssue u i
          let v := if i.op = tTCFG then tcfg v (v.tables.getD (bits i.md 0 4) []) else v
          { v with pc := u.pc + 1 }) k

/-- P of an image (R189). -/
def programLength (img : List Byte) : Nat := (issueProgram (loadUnit img 0 0) programFuel).length

end Sys2Proof.Machine
end

