-- ==== Sys2Proof/Machine/Effects.lean ====
section
/-! DEFINITION. The effects of CONVERT (R213), FLOOD (R237) and TILEPROG (R178, R180), and the effect of any opcode. -/

namespace Sys2Proof.Machine

/-! ### CONVERT -/

/-- The type of an element of an operand with the moduli of its index: by the source card, limb by limb (R214), or by
the modulus binding (R213). -/
def convertTy (s : State) (d : Slot) (o : OpSnap) (idx : List Nat) : ElTy :=
  let c := o.card
  let q := if !isResidue c.ty then (0, 0) else match d.scard with
    | some cc => s.limbModuli cc (idx.getD 1 0)
    | none => s.bound (binding d.bytes) ((d.opD 4).card.ty) idx
  { ty := c.ty, tp := c.tparam, q0 := q.1, q1 := q.2 }

/-- CONVERT (R213). A SCALE of 0 gives S = 1 (Table 09-9). -/
def convertEffect (s : State) (r : RingId) (d : Slot) : Effect :=
  let a := d.opD 0
  let b := d.opD 4
  let src := s.source r a
  let sigma := field d.bytes 86 2
  let sc := if sigma = 0 then (1, 1) else scaleOf sigma
  let ctl := byteAt d.bytes 84
  effect4 ((List.range b.card.count).map fun k =>
    let idx := unflatten b.card.dims k
    (k, convertElem (convertTy s d a idx) (convertTy s d b idx) sc (bits ctl 0 3) (bit ctl 3)
      (stochR (field d.bytes 88 8) k) (src k)))

/-! ### FLOOD -/

/-- The noise e of polynomial p at position j for key k and width w (R238). -/
def floodNoise (k : BitVec 256) (w p j : Nat) : Int :=
  let blk := ts128 (natLe k.toNat 32 ++ natLe p 1 ++ natLe (j / 10) 4) 0x46
  let v := field blk (16 * (j % 10)) 16
  let m : Int := (v % 2 ^ w : Nat)
  if v.testBit 127 then -m else m

/-- The slice that works on the limb with row-major position k of an operand: that of its coefficient 0 (R239, R40). -/
def State.limbSlice (s : State) (o : OpSnap) (k : Nat) : Nat :=
  let n := (o.turfs.getD (o.card.byteOf (o.card.offsetAt k) / o.card.turfBytes) default).owner
  (s.server n).getD n

/-- The noise that slice n evaluates from its two shares, as the two arithmetic shares a1 and a2 of its residue modulo q: a1
is the free value f, and a1 + a2 ≡ e (R239). -/
def State.noiseShares (s : State) (n w p j q f : Nat) : Nat × Nat :=
  let v := tget s.slices n {}
  let e := (floodNoise (v.share1 ^^^ v.share2) w p j % (q : Int)).toNat
  let a1 := (Config.freeDraw f).toNat % q
  (a1, (e + q - a1) % q)

/-- FLOOD (R237): the slice of each limb adds a1 and then a2 in its modular adder (R239). -/
def floodEffect (s : State) (r : RingId) (d : Slot) : Effect :=
  let src := s.source r (d.opD 0)
  let tin := (d.opD 0).card.ty
  let tout := (d.opD 4).card.ty
  let w := bits (byteAt d.bytes 84) 0 7
  let pmask := bits (byteAt d.bytes 85) 0 3
  match d.scard with
  | some cc =>
    let N := cc.degree
    let L := cc.limbs
    effect4 ((List.range (d.opD 4).card.count).map fun k =>
      let p := k / (L * N)
      let q := s.modulus cc.chain (k / N % L)
      if pmask.testBit p then
        let a := s.noiseShares (s.limbSlice (d.opD 0) (k / N * N)) w p (k % N) q (s.clk.free + k)
        (k, (canonIn tin q (src k)).map fun x => canonOut tout q (((x + a.1) % q + a.2) % q))
      else (k, if tin = tout then some (src k) else (canonIn tin q (src k)).map (canonOut tout q)))
  | none => effect4 []

/-! ### TILEPROG -/

/-- The valid operand slots of a descriptor with a pool for each (R180). -/
def tileSlots (d : Slot) : List (OpSnap × Nat) := d.ops.zipIdx

/-- Slice n as the program finds it: the source blocks in the slots' pools, widened (R180). -/
def tileStart (s : State) (r : RingId) (d : Slot) (n : Nat) : Slice :=
  let u := loadUnit d.image (BitVec.ofNat 64 (field d.bytes 96 8)) n
  let slots := tileSlots d
  let u := slots.foldl (fun (u : TileUnit) (e : OpSnap × Nat) =>
    { u with
      slotPool := tput u.slotPool e.1.slot e.2
      slotLen := tput u.slotLen e.1.slot (e.1.block n).length
      slotTy := tput u.slotTy e.1.slot e.1.card.ty
      slotTp := tput u.slotTp e.1.slot e.1.card.tparam }) u
  slots.foldl (fun (v : Slice) (e : OpSnap × Nat) =>
    if 4 ≤ e.1.slot then v
    else
      let src := s.source r e.1
      v.updPool e.2 fun p =>
        p.write (((e.1.block n).zipIdx).map fun x => (x.2 / 128, x.2 % 128, widen e.1.card.ty (src x.1)))) { tu := u }

/-- The free values that a tile program of any slice may use. -/
def tileProgFree : Nat := 2 ^ 46

/-- TILEPROG (R178, R180): every slice of SLICES runs the image, and the written positions drain. -/
def tileprogEffect (s : State) (r : RingId) (d : Slot) : Effect :=
  let ends := (piSlices d.image).map fun n => (n, runProgram s n (s.clk.free + n * 2 ^ 40) (tileStart s r d n) programFuel)
  { vals := ((tileSlots d).filter fun e => decide (4 ≤ e.1.slot)).map fun e =>
      (e.1.slot, ends.flatMap fun nv =>
        ((e.1.block nv.1).zipIdx).filterMap fun x =>
          if tget nv.2.tu.written (131072 * e.1.slot + x.2) false then
            some (x.1, some (narrow e.1.card.ty ((nv.2.pool e.2).word (x.2 / 128) (x.2 % 128))))
          else none) }

/-- The effect of a descriptor's opcode on its destinations. FENCE and SIGNAL write no tensor (R262). -/
def effectOf (op : Op) (s : State) (r : RingId) (d : Slot) : Effect :=
  match op with
  | .copy => copyEffect s r d
  | .fill => fillEffect s d
  | .transpose => transposeEffect s r d
  | .bitrev => bitrevEffect s r d
  | .automorph => automorphEffect s r d
  | .negrot => negrotEffect s r d
  | .pattern => patternEffect s r d
  | .gather => gatherEffect s r d
  | .scatter => scatterEffect s r d
  | .window => windowEffect s r d
  | .relayout => relayoutEffect s r d
  | .baseconv => baseconvEffect s r d
  | .rescale => rescaleEffect s r d
  | .ksip => ksipEffect s r d
  | .digits => digitsEffect s r d
  | .lutpoly => lutpolyEffect s r d
  | .extract => extractEffect s r d
  | .convert => convertEffect s r d
  | .flood => floodEffect s r d
  | .tileprog => tileprogEffect s r d
  | .fence => { vals := [] }
  | .signal => { vals := [] }

/-- Free values set aside for one descriptor's effect, before those of its undefined elements. -/
def effectFree : Nat := patternFree + tileProgFree

end Sys2Proof.Machine
end

