-- ==== Sys2Proof/Machine/Plan.lean ====
section
/-! DEFINITION. What Stoke computes from a descriptor's shapes: the slices that serve it, its requests (R33), the plan's
pass cycles (Table 05-3, Table 07-12, R135, R141, R215), the Sealed terms F, K and W (R220 to R224, R240), the Rick pools
(Table 03-10), the cost of R286. -/

namespace Sys2Proof.Machine

/-! ### Slices and rows -/

/-- The number of k below n with a property. -/
def countIf (n : Nat) (p : Nat → Bool) : Nat := ((List.range n).filter p).length

/-- The slice whose mover serves turf t of an operand (R104 for host turfs). -/
def State.turfSlice (s : State) (o : OpSnap) (t : Nat) : Nat :=
  let e := o.turfs.getD t default
  if e.host then t % s.nslices else e.owner

/-- The slice that serves slice n's stack: itself, or its buddy when it is fenced (R10, R40). -/
def State.serve (s : State) (n : Nat) : Nat := (s.server n).getD n

/-- The slice beside the memory of the element at row-major position k. -/
def State.sliceAt (s : State) (o : OpSnap) (k : Nat) : Nat :=
  s.turfSlice o (o.card.byteOf (o.card.offsetAt k) / o.card.turfBytes)

/-- Rows of slice n's block of an operand (r_s of R109). -/
def State.blockRows (s : State) (o : OpSnap) (n : Nat) : Nat :=
  ceilDiv (countIf o.card.count fun k => s.sliceAt o k == n) 128

/-- Where work on slice n's stack is counted: for a published duration on slice n itself, for a plan in force on the slice
that serves the stack now, which does a fenced slice's share beside its own (R40, R168). -/
def State.at (s : State) (now : Bool) (n : Nat) : Nat := if now then s.serve n else n

/-- The largest row count of an operand in any slice. -/
def State.maxRows (s : State) (now : Bool) (o : OpSnap) : Nat :=
  maxOf ((List.range s.nslices).map fun v =>
    sumOf (((List.range s.nslices).filter fun n => s.at now n == v).map (s.blockRows o)))

/-- The slices that hold a part of an operand. -/
def State.holders (s : State) (o : OpSnap) : List Nat := (List.range s.nslices).filter fun n => decide (0 < s.blockRows o n)

/-- How often the busiest of some values below n occurs in a list. -/
def busiest (n : Nat) (l : List Nat) : Nat := maxOf ((List.range n).map fun v => (l.filter fun x => x == v).length)

/-- The distinct slices of a list, ascending. -/
def State.sliceSet (s : State) (l : List Nat) : List Nat := (List.range s.nslices).filter fun n => l.contains n

/-! ### Requests -/

/-- SJ of GATHER, SCATTER and WINDOW (Table 11-4). -/
def ixSj (d : List Byte) : Nat := bits (byteAt d 85) 0 6

/-- Outer elements of an operand (instances), and the extent of its last axis. -/
def LayoutCard.last (c : LayoutCard) : Nat := c.dims.getLastD 1
def LayoutCard.outer (c : LayoutCard) : Nat := c.dims.dropLast.foldl (· * ·) 1

/-- Elements of a source block of a WINDOW instance: the axes from WAX on (R140). -/
def winBlock (d : List Byte) (c : LayoutCard) : Nat := (c.dims.drop (winAxis d)).foldl (· * ·) 1
def winInstances (d : List Byte) (c : LayoutCard) : Nat := (c.dims.take (winAxis d)).foldl (· * ·) 1

/-- ALPHA, POLY, G (Table 11-4). -/
def dAlpha (d : List Byte) : Nat := bits (byteAt d 85) 0 6
def dPoly (d : List Byte) : Nat := bits (byteAt d 84) 0 2
def dGroups (d : List Byte) : Nat := bits (byteAt d 84) 2 3

/-- The instances of an index or window opcode by home slice: home of each instance, from the operand that fixes it and
the elements of one instance in it (R129). -/
def State.instanceHomes (s : State) (o : OpSnap) (inst per : Nat) : List Nat :=
  (List.range inst).map fun b => s.sliceAt o (b * per)

/-- The degree with which a descriptor's opcode treats its operands: that of its card, the last extent of BITREV, 2^n of
LUTPOLY. -/
def Slot.degree (d : Slot) : Nat :=
  match opOf d.bytes with
  | some .bitrev => (d.opD 0).card.last
  | some .lutpoly => 2 ^ bits (byteAt d.bytes 84) 0 5
  | _ => (d.scard.getD (parseCipher [])).degree

/-- Elements of a limb that one slice takes: the whole limb, or for N = 2^18 one of its halves of 1 MiB (R41, R108). -/
def Slot.limbUnit (d : Slot) : Nat := min d.degree (2 ^ 17)

/-- Elements of one instance of an index or window opcode in operand o (R129, R140). -/
def Slot.perInstance (d : Slot) (o : OpSnap) : Nat :=
  if opOf d.bytes = some .window then
    if o.slot = 0 then winBlock d.bytes o.card else o.card.count / max 1 (winInstances d.bytes (d.opD 0).card)
  else o.card.last

/-- The digit group and the position in it of a position of a digit-extension tensor of card c and degree N (R147). -/
def digitPlace (c : LayoutCard) (N k : Nat) : Nat × Nat :=
  let nt := c.dims.getD 1 1
  (k / (nt * N), k / N % nt)

/-- The operand is a digit-extension tensor (R147): slot 1 of KSIP, slot 4 of a BASECONV with SPLIT = 1. -/
def Slot.isDigits (d : Slot) (o : OpSnap) : Bool :=
  (opOf d.bytes == some .ksip && o.slot == 1) || (opOf d.bytes == some .baseconv && o.slot == 4 && bit (byteAt d.bytes 84) 0)

/-- The PTU reads or writes the element at row-major position k of an operand: it does not touch the positions of a
digit-extension tensor from |T_g| on (R147). An operand of which an opcode reads one polynomial counts whole (DESIGN CHOICE, log 94). -/
def State.touched (s : State) (d : Slot) (o : OpSnap) (k : Nat) : Bool :=
  !d.isDigits o ||
    let cc := d.scard.getD (parseCipher [])
    let g := digitPlace o.card cc.degree k
    decide (g.2 < (digitRest (s.chain cc.chain) cc.level (dAlpha d.bytes) g.1).length)

/-- The slice whose mover carries the element at row-major position k of operand o, before fences: the home slice of its limb
(R108, R123, R151, R156, R164) or of its instance (R129), for a host turf the slice of R104, otherwise the slice beside the
stack that holds it. -/
def State.homeOf (s : State) (d : Slot) (o : OpSnap) (k : Nat) : Nat :=
  let x := d.opD 0
  let y := d.opD 4
  let N := d.degree
  let u := d.limbUnit
  if (o.turfs.getD (o.card.byteOf (o.card.offsetAt k) / o.card.turfBytes) default).host then s.sliceAt o k
  else match opOf d.bytes with
  | some .bitrev => s.sliceAt x (k / u * u)
  | some .automorph => s.sliceAt x (k / u * u)
  | some .negrot => s.sliceAt x (k / u * u)
  | some .flood => s.sliceAt x (k / u * u)
  | some .lutpoly =>
    if o.slot = 4 then s.sliceAt y (k % N / u * u)
    else s.sliceAt y (k * (N / 2 ^ bits (byteAt d.bytes 85) 0 5) / u * u)
  | some .extract =>
    if N = u then s.sliceAt x N
    else if o.slot = 0 then s.sliceAt x (k / u * u)
    else
      let iota := (bits (field d.bytes 84 4) 0 18 + k / (N + 1) * bits (field d.bytes 88 4) 0 18) % N
      if k % (N + 1) < N then s.sliceAt x (N + k % (N + 1) / u * u) else s.sliceAt x (iota / u * u)
  | some .digits => s.sliceAt y ((if o.slot = 0 then k / N % y.card.dims.getD 0 1 else k / N) * N)
  | some .rescale => s.sliceAt y (k / N * N)
  | some .ksip =>
    let cc := d.scard.getD (parseCipher [])
    let ext := extBasis (s.chain cc.chain) cc.level
    if o.slot = 1 then
      let g := digitPlace o.card N k
      s.sliceAt y (ext.idxOf ((digitRest (s.chain cc.chain) cc.level (dAlpha d.bytes) g.1).getD g.2 0) * N)
    else if o.slot = 0 then s.sliceAt y (ext.idxOf (k / N % (cc.level + 1)) * N)
    else s.sliceAt y (k / N % ext.length * N)
  | some .gather => s.sliceAt x (k / d.perInstance o * d.perInstance x)
  | some .window => s.sliceAt x (k / d.perInstance o * d.perInstance x)
  | some .scatter => s.sliceAt y (k / d.perInstance o * d.perInstance y)
  | _ => s.sliceAt o k

/-- An operand that every home slice reads whole: the index tensor of a GATHER or SCATTER with IPB = 0 (Table 11-4, R129), and the one
entry of a LUTPOLY's table that both halves of degree 2^18 use; with HALFBOX = 1 the upper half uses its negation alone, which is a pass
constant (R123). -/
def Slot.sharesIndex (d : Slot) (o : OpSnap) : Bool :=
  (o.slot == 1 && !ixIpb d.bytes && (opOf d.bytes == some .gather || opOf d.bytes == some .scatter)) ||
    (o.slot == 0 && opOf d.bytes == some .lutpoly && o.card.count == 1 && decide (d.degree = 2 ^ 18) && !bit (byteAt d.bytes 86) 0)

/-- The home slices of a descriptor's instances, or of the halves of a LUTPOLY. -/
def State.homes (s : State) (d : Slot) : List Nat :=
  let o := if opOf d.bytes = some .scatter then d.opD 4 else d.opD 0
  if opOf d.bytes = some .lutpoly then s.sliceSet [s.homeOf d (d.opD 4) 0, s.homeOf d (d.opD 4) (2 ^ 17)]
  else s.sliceSet (s.instanceHomes o (o.card.count / max 1 (d.perInstance o)) (d.perInstance o))

/-- The runs of neighbours of a list for which f answers the same. -/
def runsBy (f : Nat → Nat) : List Nat → List (List Nat)
  | [] => []
  | k :: ks => match runsBy f ks with
    | (j :: js) :: rest => if f k = f j then (k :: j :: js) :: rest else [k] :: (j :: js) :: rest
    | rest => [k] :: rest

/-- The requests for some positions of an operand, in the order of R33, each with the slice whose mover makes it: every home
slice reads the whole of a shared index tensor (R129). A request of R33 whose rows have several homes is made in parts, one for each
run of rows of one home, by that home's mover; it counts as one in durations and costs (DESIGN CHOICE, log 94). -/
def State.opPieces (s : State) (d : Slot) (o : OpSnap) (ks : List Nat) : List (Nat × Piece) :=
  if d.sharesIndex o then (s.homes d).flatMap fun n => (o.card.pieces ks).map fun pc => (n, pc)
  else (runsBy (s.homeOf d o) ks).flatMap fun g => (o.card.pieces g).map fun pc => (s.homeOf d o pc.pos, pc)

/-- The positions of an operand that a descriptor reads or writes (R147). -/
def State.touchedOf (s : State) (d : Slot) (o : OpSnap) : List Nat := o.card.positions.filter (s.touched d o)

/-- The space of the requests that a piece of an operand makes. -/
def OpSnap.pieceSpace (o : OpSnap) (pc : Piece) : Nat :=
  let t := o.turfs.getD (pc.off / o.card.turfBytes) default
  if t.host then 24 else t.owner

/-- The requests of a whole operand, each with its space, as R33 forms them (R221): the whole of each operand counts, also that of a
ciphertext of which the opcode reads one polynomial (DESIGN CHOICE, log 94). -/
def State.requestsOf (s : State) (d : Slot) (o : OpSnap) : List (Nat × Piece) :=
  let ps := (o.card.pieces (s.touchedOf d o)).map fun pc => (o.pieceSpace pc, pc)
  if d.sharesIndex o then (List.replicate (s.homes d).length ps).flatten else ps

/-- The requests for `len` bytes at a stack address, cut at 1024-byte boundaries (R98). -/
def blockRequests (addr len : Nat) : List Piece := cutRun addr (addr + len)

/-- The entry-image word of slice n in a pattern program (05, PATTERN). -/
def ppEntryWord (p : List Byte) (n : Nat) : Nat := field p (64 + 8 * n) 8
def ppIcount (p : List Byte) (n : Nat) : Nat := bits (ppEntryWord p n) 44 10 + 1
def ppImageAddr (p : List Byte) (n : Nat) : Nat := bits (ppEntryWord p n) 0 40

/-- The requests that load the pattern images into the stores (R71). -/
def patternLoads (img : List Byte) : List (Nat × Piece) :=
  (ppSlices img).flatMap fun n => (blockRequests (ppImageAddr img n) (512 * ppIcount img n)).map fun pc => (n, pc)

/-- Location fields (R260). -/
def locStack (w : Nat) : Nat := bits w 40 5
def locAddr (w : Nat) : Nat := bits w 0 40
def locOf (d : List Byte) (off : Nat) : Nat := field d off 8

/-- The requests of the limb images that a KSIP streams, each with its stack and the number of its image in the key map
(R164). -/
def keyStreams (cc : CipherCard) (aux : List (Nat × List Byte)) : List (Nat × Nat × Piece) :=
  aux.flatMap fun e => (blockRequests (kmBase e.2) (limbImageBytes cc.degree)).map fun pc => (e.1, kmOwner e.2, pc)
def keyLoads (cc : CipherCard) (aux : List (Nat × List Byte)) : List (Nat × Piece) := (keyStreams cc aux).map (·.2)

/-! ### The plan of a descriptor -/

/-- What a descriptor's plan takes. -/
structure Plan where
  /-- K (R224). -/
  core : Nat
  /-- Pass cycles of the plan in its busiest slice, with λ_c = 1 where indices decide it (R286). -/
  pass : Nat
  /-- Slices that the plan uses. -/
  slices : List Nat
  /-- Slices whose Flue ports its exchanges need. -/
  flue : List Nat
  /-- Rick pools in each of its slices (Table 03-10). -/
  pools : Nat
  /-- Bytes that Stoke broadcasts before the core, I (R221). -/
  bcast : Nat := 0
  deriving DecidableEq, Repr

/-- The beats of an exchange that moves t a b words from slice a to slice b by the shift schedule: with four planes and no
fence for a published duration (R83), with the live planes and the sub-rounds of fenced slices for a plan in force (R90, R91). -/
def State.trafficBeats (s : State) (now : Bool) (t : Nat → Nat → Nat) : Nat :=
  let S := s.nslices
  if now then s.exchangeBeats { slices := List.range S, send := [], recv := [], fsend := [], frecv := []
                                rounds := shiftRounds S fun r a => t a ((a + r) % S) }
  else shiftBeats 64 S t

/-- Pass cycles of a move of n elements from slice to slice, whether it crosses, and the slices that exchange
(Table 05-3, Table 10-2). `turn`: case B; `conv`: CONVERT, which passes even where nothing crosses (R215). -/
def State.movePlan (s : State) (now turn conv : Bool) (n r r' : Nat) (src dst : Nat → Nat) : Nat × List Nat :=
  let crosses := (List.range n).any fun k => src k != dst k
  let e := s.trafficBeats now fun a b => countIf n fun k => src k == a && dst k == b
  let x := if crosses then e + 24 else 0
  let base := if turn then (r + 40) + (r + 48) + (r' + 40)
    else if crosses then (r + 40) + (r' + 40) else if conv then r + 40 else 0
  (base + x, if crosses then s.sliceSet ((List.range n).flatMap fun k => [src k, dst k]) else [])

/-- The plan of an element-wise move from operand a to operand b, destination position k from source position f k. -/
def State.movedPlan (s : State) (turn conv : Bool) (a b : OpSnap) (f : Nat → Nat) : Plan :=
  let m (now : Bool) :=
    s.movePlan now turn conv b.card.count (s.maxRows now a) (s.maxRows now b) (fun k => s.sliceAt a (f k)) (s.sliceAt b)
  let flue := (m false).2
  let crosses := !flue.isEmpty
  let big := decide (1024 < max (s.maxRows false a) (s.maxRows false b))
  { core := (m false).1, pass := (m true).1, slices := s.sliceSet (s.holders a ++ s.holders b), flue := flue
    pools := if conv then (if big then 4 else if crosses then 3 else 2)
      else if turn then (if crosses then 3 else 2) else if crosses then 3 else 1 }

/-- The plan of an opcode that works limb by limb: `limbs` holds the row-major positions of the coefficients 0, in
operand o, of the limbs of degree N (R108). A limb of N up to 2^17 that lies in several stacks comes by the home slice's bypass
input (R108) and not by the Flue (R41; DEDUCED, log 76). One of 2^18 whose two halves lie on one stack does not use it either (R10). -/
def State.limbPlan (s : State) (o : OpSnap) (N : Nat) (limbs : List Nat) (pools pools18 : Nat) : Plan :=
  if N ≤ 2 ^ 17 then
    let homes := limbs.map (s.sliceAt o)
    let k (now : Bool) := busiest s.nslices (homes.map (s.at now)) * (N / 128) + 40
    { core := k false, pass := k true, slices := s.sliceSet homes, flue := [], pools := pools }
  else
    let pairs := limbs.map fun k => (s.sliceAt o k, s.sliceAt o (k + N / 2))
    let code (now : Bool) (x : Nat × Nat) := min (s.at now x.1) (s.at now x.2) * 24 + max (s.at now x.1) (s.at now x.2)
    let k (now : Bool) := 3176 * busiest 576 (pairs.map (code now))
    let u := s.sliceSet (pairs.flatMap fun x => [x.1, x.2])
    { core := k false, pass := k true, slices := u, pools := pools18
      flue := s.sliceSet ((pairs.filter fun x => x.1 != x.2).flatMap fun x => [x.1, x.2]) }

/-- Rows of a limb that each slice takes in BASECONV: first row and count (R40). -/
def rowShare (S R v : Nat) : Nat × Nat := (v * (R / S) + min v (R % S), R / S + if v < R % S then 1 else 0)

/-- The rows of a limb of R rows that slice v takes in BASECONV, in slice order: its own, and those of a fenced slice whose
buddy it is (R40). -/
def State.rowsOf (s : State) (now : Bool) (R v : Nat) : List Nat :=
  ((List.range s.nslices).filter fun n => s.at now n == v).flatMap fun n =>
    (List.range (rowShare s.nslices R n).2).map fun w => (rowShare s.nslices R n).1 + w

/-- W_max of BASECONV (R153). -/
def State.wavesOf (s : State) (now : Bool) (R : Nat) : Nat := maxOf ((List.range s.nslices).map fun v => (s.rowsOf now R v).length)

/-- The traffic of wave w of an exchange of BASECONV from slice a to slice b: words of the row's limbs that a stack holds (R153). -/
def State.waveTraffic (s : State) (now : Bool) (o : OpSnap) (N : Nat) (limbs : List Nat) (inbound : Bool) (w a b : Nat) : Nat :=
  let held (v n : Nat) : Nat :=
    match (s.rowsOf now (N / 128) v)[w]? with
    | some row => sumOf (limbs.map fun p => countIf 128 fun i => s.sliceAt o (p + 128 * row + i) == n)
    | none => 0
  if inbound then held b a else held a b

/-- Beats of the waves of one exchange of BASECONV (R153). -/
def State.waveBeats (s : State) (now : Bool) (o : OpSnap) (N : Nat) (limbs : List Nat) (inbound : Bool) : Nat :=
  sumOf ((List.range (s.wavesOf now (N / 128))).map fun w => s.trafficBeats now (s.waveTraffic now o N limbs inbound w))

/-- The row-major positions of the limbs of a BASECONV that its exchanges carry: those of its source, and the destination limbs
that it writes (R147, R153). -/
def State.waveLimbs (s : State) (d : Slot) : List Nat × List Nat :=
  let cc := d.scard.getD (parseCipher [])
  let N := cc.degree
  let y := (d.opD 4).card
  let nt := y.dims.getD 1 1
  ((List.range ((d.opD 0).card.count / N)).map (· * N),
    if bit (byteAt d.bytes 84) 0 then
      (List.range (digitCount cc.level (dAlpha d.bytes))).flatMap fun g =>
        (List.range (digitRest (s.chain cc.chain) cc.level (dAlpha d.bytes) g).length).map fun t => (g * nt + t) * N
    else (List.range (y.count / N)).map (· * N))

/-- Bytes of a constant table that are broadcast before the core (R150, R221). -/
def tableBcast (img : List Byte) : Nat :=
  let n := field img 12 4
  if n ≤ 40960 then n else 20480

/-- Distinct logical pools that a pattern program names, ascending. -/
def ppPoolList (img : List Byte) (aux : List (Nat × List Byte)) : List Nat :=
  let steps := (List.range (ppSteps img)).flatMap fun i =>
    let st := ppStep img i
    if byteAt st 0 = 1 then [byteAt st 1, byteAt st 2]
    else
      let e := parseSched [] (tget aux (100 + i) [])
      (e.send ++ e.recv).map Seg.pool
  (List.range 8).filter fun k => (ppPin img :: ppPout img :: steps).contains k
def ppPools (img : List Byte) (aux : List (Nat × List Byte)) : Nat := (ppPoolList img aux).length

/-- An empty plan. -/
def noPlan : Plan := { core := 0, pass := 0, slices := [], flue := [], pools := 0 }

/-- Limb-local work at one row per cycle, whatever the degree, in the home slices of the operand's limbs. -/
def State.limbPlanAll (s : State) (o : OpSnap) (N : Nat) : Plan :=
  let homes := (List.range (o.card.count / N)).map fun i => s.sliceAt o (i * N)
  let k (now : Bool) := busiest s.nslices (homes.map (s.at now)) * (N / 128) + 40
  { noPlan with core := k false, pass := k true, slices := s.sliceSet homes }

/-- How often the busiest slice serves one of some slices now. -/
def State.load (s : State) (ns : List Nat) : Nat := busiest s.nslices (ns.map s.serve)

/-- The plan of a descriptor whose snapshot is complete. -/
def State.planOf (s : State) (op : Op) (d : Slot) : Plan :=
  let b := d.bytes
  let x := d.opD 0
  let y := d.opD 4
  let sealed := dSealed b
  let cc := d.scard.getD (parseCipher [])
  let N := cc.degree
  let c := s.chain cc.chain
  match op with
  | .copy => s.movedPlan false false x y id
  | .relayout => s.movedPlan false false x y id
  | .convert => s.movedPlan false true x y id
  | .transpose =>
    let r := y.card.rank
    s.movedPlan (permField b (r - 1) != r - 1) false x y fun k =>
      flatten x.card.dims (transposeSource b (unflatten y.card.dims k))
  | .fill => { noPlan with slices := s.holders y, pools := 1 }
  | .bitrev =>
    let n := x.card.last
    s.limbPlan x n ((List.range (x.card.count / n)).map (· * n)) 2 6
  | .automorph => s.limbPlan x N ((List.range (x.card.count / N)).map (· * N)) 2 6
  | .negrot => s.limbPlan x N ((List.range (x.card.count / N)).map (· * N)) 2 6
  | .lutpoly =>
    let n := 2 ^ bits (byteAt b 84) 0 5
    if n ≤ 2 ^ 17 then s.limbPlan y n [0] 2 2
    else { noPlan with core := 1064, pass := 1064, slices := s.sliceSet [s.sliceAt y 0, s.sliceAt y (n / 2)], pools := 2 }
  | .extract =>
    let k := bits (field b 92 2) 0 11
    if N ≤ 2 ^ 17 then
      let u := s.sliceSet [s.sliceAt x N]
      { noPlan with core := k * (N / 128) + 40, pass := k * (N / 128) + 40, slices := u, pools := 2 }
    else
      let u := s.sliceSet [s.sliceAt x N, s.sliceAt x (N + N / 2)]
      { noPlan with
        core := 3176 * k, pass := 3176 * k, pools := 6
        flue := if s.sliceAt x N = s.sliceAt x (N + N / 2) then [] else u
        slices := s.sliceSet (u ++ [s.sliceAt x 0, s.sliceAt x (N / 2)]) }
  | .pattern =>
    let u := ppSlices d.image
    let step (open_ : Bool) (i : Nat) : Nat :=
      let st := ppStep d.image i
      -- a slice that serves two stacks runs a local step for each
      if byteAt st 0 = 1 then (if open_ then max 1 (s.load (onesOf 24 (field st 8 3))) else 1) * (field st 6 2 + 40)
      else if open_ then s.exchangeBeats (parseSched u (tget d.aux (100 + i) [])) + 24 else 2095
    let total (o : Bool) := sumOf ((List.range (ppSteps d.image)).map (step o))
    { noPlan with
      core := total false, pass := total true, slices := u, pools := ppPools d.image d.aux
      flue := if (List.range (ppSteps d.image)).any fun i => byteAt (ppStep d.image i) 0 == 2 then u else [] }
  | .gather =>
    let homes := s.instanceHomes x x.card.outer x.card.last
    { noPlan with
      core := ixSj b * gatherCore x.card.last y.card.last
      pass := s.load homes * (ceilDiv y.card.last 128 + 40)
      slices := s.sliceSet homes, pools := if sealed then 6 else 3 }
  | .scatter =>
    let homes := s.instanceHomes y y.card.outer y.card.last
    let m := ceilDiv x.card.last 128
    { noPlan with
      core := ixSj b * scatterCore y.card.last x.card.last
      pass := s.load homes * ((if ixPolicy b = 2 then 2 * m else m) + 40)
      slices := s.sliceSet homes, pools := if sealed then 6 else if ixPolicy b = 2 then 4 else 3 }
  | .window =>
    let inst := winInstances b x.card
    let homes := s.instanceHomes x inst (winBlock b x.card)
    let k := windowCore b x.card.dims y.card.dims (winBlock b x.card) (List.range (y.card.count / inst))
    { noPlan with
      core := ixSj b * k, pass := s.load homes * k, slices := s.sliceSet homes, pools := 3 }
  | .digits =>
    let n := y.card.last
    { s.limbPlanAll y n with bcast := tableBcast d.image, pools := 2 }
  | .rescale =>
    { s.limbPlanAll y y.card.last with bcast := tableBcast d.image, pools := 3 }
  | .baseconv =>
    let split := bit (byteAt b 84) 0
    let alpha := dAlpha b
    let R := N / 128
    let D := digitCount cc.level alpha
    let (src, dst) := s.waveLimbs d
    let M := if split then
        sumOf ((List.range D).map fun g => (digitOf cc.level alpha g).length * (digitRest c cc.level alpha g).length)
      else match tableBlocks d.image with
        | [] => 0
        | t :: _ => dGroups b * t.ns * t.nt
    let k (now : Bool) := 512 + max (max (s.waveBeats now x N src true) (s.waveBeats now y N dst false)) (s.wavesOf now R * M)
    let u := s.sliceSet (s.holders x ++ s.holders y ++ (List.range s.nslices).filter fun v => decide (0 < (rowShare s.nslices R v).2))
    { noPlan with core := k false, pass := k true, slices := u, flue := u, pools := 3, bcast := tableBcast d.image }
  | .ksip =>
    let LX := (extBasis c cc.level).length
    let D := digitCount cc.level (dAlpha b)
    let home (k : Nat) := s.sliceAt y (k * N)
    let homes := (List.range LX).map home
    let tRet (js : Nat) := 2 * D * js * (N / 128)
    let tExp (js : Nat) := ceilDiv (js * D * ceilDiv (2 * N) 21) 6
    let work (js : Nat) := max (tRet js) (tExp js)
    let streams := d.aux.map fun e => (s.serve (home (e.1 % LX)), kmOwner e.2)
    let direct := maxOf ((List.range s.nslices).map fun n =>
      ceilDiv ((streams.filter fun t => t.1 == n && t.2 == n).length * limbImageBytes N) 512)
    let bypass := maxOf ((List.range s.nslices).map fun m =>
      ceilDiv ((streams.filter fun t => t.1 != m && t.2 == m).length * limbImageBytes N) 256)
    let bk := busiest s.nslices ((keyLoads cc d.aux).map (·.1))
    { noPlan with
      core := max (work (busiest s.nslices homes)) (5 * bk + 400) + 40, pass := max (work (s.load homes)) (max direct bypass) + 40
      slices := s.sliceSet homes, pools := 3 }
  | .flood =>
    let np := cc.polys
    let L := x.card.dims.getD 1 1
    let npf := popcount 3 (bits (byteAt b 85) 0 3)
    let h := N / 128
    let u := min N (2 ^ 17)
    -- limbs of one polynomial of which a slice holds a part; a half counts whole (DESIGN CHOICE, log 72)
    let holds (now : Bool) (v k : Nat) : Bool := (List.range (N / u)).any fun t => s.at now (s.sliceAt x (k * N + t * u)) == v
    let j (now : Bool) := maxOf ((List.range np).flatMap fun p => (List.range s.nslices).map fun v => countIf L fun i => holds now v (p * L + i))
    let k (now : Bool) := npf * max (ceilDiv (ceilDiv N 10) 3) (j now * h) + (np - npf) * j now * h + 64
    { noPlan with
      core := k false, pass := k true, pools := 2
      slices := s.sliceSet ((List.range (np * L * (N / u))).map fun i => s.sliceAt x (i * u)) }
  | .tileprog =>
    let k := programLength d.image
    { noPlan with core := k, pass := s.load (piSlices d.image) * k, slices := piSlices d.image, pools := d.ops.length, bcast := piBytes d.image }
  | .fence => noPlan
  | .signal => noPlan

/-! ### The Sealed timetable (R220, R221) -/

/-- 5 cycles for each request of the busiest stack and the allowance, or 20 at the host port and its allowance. -/
def memTerm (spaces : List Nat) : Nat :=
  let st := busiest 24 spaces
  let h := (spaces.filter fun x => x == 24).length
  max (if st = 0 then 0 else 5 * st + 400) (if h = 0 then 0 else 20 * h + 2400)

/-- The operands in memory that a descriptor reads during its run: its sources, and a Sealed SCATTER's destination (R139). -/
def Slot.readOps (d : Slot) : List OpSnap :=
  d.ops.filter fun o => !o.res && (decide (o.slot < 4) || (opOf d.bytes == some .scatter && dSealed d.bytes))

/-- The operands in memory that it writes. -/
def Slot.writeOps (d : Slot) : List OpSnap := d.ops.filter fun o => !o.res && decide (4 ≤ o.slot)

/-- Spaces of the read requests of a descriptor, key streams apart (R221). -/
def State.readSpaces (s : State) (d : Slot) : List Nat :=
  d.readOps.flatMap (fun o => (s.requestsOf d o).map (·.1)) ++
    if opOf d.bytes = some .pattern then (patternLoads d.image).map (·.1) else []

/-- Spaces of the write requests of a descriptor. -/
def State.writeSpaces (s : State) (d : Slot) : List Nat := d.writeOps.flatMap fun o => (s.requestsOf d o).map (·.1)

/-- F (R221). -/
def fillTerm (reads : List Nat) (bcast : Nat) : Nat := max (memTerm reads) (if bcast = 0 then 0 else ceilDiv bcast 128 + 8)

/-- DUR (R220). With every operand resident the terms of R220 stand too: R138's "the core duration is the whole duration"
is read as naming the absent memory terms, F and W (DEDUCED, log 67). -/
def State.publishedDur (s : State) (d : Slot) (pl : Plan) : Nat :=
  32 + fillTerm (s.readSpaces d) pl.bcast + pl.core + memTerm (s.writeSpaces d) + 32

/-! ### Cost (R286) -/

/-- How often Stoke reads the body of a constant table: a streamed one once for each wave of a BASECONV (R150). -/
def State.tableReads (s : State) (d : Slot) : Nat :=
  if opOf d.bytes = some .baseconv ∧ 40960 < d.image.length then s.wavesOf true (d.degree / 128) else 1

/-- The reads of a constant table, each with its stack (R150). -/
def State.tableLoads (s : State) (d : Slot) : List (Nat × Piece) :=
  let w := locOf d.bytes 88
  (List.replicate (s.tableReads d) ((blockRequests (locAddr w) d.image.length).map fun pc => (locStack w, pc))).flatten

/-- Bytes that a descriptor moves in a space: operands in memory, the limb images of a KSIP, the entry images of a PATTERN and the
constant table. -/
def State.bytesOn (s : State) (d : Slot) (sp : Nat) : Nat :=
  let ops := (d.ops.filter fun o => !o.res).flatMap (s.requestsOf d)
  let more := match opOf d.bytes with
    | some .ksip => keyLoads (d.scard.getD (parseCipher [])) d.aux
    | some .pattern => patternLoads d.image
    | some .digits => s.tableLoads d
    | some .baseconv => s.tableLoads d
    | some .rescale => s.tableLoads d
    | _ => []
  sumOf (((ops ++ more).filter fun e => e.1 == sp).map fun e => e.2.len)

/-- The cost of a descriptor: the largest of the three figures of R110, each rounded up. -/
def State.costOf (s : State) (d : Slot) (pl : Plan) : Nat :=
  max pl.pass (max (maxOf ((List.range 24).map fun n => ceilDiv (s.bytesOn d n) 1000)) (ceilDiv (s.bytesOn d 24) 213))

end Sys2Proof.Machine
end

