-- ==== Sys2Proof/Machine/PreCheck.lean ====
section
/-! DEFINITION. The pre-check of one descriptor (R268, Table 11-5): its snapshots (R30), the ten stages in order, its
status and DETAIL (R269), its DUR (R220, R226, R227) and the destination cipher card that it will write (R42, R44). -/

namespace Sys2Proof.Machine

/-! ### Snapshots -/

/-- A descriptor that Stoke has dispatched to its slices. -/
def Phase.begun : Phase → Bool
  | .started => true
  | .ran => true
  | .aborted => true
  | .decided => true
  | .recorded => true
  | _ => false

/-- The translation of a page in the cache (R36). -/
def State.translation (s : State) (h : HF) (pas : Option (BitVec 20)) (iova : Nat) : Option TEntry :=
  s.xl.cache.find? fun e => !e.lost && e.hf == h && e.pasid == pas && decide (e.iova ≤ iova) && decide (iova < e.iova + e.size)

/-- The page is known to have no translation (R36). -/
def State.knownAbsent (s : State) (h : HF) (pas : Option (BitVec 20)) (iova : Nat) : Bool :=
  s.xl.absent.any fun x => x.hf == h && x.pasid == pas && x.iova == iova

/-- Opcodes that may take host turfs (R104, R213). -/
def hostTurfsOk : Op → Bool
  | .copy => true
  | .fill => true
  | .transpose => true
  | .relayout => true
  | .convert => true
  | _ => false

/-- A turf-table entry passes step 4 of Table 02-4. -/
def Turf.entryOk (t : Turf) (c : LayoutCard) (s : State) (h : HF) (dest hostOk : Bool) : Bool :=
  t.valid && t.log2Size == c.turf + 12 && (decide (t.owner < s.nslices) || (t.host && hostOk && t.base % 4096 == 0)) &&
    (t.host || decide (t.base < 2 ^ 40)) && t.hf == h.val && (!dest || t.wr) && !t.rsv

/-- A turf passes step 5. -/
def Turf.rangeOk (t : Turf) (c : LayoutCard) (s : State) (h : HF) : Bool :=
  t.host || (t.base % 4096 == 0 && s.locOk h t.owner t.base c.turfBytes)

/-- The turf table lies where R29 allows. TT_STACK of 24 to 31, which Table 02-2 does not permit, names no stack and
fails here, at step 3; TURF above 9 fails at step 2 (DESIGN CHOICE, log 60). -/
def State.tableOk (s : State) (h : HF) (c : LayoutCard) : Bool :=
  c.ttAddr % 64 == 0 && s.locOk h c.ttStack c.ttAddr (16 * (c.ttCount + 1))

/-- The turf-table entries that an operand can reach (R30, R32). -/
def State.readTurfs (s : State) (c : LayoutCard) : List Turf :=
  (List.range (c.lastTurf + 1)).map fun t => parseTurf (s.readBytes c.ttStack (c.ttAddr + 16 * t) 16)

/-- The pages of an operand as the translation cache holds them now (R36). -/
def State.mapPages (s : State) (h : HF) (o : OpSnap) : OpSnap :=
  { o with xl := o.pages.filterMap fun e => (s.translation h e.1.pas e.2).map fun t =>
      { pas := e.1.pas, iova := e.2, size := 4096, phys := t.phys + (e.2 - t.iova) } }

/-- The snapshot of operand slot k, without its translations. -/
def State.snapOp (s : State) (d : List Byte) (k : Nat) : OpSnap :=
  let p := slotPtr d k
  let c := parseCard (s.readBytes p.stack p.addr 64)
  { slot := k, res := p.res, stack := p.stack, addr := p.addr, card := c
    turfs := if c.shapeOk (decide (4 ≤ k)) then s.readTurfs c else [], xl := [] }

/-- A structure of n bytes at a location, aligned to `al`, in a grant and clear of the hearthstone region. -/
def State.structOk (s : State) (h : HF) (w al n : Nat) : Bool := locAddr w % al == 0 && s.locOk h (locStack w) (locAddr w) n
def State.structBytes (s : State) (w n : Nat) : List Byte := s.readBytes (locStack w) (locAddr w) n
def State.structBad (s : State) (w n : Nat) : Bool := s.poisoned (locStack w) (locAddr w) n

/-- The image that a descriptor runs on: constant table (its header of 64 bytes at least), pattern program or tile
program. -/
def State.imageOf (s : State) (op : Op) (d : List Byte) : List Byte :=
  let table := s.structBytes (locOf d 88) (max 64 (field (s.structBytes (locOf d 88) 64) 12 4))
  match op with
  | .digits => table
  | .baseconv => table
  | .rescale => table
  | .pattern => s.structBytes (locOf d 88) 512
  | .tileprog => s.structBytes (locOf d 88) (piBytes (s.structBytes (locOf d 88) 64))
  | _ => []

/-- The schedule location of step i of a pattern program. -/
def ppSched (img : List Byte) (i : Nat) : Nat := field (ppStep img i) 8 8
def ppIsExchange (img : List Byte) (i : Nat) : Bool := byteAt (ppStep img i) 0 == 2
def ppExchanges (img : List Byte) : List Nat := (List.range (ppSteps img)).filter (ppIsExchange img)

/-- The further images: entry images and schedules of a PATTERN, key map entries with limb-image headers of a KSIP. -/
def State.auxOf (s : State) (op : Op) (d img : List Byte) (scard : Option CipherCard) : List (Nat × List Byte) :=
  match op, scard with
  | .pattern, _ =>
    (ppSlices img).map (fun n => (n, s.readBytes n (ppImageAddr img n) (512 * ppIcount img n))) ++
      (ppExchanges img).map fun i => (100 + i, s.structBytes (ppSched img i) (schedBytes (s.structBytes (ppSched img i) 64)))
  | .ksip, some cc =>
    let n := digitCount cc.level (dAlpha d) * (extBasis (s.chain cc.chain) cc.level).length
    (List.range n).map fun k =>
      let e := s.structBytes (locOf d 96 + 16 * k) 16
      (k, e ++ s.readBytes (kmOwner e) (kmBase e) 64)
  | _, _ => []

/-- The fields of the source cipher card: those passed along the chain (R265), or the card in memory. -/
def State.sourceCard (s : State) (ms : List Member) (d : List Byte) : Option CipherCard :=
  let p := scardPtr d
  if !p.valid then none
  else
    match (ms.reverse.filterMap (·.card)).find? fun c => c.1 == p.stack && c.2.1 == p.addr with
    | some c => some c.2.2
    | none => some (parseCipher (s.readBytes p.stack p.addr 64))

/-- Ordinary moduli that a rescale table drops (R157). -/
def droppedOrdinary (c : Chain) (img : List Byte) : List Nat :=
  match tableBlocks img with
  | [] => []
  | b :: _ => (basisOf b.tmask).filter fun i => decide (i < c.ordinary)

/-- The destination cipher card that a descriptor writes (R44, Table 05-2, R157, R214, R237). -/
def State.destCard (s : State) (op : Op) (d img : List Byte) (scard : Option CipherCard) : Option CipherCard :=
  if !(dcardPtr d).valid then none
  else
    match op, scard with
    | .bitrev, some c => some { c with order := !c.order }
    | .rescale, some c =>
      let e := (droppedOrdinary (s.chain c.chain) img).length
      some { c with level := c.level - e, limbs := c.level - e + 1, scale := BitVec.ofNat 16 (field d 86 2) }
    | .flood, some c => some { c with budget := if bit (byteAt d 85) 3 then BitVec.ofNat 16 (field d 86 2) else c.budget }
    | .lutpoly, _ =>
      some { scheme := 4, log2n := bits (byteAt d 84) 0 5, level := 0, limbs := 1, chain := (binding d).chain
             keyset := BitVec.ofNat 32 (field d 88 4), scale := 0, budget := BitVec.ofNat 16 (field d 92 2), slots := 0
             npoly := 0, paired := false, eval := false, order := false, poison := false, valid := true, ptmod := 0
             lweN := 0, rsv := false }
    | _, c => c

/-! ### Ranges of the overlap check (R49) -/

/-- The ranges of the constant table, program, schedules, images and keys of a descriptor. -/
def Slot.structRanges (op : Op) (x : Slot) : List Range :=
  let at_ (w n : Nat) : Range := ⟨locStack w, locAddr w, n⟩
  match op with
  | .ksip =>
    at_ (locOf x.bytes 96) (16 * x.aux.length) ::
      x.aux.map fun e => ⟨kmOwner e.2, kmBase e.2, limbImageBytes ((x.scard.getD (parseCipher [])).degree)⟩
  | .pattern =>
    at_ (locOf x.bytes 88) 512 :: (x.aux.map fun e =>
      if e.1 < 100 then ⟨e.1, ppImageAddr x.image e.1, e.2.length⟩ else at_ (ppSched x.image (e.1 - 100)) e.2.length)
  | _ => if x.image.isEmpty then [] else [at_ (locOf x.bytes 88) x.image.length]

def Ptr.range (p : Ptr) : Range := ⟨p.stack, p.addr, 64⟩

/-- The layout card and the whole turf table of an operand (R49). -/
def OpSnap.cardRanges (o : OpSnap) : List Range :=
  [⟨o.stack, o.addr, 64⟩, ⟨o.card.ttStack, o.card.ttAddr, 16 * (o.card.ttCount + 1)⟩]

/-- The poisoned granules that a read of some ranges meets (R99). -/
def State.badIn (s : State) (gs : List Range) : List (Nat × Bool) :=
  s.poison.filter fun e => gs.any fun g =>
    decide (memKey g.space (g.lo / 64) ≤ e.1) && decide (e.1 < memKey g.space (ceilDiv (g.lo + g.len) 64))

/-- The limb images of a KSIP's key map as they lie in memory, one after another (R159). -/
def State.keyImages (s : State) (x : Slot) : List Byte :=
  x.aux.flatMap fun e => s.readBytes (kmOwner e.2) (kmBase e.2) (limbImageBytes (x.scard.getD (parseCipher [])).degree)

/-- The first reading of a descriptor's cards, tables and structures. -/
def State.readTables (s : State) (op : Op) (ms : List Member) (x : Slot) : Slot :=
  let d := x.bytes
  let slots := (opSlots op).filter fun k => (slotPtr d k).valid
  let sc := s.sourceCard ms d
  let img := s.imageOf op d
  let y := { x with
    ops := slots.map fun k => { s.snapOp d k with chain := x.chain }
    scard := sc, image := img, aux := s.auxOf op d img sc
    dcard := s.destCard op d img sc, snapped := true }
  let y := if op = .ksip then { y with image := s.keyImages y } else y
  { y with bad := s.badIn (y.ops.flatMap OpSnap.cardRanges ++ y.structRanges op ++
      if (scardPtr d).valid then [(scardPtr d).range] else []) }

/-- Destination ranges with their item: destination operands, and the destination cipher card. -/
def Slot.destRanges (x : Slot) : List (Nat × Range) :=
  ((x.ops.filter fun o => decide (4 ≤ o.slot)).flatMap fun o => o.ranges.map fun g => (o.slot, g)) ++
    if (dcardPtr x.bytes).valid then [(7, (dcardPtr x.bytes).range)] else []

/-- The bytes that a descriptor defines with its record: those of its destinations' elements in memory, and of its destination cipher
card (R34). -/
def Slot.defines (d : Slot) : List Range :=
  (d.writeOps.flatMap fun o => o.card.positions.map o.elemRange) ++
    if (dcardPtr d.bytes).valid then [(dcardPtr d.bytes).range] else []

/-- The destinations of the descriptors that have started and have no written record: they are undefined (R34). -/
def State.unsettled (s : State) : List Range :=
  s.allSlots.flatMap fun e => if e.2.phase.begun && e.2.status == stDone then e.2.defines else []

/-- n bytes as they stand for a reader while descriptors run: those of an unsettled destination are undefined (R34). -/
def State.readSettled (s : State) (space addr n : Nat) : List Byte :=
  (s.blurred (s.unsettled.filter fun g => g.meets ⟨space, addr, n⟩)).readBytes space addr n

/-- The snapshot of a descriptor: its tables and structures are read once (R30, R42), a byte of a destination in flight as an
undefined one (R34); its pages are those that the translation cache holds. -/
def State.snapshot (s : State) (h : HF) (op : Op) (ms : List Member) (x : Slot) : Slot :=
  let y := if x.snapped then x else (s.blurred s.unsettled).readTables op ms x
  { y with ops := y.ops.map (s.mapPages h) }

/-- The descriptor as a pre-check that cannot end leaves it: fetched, with its snapshot. -/
def Slot.keepSnapshot (d : Slot) : Slot :=
  { d with phase := .fetched, status := 0, detail := 0, dur := 0, refusal := false }

/-- Source ranges: source operands, keys, cipher card, layout cards, turf tables, structures. -/
def Slot.sourceRanges (op : Op) (x : Slot) : List Range :=
  (if x.scard.isSome then [(scardPtr x.bytes).range] else []) ++ x.ops.flatMap OpSnap.cardRanges ++
    (x.ops.filter fun o => decide (o.slot < 4)).flatMap OpSnap.ranges ++ x.structRanges op

/-! ### Checks -/

/-- One check: whether it holds, the status and DETAIL of its failure, and whether its failure makes DUR 256 (R227). -/
structure Chk where
  ok : Bool
  st : W16
  detail : Nat
  d256 : Bool
  deriving DecidableEq, Repr

/-- A check of a stage on an item, with a step (R269). -/
def chk (stage item step : Nat) (d256 ok : Bool) (st : W16) : Chk := ⟨ok, st, 4096 * stage + 256 * item + step, d256⟩

/-- A read of a structure for an item returns no poison (R269). -/
def clean (item : Nat) (d256 bad : Bool) : Chk := ⟨!bad, stSourceCorrupt, 0xA000 + item, d256⟩

/-! ### Stage 1: header -/

/-- Bits that the opcode's parameter layout assigns in bytes 80 to 127, as pairs of byte and mask (Table 11-4). -/
def paramMask : Op → List (Nat × Nat)
  | .fill => bindingMask
  | .transpose => [(84, 0xFF), (85, 0xFF), (86, 0x03)]
  | .automorph => full 84 4
  | .negrot => full 84 4
  | .pattern => bindingMask ++ full 84 2 ++ full 88 8
  | .gather => bindingMask ++ [(84, 0x1F), (85, 0x3F)]
  | .scatter => bindingMask ++ [(84, 0x1F), (85, 0x3F)]
  | .window => bindingMask ++ [(84, 0x0F), (85, 0x3F), (86, 0x3F), (87, 0x3F), (88, 0x3F), (89, 0x3F), (90, 0x7F), (91, 0x7F)] ++
      full 92 2
  | .baseconv => [(84, 0x1F), (85, 0x3F)] ++ full 88 8
  | .rescale => [(84, 0x1D)] ++ full 86 2 ++ full 88 8
  | .ksip => [(84, 0x03), (85, 0x3F)] ++ full 88 4 ++ full 96 8 ++ full 104 8
  | .digits => [(84, 0x03), (85, 0x3F)] ++ full 88 8
  | .lutpoly => bindingMask ++ [(84, 0x1F), (85, 0x1F), (86, 0x03)] ++ full 88 6
  | .extract => [(84, 0xFF), (85, 0xFF), (86, 0x03), (88, 0xFF), (89, 0xFF), (90, 0x03), (92, 0xFF), (93, 0x07)]
  | .convert => bindingMask ++ [(84, 0x0F)] ++ full 86 2 ++ full 88 8
  | .flood => [(84, 0x7F), (85, 0x0F)] ++ full 86 2
  | .tileprog => full 88 16
  | .fence => full 85 1 ++ full 88 8
  | .signal => [(84, 0x03)] ++ full 85 1 ++ full 88 8 ++ full 96 9
  | _ => []
where
  bindingMask : List (Nat × Nat) := [(80, 0xFF), (81, 0x3F), (82, 0x07)]
  full (off n : Nat) : List (Nat × Nat) := (List.range n).map fun i => (off + i, 0xFF)

/-- Every reserved bit of the header and of the parameter block is 0 (R257). -/
def reservedOk (op : Op) (d : List Byte) : Bool :=
  bits (byteAt d 1) 3 5 == 0 && zeroAt d 8 8 && (List.range 48).all fun i =>
    let m := ((paramMask op).find? fun e => e.1 == 80 + i).map (·.2)
    byteAt d (80 + i) &&& m.getD 0 == byteAt d (80 + i)

/-- How an opcode uses a card pointer (R103, R106, R128, R148, R157, R178, R214, R237). -/
inductive CardUse where
  | required
  | absent
  deriving DecidableEq, Repr

/-- SCARD and DCARD of a descriptor: a pair is both or neither, and a flag decides for LUTPOLY and RESCALE. -/
def cardUse (op : Op) (d : List Byte) : CardUse × CardUse :=
  let sv := (scardPtr d).valid
  let dv := (dcardPtr d).valid
  let pair : CardUse × CardUse := if sv || dv then (.required, .required) else (.absent, .absent)
  match op with
  | .bitrev => pair
  | .relayout => pair
  | .convert => pair
  | .automorph => (.required, .required)
  | .negrot => (.required, .required)
  | .flood => (.required, .required)
  | .extract => (.required, .absent)
  | .digits => (.required, .absent)
  | .baseconv => (.required, .absent)
  | .ksip => (.required, .absent)
  | .rescale => (.required, if bit (byteAt d 84) 0 then .required else .absent)
  | .lutpoly => (.absent, if bit (byteAt d 86) 1 then .required else .absent)
  | _ => (.absent, .absent)

/-- A card pointer is as its use demands (R258, R259). -/
def cardPtrOk (u : CardUse) (w : Nat) : Bool :=
  let p := parsePtr w
  match u with
  | .absent => w == 0
  | .required => p.valid && !p.res && !p.rsv

/-- An operand slot is as its opcode demands (R259, R178). -/
def slotOk (op : Op) (d : List Byte) (k : Nat) : Bool :=
  let p := slotPtr d k
  if (opSlots op).contains k then (op == .tileprog && slotWord d k == 0) || (p.valid && !p.rsv) else slotWord d k == 0

/-- The ranges of parameters that depend on no operand (R103, R260). -/
def paramsOk (s : State) (op : Op) (d : List Byte) : Bool :=
  let loc (off : Nat) := field d off 8 / 2 ^ 45 == 0
  let sj := if dSealed d then decide (1 ≤ ixSj d) else ixSj d == 0
  match op with
  | .pattern => loc 88
  | .gather => decide (ixMode d ≤ 2) && ixPolicy d == 0 && sj
  | .scatter => decide (ixMode d ≤ 2) && decide (ixPolicy d ≤ 2) && !(dSealed d && ixPolicy d == 1) && sj
  | .window => decide (1 ≤ winDl d 0) && sj &&
      if winTwo d then decide (1 ≤ winDl d 1) else zeroAt d 87 1 && zeroAt d 89 1 && zeroAt d 91 1 && zeroAt d 93 1
  | .baseconv => loc 88 && if bit (byteAt d 84) 0 then !bit (byteAt d 84) 1 else decide (1 ≤ dGroups d) && decide (dGroups d ≤ 4)
  | .rescale => loc 88 && decide (1 ≤ dGroups d) && decide (dGroups d ≤ 4)
  | .ksip => loc 96 && field d 104 8 / 2 ^ 46 == 0 && (field d 88 4 == 0 || field d 88 4 % 2 == 1)
  | .digits => loc 88
  | .automorph => field d 84 4 % 2 == 1
  | .lutpoly =>
    let n := bits (byteAt d 84) 0 5
    let b := bits (byteAt d 85) 0 5
    decide (10 ≤ n) && decide (n ≤ 18) && decide (b ≤ n) && (!bit (byteAt d 86) 0 || decide (b < n)) && (binding d).axis == 6
  | .extract => decide (1 ≤ bits (field d 92 2) 0 11) && decide (bits (field d 92 2) 0 11 ≤ 1024)
  | .convert => decide (bits (byteAt d 84) 0 3 ≤ 4)
  | .flood => decide (1 ≤ bits (byteAt d 84) 0 7) && decide (bits (byteAt d 84) 0 7 ≤ 120) && bits (byteAt d 85) 0 3 != 0
  | .tileprog => loc 88
  | .signal =>
    let a := field d 96 8
    let l := byteAt d 104
    if bit (byteAt d 84) 1 then a % 8 == 0 && (decide (l < s.nslices) || l == 0xFF) else a == 0 && l == 0
  | _ => true

/-- Whether a stage serves an opcode of the Open class (R307). -/
def servedInStage (s : State) (op : Op) : Bool := s.ctl.stage == .banked || op == .copy || op == .fill || op == .signal

/-- Stage 1 for an assigned opcode. -/
def stage1 (s : State) (op : Op) (d : List Byte) : List Chk :=
  let c := chk 1
  [c 15 0 true (!(dSealed d || op == .flood) || s.sealedServed) stSealedUnavailable,
   c 15 0 true (!(dSealed d && (op == .fence || op == .signal))) stBadOpcode,
   c 15 0 true (servedInStage s op) stBadOpcode,
   c 15 0 true (reservedOk op d) stShapeFault] ++
    ((List.range 6).map fun k => c k 0 true (slotOk op d k) stShapeFault) ++
    [c 6 0 true (cardPtrOk (cardUse op d).1 (field d 16 8)) stShapeFault,
     c 7 0 true (cardPtrOk (cardUse op d).2 (field d 24 8)) stShapeFault,
     c 15 0 true (paramsOk s op d) stShapeFault]

/-! ### Stage 2: chain -/

/-- A resident source names an earlier source, or an earlier resident destination (R264). -/
def residentKnown (ms : List Member) (p : Ptr) : Bool :=
  ms.any fun m => m.ops.any fun o => o.stack == p.stack && o.addr == p.addr && (decide (o.slot < 4) || o.res)

/-- Stage 2 (R263, R233, R264); `ms` the earlier members, `chain` whether the descriptor belongs to a chain. -/
def stage2 (op : Op) (d : List Byte) (ms : List Member) (chain : Bool) : List Chk :=
  let fs := op == .fence || op == .signal
  [chk 2 15 0 true (!(fs && (chain || dLink d))) stShapeFault,
   chk 2 15 0 true (!(dLink d && decide (15 ≤ ms.length))) stShapeFault,
   chk 2 15 0 true (ms.all fun m => m.sealed == dSealed d) stShapeFault] ++
    (opSlots op).map fun k =>
      let p := slotPtr d k
      chk 2 k 0 true (!(p.valid && p.res) || (chain && if k < 4 then residentKnown ms p else dLink d)) stShapeFault

/-- The fallback scheduler runs no chains (R310). -/
def State.fallbackChecks (s : State) (r : RingId) (op : Op) (d : List Byte) : List Chk :=
  if s.isFallback r then
    chk 2 15 0 true (!dLink d) stShapeFault ::
      (opSlots op).map fun k => chk 2 k 0 true (!(slotPtr d k).res) stShapeFault
  else []

/-! ### Stage 3: cipher cards -/

/-- Moduli i below n of chain c are below 2^29, so that pairs are permitted (R46). -/
def State.pairedOk (s : State) (c : Nat) (is : List Nat) : Bool := is.all fun i => decide (bitLen (s.modulus c i) < 30)

/-- Stage 3; `passed` is whether the source card's fields come from the chain (R265). -/
def State.stage3 (s : State) (h : HF) (op : Op) (x : Slot) (passed : Bool) : List Chk :=
  let d := x.bytes
  let c := chk 3 6 0 true
  let sp := scardPtr d
  (match x.scard with
    | none => []
    | some cc =>
      let ch := s.chain cc.chain
      [c (s.cardOk h sp) stProtFault, clean 6 true (!passed && s.poisoned sp.stack sp.addr 64),
       c (cc.valid && !cc.poison && decide (10 ≤ cc.log2n) && decide (cc.log2n ≤ 18) && decide (cc.level ≤ 63) &&
          decide (1 ≤ cc.limbs) && decide (cc.limbs ≤ 64) && decide (cc.npoly ≤ 1) && !cc.rsv) stShapeFault,
       c (decide (1 ≤ cc.scheme) && decide (cc.scheme ≤ 4)) stBadType,
       c (if cc.scheme = 4 then cc.limbs == 1 else cc.limbs == cc.level + 1) stChainMismatch,
       c (s.chainOk cc.chain && decide (cc.limbs ≤ ch.ordinary) && decide (cc.log2n ≤ ch.log2nMax)) stChainMismatch,
       c (s.chainOwned cc.chain h) stProtFault,
       c (!cc.paired || s.pairedOk cc.chain (List.range cc.limbs)) stBadModulus]) ++
    (if (dcardPtr d).valid then [chk 3 7 0 true (s.cardOk h (dcardPtr d)) stProtFault] else []) ++
    if op = .ksip ∧ bit (locOf d 104) 45 then [chk 3 10 0 true (s.structOk h (locOf d 104) 64 64) stProtFault] else []

/-! ### Stage 4: operands -/

/-- A host page passes step 6. -/
def State.pageOk (s : State) (h : HF) (dest : Bool) (t : Turf) (pg : Nat) : Bool :=
  (t.pv || (s.host h).pasid.isNone) &&
    match s.translation h t.pas pg with
    | some e => !dest || e.write
    | none => false

/-- Stage 4 for one operand (R258, Table 02-4). -/
def State.stage4op (s : State) (h : HF) (op : Op) (o : OpSnap) : List Chk :=
  let dest := decide (4 ≤ o.slot)
  let c (step : Nat) := chk 4 o.slot step true
  [c 0 (s.cardOk h { valid := true, res := o.res, rsv := false, stack := o.stack, addr := o.addr }) stProtFault,
   clean o.slot true (s.poisoned o.stack o.addr 64),
   c 1 (tyBits o.card.ty != 0 && tparamOk o.card.ty o.card.tparam) stBadType,
   c 2 (o.card.shapeOk dest) stShapeFault,
   c 3 (s.tableOk h o.card) stProtFault,
   clean o.slot true (s.poisoned o.card.ttStack o.card.ttAddr (16 * o.turfs.length)),
   c 4 (o.turfs.all fun t => t.entryOk o.card s h dest (hostTurfsOk op)) stProtFault,
   c 5 (o.turfs.all fun t => t.rangeOk o.card s h) stProtFault,
   c 6 (o.pages.all fun e => s.pageOk h dest e.1 e.2) stXlateFault]

/-- The write address of a SIGNAL with WR = 1 (R261). -/
def sigWr (d : List Byte) : Bool := bit (byteAt d 84) 1
def sigLoc (d : List Byte) : Nat := byteAt d 104
def sigAddr (d : List Byte) : Nat := field d 96 8

/-- The page and PASID of a SIGNAL's host write. -/
def State.sigPage (s : State) (r : RingId) (d : List Byte) : Turf × Nat :=
  let e := s.ringEntry r
  ({ (default : Turf) with owner := 0xFF, pv := e.pv, pasid := e.pasid }, sigAddr d / 4096 * 4096)

def State.stage4 (s : State) (r : RingId) (h : HF) (op : Op) (x : Slot) : List Chk :=
  x.ops.flatMap (s.stage4op h op) ++
    if op = .signal ∧ sigWr x.bytes then
      if sigLoc x.bytes = 0xFF then
        let g := s.sigPage r x.bytes
        [chk 4 11 6 true (s.pageOk h true g.1 g.2) stXlateFault]
      else [chk 4 11 5 true (s.locOk h (sigLoc x.bytes) (sigAddr x.bytes) 8) stProtFault]
    else []

/-- The host pages that the pre-check translates, with the host function's PASID (R36): those of an operand that passes the steps before,
and in the Sealed class those of every operand, as its fields are written (R268). -/
def State.pagesNeeded (s : State) (r : RingId) (h : HF) (op : Op) (x : Slot) : List XReq :=
  let ops := x.ops.flatMap fun o =>
    if dSealed x.bytes || (((s.stage4op h op o).take 8).all (·.ok)) then o.pages.map fun e => (⟨h, e.1.pas, e.2⟩ : XReq) else []
  ops ++ if op = .signal ∧ sigWr x.bytes ∧ sigLoc x.bytes = 0xFF then
      let g := s.sigPage r x.bytes
      [⟨h, g.1.pas, g.2⟩]
    else []

/-! ### Stage 5: relations between operands and parameters -/

/-- A ciphertext operand may take its type (R103). -/
def ctType (t : Nat) : Bool := isResidue t

/-- Extents and rank of two operands agree. -/
def sameShape (a b : LayoutCard) : Bool := a.rank == b.rank && a.dims == b.dims

/-- MAXIS 0 to 5 names an axis of the destination (R105). -/
def axisOk (d : List Byte) (c : LayoutCard) : Bool := decide (6 ≤ (binding d).axis) || decide ((binding d).axis < c.rank)

/-- The largest block of an operand in any slice (R124, R180). -/
def OpSnap.blockOk (o : OpSnap) : Bool :=
  (List.range 24).all fun n => decide ((o.block n).length ≤ 131072)

/-- The type checks of stage 5: outcome, status, item. -/
def State.types5 (op : Op) (x : Slot) : List (Bool × Nat) :=
  let a := (x.opD 0).card.ty
  let b := (x.opD 4).card.ty
  let same := (a == b, 4)
  let ct := (ctType a, 0)
  let ct4 := (ctType b, 4)
  let single (t : Nat) : Bool := isResidue t && t != tyU32P
  let carded := x.scard.isSome
  match op with
  | .copy => [same]
  | .transpose => [same]
  | .pattern => [same]
  | .relayout => if carded then [ct, ct4, same] else [same]
  | .bitrev => if carded then [ct, ct4, same] else [same]
  | .automorph => [ct, ct4, same]
  | .negrot => [ct, ct4, same]
  | .lutpoly => [(a == tyU64, 0), (b == tyU64, 4)]
  | .extract => [(single a, 0), (b == tyU64, 4)]
  | .gather => [((x.opD 1).card.ty == 0x10, 1), same]
  | .scatter => [((x.opD 1).card.ty == 0x10, 1), same, (ixPolicy x.bytes != 2 || !isFloat a, 0)]
  | .window => [same]
  | .convert => [(pairOk true a b, 4)]
  | .flood => [(a != tyU32P, 0), (b != tyU32P, 4)]
  | .baseconv => x.ops.map fun o => (single o.card.ty, o.slot)
  | .ksip => x.ops.map fun o => (single o.card.ty, o.slot)
  | .digits => fused x single
  | .rescale => fused x single
  | _ => []
where
  /-- DIGITS and RESCALE: single residues, or U32P throughout with PAIRED = 1 (R148). -/
  fused (x : Slot) (single : Nat → Bool) : List (Bool × Nat) :=
    let paired := (x.scard.getD (parseCipher [])).paired && x.ops.all fun o => o.card.ty == tyU32P
    x.ops.map fun o => (single o.card.ty || paired, o.slot)

/-- Words on a limb axis of n limbs for an element type (R148). -/
def limbWords (ty n : Nat) : Nat := if ty = tyU32P then ceilDiv n 2 else n

/-- The destination extents of a WINDOW agree with its source (R140). -/
def windowDims (d : List Byte) (sd dd : List Nat) : Bool :=
  let a := winAxis d
  let n := winN d
  dd.take a == sd.take a && dd.drop (a + 2 * n) == sd.drop (a + n) &&
    (List.range n).all fun w => dd.getD (a + n + w) 0 == winK d w

/-- The shape and parameter checks of stage 5: outcome and item. -/
def State.shapes5 (s : State) (op : Op) (x : Slot) : List (Bool × Nat) :=
  let d := x.bytes
  let a := (x.opD 0).card
  let b := (x.opD 4).card
  let cc := x.scard.getD (parseCipher [])
  let N := cc.degree
  let c := s.chain cc.chain
  let ct (l : LayoutCard) : Bool := cc.agrees l cc.polys cc.limbs
  let both : List (Bool × Nat) := [(ct a, 0), (ct b, 4)]
  let scheme := (decide (1 ≤ cc.scheme) && decide (cc.scheme ≤ 3), 6)
  let alpha := (decide (1 ≤ dAlpha d) && decide (dAlpha d ≤ cc.level + 1), 15)
  let poly := (decide (dPoly d < cc.polys), 15)
  let l1 := cc.level + 1
  let extent (l : LayoutCard) (dims : List Nat) : Bool := l.rank == dims.length && l.dims == dims
  let D := digitCount cc.level (dAlpha d)
  match op with
  | .copy => [(sameShape a b, 4)]
  | .fill => [(axisOk d b, 15)]
  | .relayout => (if x.scard.isSome then both else []) ++ [(a.count == b.count, 4)]
  | .transpose =>
    let r := a.rank
    let ps := (List.range 6).map (permField d)
    [(((List.range r).all fun i => (ps.take r).contains i) && ((ps.zipIdx).drop r).all fun e => e.1 == e.2, 15),
     (b.rank == r && b.dims == (ps.take r).map fun p => a.dims.getD p 0, 4)]
  | .bitrev =>
    let n := Nat.log2 a.last
    (if x.scard.isSome then both else []) ++ [(a.last == 2 ^ n && decide (10 ≤ n) && decide (n ≤ 18), 0), (sameShape a b, 4)]
  | .automorph => both ++ [(decide (field d 84 4 < 2 * N), 15)]
  | .negrot => [(!cc.eval && !cc.order, 6)] ++ both ++ [(decide (field d 84 4 < 2 * N), 15)]
  | .pattern => [(axisOk d b, 15), ((x.opD 0).blockOk, 0), ((x.opD 4).blockOk, 4)]
  | .lutpoly =>
    let n := 2 ^ bits (byteAt d 84) 0 5
    [(extent a [2 ^ bits (byteAt d 85) 0 5], 0),
     (if bit (byteAt d 86) 1 then extent b [2, 1, n] else extent b [n], 4)]
  | .extract =>
    [(cc.scheme == 4 && cc.npoly == 0 && !cc.eval && !cc.order, 6), (ct a, 0),
     (decide (bits (field d 84 4) 0 18 < N) && decide (bits (field d 88 4) 0 18 < N), 15),
     (extent b [bits (field d 92 2) 0 11, N + 1], 4)]
  | .gather =>
    let i := (x.opD 1).card
    [(decide (a.last ≤ 131072), 0), (decide (b.last ≤ 131072), 4),
     (b.rank == a.rank && b.dims.dropLast == a.dims.dropLast, 4),
     (if ixIpb d then extent i b.dims else extent i [b.last], 1),
     (decide ((binding d).axis + 1 < b.rank) || decide (6 ≤ (binding d).axis), 15)]
  | .scatter =>
    let i := (x.opD 1).card
    [(decide (a.last ≤ 131072), 0), (decide (b.last ≤ 131072), 4),
     (b.rank == a.rank && b.dims.dropLast == a.dims.dropLast, 4),
     (if ixIpb d then extent i a.dims else extent i [a.last], 1),
     (decide ((binding d).axis + 1 < b.rank) || decide (6 ≤ (binding d).axis), 15)]
  | .window =>
    let w := winAxis d
    let n := winN d
    let ax := (binding d).axis
    [(decide (w + n ≤ a.rank), 15), (b.rank == a.rank + n && windowDims d a.dims b.dims, 4),
     (decide (winBlock d a ≤ 131072), 0),
     (decide (6 ≤ ax) || decide (ax < w) || (decide (w + 2 * n ≤ ax) && decide (ax < b.rank)), 15)]
  | .digits => [scheme, alpha, poly, (ct a, 0), (extent b [limbWords b.ty l1, N], 4)]
  | .ksip =>
    let LX := (extBasis c cc.level).length
    [scheme, alpha, poly, (field d 88 4 == 0 || decide (field d 88 4 < 2 * N), 15), (ct a, 0),
     (extent (x.opD 1).card [D, digitExtLimbs c cc.level (dAlpha d), N], 1), (extent b [2, LX, N], 4)]
  | .baseconv =>
    if bit (byteAt d 84) 0 then
      [scheme, alpha, (extent a [l1, N], 0), (extent b [D, digitExtLimbs c cc.level (dAlpha d), N], 4)]
    else
      [scheme, (a.rank == 3 && a.dims.getD 0 0 == dGroups d && a.dims.getD 2 0 == N, 0),
       (b.rank == 3 && b.dims.getD 0 0 == dGroups d && b.dims.getD 2 0 == N, 4)]
  | .rescale =>
    scheme :: x.ops.map fun o =>
      (o.card.rank == 3 && o.card.dims.getD 0 0 == dGroups d && o.card.dims.getD 2 0 == N, o.slot)
  | .convert =>
    let res (t : Nat) : Bool := isResidue t && t != tyU32P
    let sigma := field d 86 2
    [(sameShape a b, 4), (axisOk d b, 15)] ++
      if x.scard.isSome then
        [(res a.ty, 0), (res b.ty, 4), (sigma == 0, 15), ((binding d).axis == 7, 15)] ++ both
      else [(sigma == 0 || isResidue a.ty || isResidue b.ty, 15)]
  | .flood =>
    let res (t : Nat) : Bool := isResidue t
    [scheme, (!cc.eval && !cc.order, 6), (res a.ty, 0), (res b.ty, 4)] ++ both ++
      [(bits (byteAt d 85) 0 3 / 2 ^ cc.polys == 0, 15)]
  | .tileprog => x.ops.map fun o => (o.blockOk, o.slot)
  | _ => []

/-- SJ covers the instances of the busiest home slice (R137, R141). -/
def State.sjOk (s : State) (op : Op) (x : Slot) : Bool :=
  let homes := match op with
    | .gather => s.instanceHomes (x.opD 0) (x.opD 0).card.outer (x.opD 0).card.last
    | .scatter => s.instanceHomes (x.opD 4) (x.opD 4).card.outer (x.opD 4).card.last
    | .window => s.instanceHomes (x.opD 0) (winInstances x.bytes (x.opD 0).card) (winBlock x.bytes (x.opD 0).card)
    | _ => []
  !dSealed x.bytes || decide (busiest s.nslices homes ≤ ixSj x.bytes)

/-- The modulus requirements of stage 5 (R105, R130, R213): with a residue type, FILL alone permits MAXIS 7 (R113). -/
def modulus5 (op : Op) (x : Slot) : Bool :=
  let unbound := (binding x.bytes).axis == 7
  match op with
  | .pattern => !(unbound && isResidue (x.opD 4).card.ty)
  | .gather => !(unbound && isResidue (x.opD 4).card.ty)
  | .scatter => !(unbound && isResidue (x.opD 4).card.ty)
  | .window => !(unbound && isResidue (x.opD 4).card.ty)
  | .convert => !(unbound && x.scard.isNone && (isResidue (x.opD 0).card.ty || isResidue (x.opD 4).card.ty))
  | _ => true

def State.stage5 (s : State) (op : Op) (x : Slot) : List Chk :=
  (State.types5 op x).map (fun e => chk 5 e.2 0 false e.1 stBadType) ++
    (s.shapes5 op x).map (fun e => chk 5 e.2 0 true e.1 stShapeFault) ++
    [chk 5 15 0 false (s.sjOk op x) stShapeFault, chk 5 15 0 false (modulus5 op x) stBadModulus]

/-! ### Stage 6: moduli -/

/-- Opcodes that carry a modulus binding (Table 11-4). -/
def hasBinding : Op → Bool
  | .fill => true
  | .pattern => true
  | .gather => true
  | .scatter => true
  | .window => true
  | .lutpoly => true
  | .convert => true
  | _ => false

/-- The chain of a tile program, where its header can be read (R181); a poisoned header fails the check that reads it (R99, R227). -/
def State.programChain (s : State) (h : HF) (x : Slot) : List Chk :=
  let c (ok : Bool) (st : W16) : Chk := ⟨ok, st, 0xFFFF, false⟩
  if s.structOk h (locOf x.bytes 88) 64 64 then
    match piChain x.image with
    | none => [clean 8 true (s.structBad (locOf x.bytes 88) 64)]
    | some k => [clean 8 true (s.structBad (locOf x.bytes 88) 64), c (s.chainOk k) stChainMismatch, c (s.chainOwned k h) stProtFault]
  else []

/-- The modulus binding (R105), or the chain of a tile program (R181), with the checks of R46. -/
def State.stage6 (s : State) (h : HF) (op : Op) (x : Slot) : List Chk :=
  let bd := binding x.bytes
  if op == .tileprog then s.programChain h x
  else if !hasBinding op || bd.axis == 7 then []
  else
    let y := (x.opD 4).card
    let ch := s.chain bd.chain
    let paired := y.ty == tyU32P || (op == .convert && (x.opD 0).card.ty == tyU32P)
    let i := if bd.axis = 6 then 0 else y.ext.getD bd.axis 0
    let top := if paired then bd.first + 2 * i + 1 else bd.first + i
    let c := chk 6 15 0 false
    [c (s.chainOk bd.chain) stChainMismatch, c (s.chainOwned bd.chain h) stProtFault,
     c (op != .lutpoly || decide (bits (byteAt x.bytes 84) 0 5 ≤ ch.log2nMax)) stChainMismatch,
     c (decide (top < ch.ordinary)) stChainMismatch,
     c (!paired || s.pairedOk bd.chain ((List.range (top + 1)).filter fun k => decide (bd.first ≤ k))) stBadModulus]

/-! ### Stage 7: structures -/

/-- Offsets of the block headers of a table, and the sum of the block lengths. -/
def blockOffsets (kind : Nat) (bs : List CBlock) : List Nat × Nat :=
  bs.foldl (fun (acc : List Nat × Nat) b => (acc.1 ++ [acc.2], acc.2 + cblockLen kind b.ns b.nt b.ofs)) ([], 64)

/-- The mask of a list of chain indices. -/
def maskOf (l : List Nat) : Nat := l.foldl (fun a i => a ||| 2 ^ i) 0

/-- Table 07-7. NS or NT of 0 fails row 2 also when its mask is empty (DESIGN CHOICE, log 60). A U32P RESCALE needs every modulus of the
kept and of the dropped basis below 2^30, judged after row 4: R46 names the limbs that a U32P operand reads or writes, and neither says
that the dropped ones count nor where the check stands in the table (DESIGN CHOICE, log 99). -/
def State.tableChecks (s : State) (h : HF) (op : Op) (x : Slot) : List Chk :=
  let loc := locOf x.bytes 88
  let img := x.image
  let cc := x.scard.getD (parseCipher [])
  let ch := s.chain cc.chain
  let kind := if op = .rescale then 2 else 1
  let bs := tableBlocks img
  let off := blockOffsets (byteAt img 0) bs
  let qp := extBasis ch cc.level
  let digits := op == .digits || (op == .baseconv && bit (byteAt x.bytes 84) 0)
  let D := digitCount cc.level (dAlpha x.bytes)
  let row (n : Nat) := chk 7 8 n
  let hdr := img.take 64
  let dims (k : Nat) := (x.opD k).card.dims.getD 1 0
  let b := bs.headD ⟨0, 0, 0, 0, 0, false, []⟩
  [row 1 true (s.structOk h loc 64 64) stProtFault, clean 8 true (s.structBad loc 64),
   row 1 true (s.structOk h loc 64 (max 64 (field hdr 12 4)) && bits (byteAt hdr 8) 0 4 == h.val) stProtFault,
   clean 8 true (off.1.any fun o => s.poisoned (locStack loc) (locAddr loc + o) 64),
   row 2 true (bits (byteAt hdr 8) 4 4 == 0 && zeroAt hdr 9 3 && zeroAt hdr 16 48 && byteAt hdr 0 == kind &&
     field hdr 12 4 == off.2 && bs.all fun b =>
       !b.rsv && decide (1 ≤ b.ns) && decide (1 ≤ b.nt) && b.ns == popcount 64 b.smask && b.nt == popcount 64 b.tmask) stShapeFault,
   row 3 false (field hdr 2 2 == cc.chain && field hdr 4 4 == ch.phash) stChainMismatch,
   row 4 false (decide (1 ≤ bs.length) && decide (bs.length ≤ 64) &&
     (bs.all fun b => ((basisOf b.smask ++ basisOf b.tmask).all fun i => qp.contains i) && b.smask &&& b.tmask == 0) &&
     if digits then
       bs.map (fun b => (b.smask, b.tmask)) ==
         (List.range D).map fun g => (maskOf (digitOf cc.level (dAlpha x.bytes) g), maskOf (digitRest ch cc.level (dAlpha x.bytes) g))
     else bs.length == 1) stChainMismatch,
    row 0 false (!(op == .rescale && x.ops.any fun o => o.card.ty == tyU32P) ||
     s.pairedOk cc.chain (bs.flatMap fun b => basisOf b.smask ++ basisOf b.tmask)) stBadModulus,
   row 5 true (digits || (if op = .rescale then
       [0, 1, 4].all fun k => dims k == limbWords (x.opD k).card.ty b.ns
     else dims 0 == b.ns && dims 4 == b.nt)) stShapeFault]

/-- The checks of a key map and its limb images (R158, R159). -/
def State.keyChecks (s : State) (h : HF) (x : Slot) : List Chk :=
  let loc := locOf x.bytes 96
  let cc := x.scard.getD (parseCipher [])
  let ch := s.chain cc.chain
  let qp := extBasis ch cc.level
  let n := 16 * x.aux.length
  let c := chk 7 8 0
  [c true (s.structOk h loc 64 n) stProtFault, clean 8 true (s.structBad loc n),
   c true (x.aux.all fun e => kmEntryOk s h cc.degree (e.2.take 16)) stProtFault,
   clean 8 false (x.aux.any fun e => s.poisoned (kmOwner e.2) (kmBase e.2) 64),
   c false (x.aux.all fun e =>
     let hdr := e.2.drop 16
     hdr.take 16 == keyTag cc (field x.bytes 88 4) ch.phash (e.1 / qp.length) &&
       field hdr 48 2 == qp.getD (e.1 % qp.length) 0 && byteAt hdr 50 == cc.log2n && zeroAt hdr 51 13) stKeyMismatch]

/-- A step of a pattern program is well formed (R125). C of 0, which Table 05-11 does not permit, is BAD_PATTERN
(DESIGN CHOICE, log 60). -/
def ppStepOk (img : List Byte) (i : Nat) : Bool :=
  let st := ppStep img i
  let slices := ppSlices img
  if ppSteps img ≤ i then zeroAt st 0 16
  else if byteAt st 0 = 1 then
    let e0 := field st 4 2
    let n := field st 6 2
    decide (byteAt st 1 ≤ 5) && decide (byteAt st 2 ≤ 5) && byteAt st 1 != byteAt st 2 && zeroAt st 3 1 && zeroAt st 11 5 &&
      decide (1 ≤ n) && decide (e0 + n ≤ 1024) && (onesOf 24 (field st 8 3)).all fun m =>
        slices.contains m && decide (e0 + n ≤ ppIcount img m)
  else byteAt st 0 == 2 && bits (byteAt st 1) 3 5 == 0 && bits (byteAt st 2) 3 5 == 0 && zeroAt st 3 1 &&
    field st 8 8 / 2 ^ 45 == 0

/-- The entries of slice n's image that the program's steps use. -/
def ppUsed (img : List Byte) (n : Nat) : List Nat :=
  (List.range (ppSteps img)).flatMap fun i =>
    let st := ppStep img i
    if byteAt st 0 = 1 ∧ (onesOf 24 (field st 8 3)).contains n then (List.range (field st 6 2)).map (field st 4 2 + ·) else []

/-- The sign mask of a pattern entry. -/
def peSign (e : Nat) : Nat := if peFmtX e then bits e 3008 128 else bits e 3456 128

/-- Beats of a schedule with words of 64 to the beat (R84, R225). -/
def schedBeats (b : List Byte) : Nat := sumOf ((parseSched [] b).rounds.map fun r => ceilDiv (maxOf r.words) 64)

/-- The checks of a pattern program, its entries and its schedules (R124, R125, R225). PIN or POUT above 5 and a slice
that the variant lacks in SLICES are BAD_PATTERN, and a misaligned program, image or schedule is PROT_FAULT (DESIGN
CHOICE, log 60). -/
def State.patternChecks (s : State) (h : HF) (x : Slot) : List Chk :=
  let loc := locOf x.bytes 88
  let pid := field x.bytes 84 2
  let img := x.image
  let slices := ppSlices img
  let exs := ppExchanges img
  let word (n : Nat) := ppEntryWord img n
  let entry (n e : Nat) := imageEntry (tget x.aux n []) e
  let ty := (x.opD 0).card.ty
  [chk 7 8 0 true (s.structOk h loc 64 512) stProtFault, clean 8 true (s.structBad loc 512),
   chk 7 8 0 true (field img 0 2 == pid && byteAt img 2 == h.val && bits (byteAt img 4) 3 5 == 0 && bits (byteAt img 5) 3 5 == 0 &&
     zeroAt img 6 2 && zeroAt img 11 53 &&
     ((List.range 24).all fun n => if slices.contains n then bits (word n) 54 10 == 0 && bits (word n) 40 4 == 0 else word n == 0) &&
     decide (1 ≤ ppSteps img) && decide (ppSteps img ≤ 16) && ((List.range 16).all (ppStepOk img)) &&
     ppPin img != ppPout img && decide (ppPin img ≤ 5) && decide (ppPout img ≤ 5) && (slices.all fun n => decide (n < s.nslices)) &&
     (s.holders (x.opD 0) ++ s.holders (x.opD 4)).all fun n => slices.contains n) stBadPattern] ++
  (slices.flatMap fun n =>
    [chk 7 9 0 true (ppImageAddr img n % 512 == 0 && s.locOk h n (ppImageAddr img n) (512 * ppIcount img n)) stProtFault,
     clean 9 false (s.poisoned n (ppImageAddr img n) (512 * ppIcount img n)),
     chk 7 9 0 false ((List.range (ppIcount img n)).all fun e =>
       patternEntryOk (entry n e) h.val pid && imageTailOk (tget x.aux n []) e) stBadPattern]) ++
  (exs.flatMap fun i =>
    let b := tget x.aux (100 + i) []
    [chk 7 9 0 true (s.structOk h (ppSched img i) 64 64 && s.structOk h (ppSched img i) 64 (schedBytes b)) stProtFault,
     clean 9 true (s.structBad (ppSched img i) (schedBytes b)),
     chk 7 9 0 true (schedOk b h.val pid slices) stBadPattern,
     chk 7 9 0 false (!dSealed x.bytes || decide (schedBeats b ≤ 2071)) stBadPattern]) ++
  [chk 7 9 0 false (!isResidue ty || (binding x.bytes).axis == 6 ||
     slices.all fun n => (ppUsed img n).all fun e => peSign (entry n e) == 0) stBadModulus]

/-- The checks of a tile program (Table 08-9); the walk runs on the snapshot. The operands and the chain come before them, at stages 4
to 6 of Table 11-5; then the image's location, its header and the walk follow (DESIGN CHOICE, log 61). -/
def State.tileChecks (s : State) (h : HF) (x : Slot) : List Chk :=
  let loc := locOf x.bytes 88
  let img := x.image
  let c (ok : Bool) (st : W16) : Chk := ⟨ok, st, 0xFFFF, true⟩
  let slots := x.ops.map fun o => (⟨o.slot, o.card.ty, o.card.tparam, (piSlices img).map (s.blockRows o)⟩ : WSlot)
  let held := (x.ops.flatMap s.holders).all fun n => (piSlices img).contains n
  let walkRes := walk s img slots ((piProg img).map tiOf) 0 0 (loadUnit img 0 0) []
  [c (s.structOk h loc 64 64 && s.structOk h loc 64 (piBytes img)) stProtFault, clean 8 true (s.structBad loc (piBytes img)),
   c (bits (byteAt img 2) 0 4 == h.val) stProtFault, c (piHeaderOk img s.nslices && held) stShapeFault] ++
  match walkRes with
  | none => []
  | some (st, k) => [⟨false, st, k, true⟩]

def State.stage7 (s : State) (h : HF) (op : Op) (x : Slot) : List Chk :=
  match op with
  | .digits => s.tableChecks h op x
  | .baseconv => s.tableChecks h op x
  | .rescale => s.tableChecks h op x
  | .ksip => s.keyChecks h x
  | .pattern => s.patternChecks h x
  | .tileprog => s.tileChecks h x
  | _ => []

/-! ### Stage 8: budget and level -/

def State.stage8 (s : State) (op : Op) (x : Slot) : List Chk :=
  match x.scard with
  | none => []
  | some cc =>
    let c := chk 8 15 0 false
    let dropped := droppedOrdinary (s.chain cc.chain) x.image
    let e := dropped.length
    c (decide (dMinbud x.bytes ≤ signed cc.budget.toNat 16)) stBudgetExhausted ::
      if op = .rescale ∧ e ≠ 0 then
        [c (cc.level != 0 && decide (e ≤ cc.level)) stBudgetExhausted,
         c (dropped == ((List.range e).map fun i => cc.level - e + 1 + i) &&
           ((tableBlocks x.image).map (·.smask)).headD 0 == maskOf (List.range (cc.level - e + 1))) stChainMismatch]
      else []

/-! ### Stage 9: resources -/

/-- Operands of earlier members that the chain holds in the Ricks, and which the descriptor does not itself name; `named`
holds the resident sources of the whole chain (R264, R381). -/
def heldOthers (ms : List Member) (named : List (Nat × Nat)) (x : Slot) : List OpSnap :=
  let all := ms.flatMap fun m => m.ops.filter fun o => o.res || (decide (o.slot < 4) && named.contains (o.stack, o.addr))
  let mine := x.ops.map fun o => (o.stack, o.addr)
  let uniq := all.foldl (fun (acc : List OpSnap) o =>
    if acc.any (fun y => y.stack == o.stack && y.addr == o.addr) then acc else o :: acc) []
  uniq.filter fun o => !mine.contains (o.stack, o.addr)

/-- The most Rick pools that any slice of the plan needs (R381). -/
def State.poolsNeeded (s : State) (pl : Plan) (held : List OpSnap) : Nat :=
  maxOf (pl.slices.map fun n => pl.pools + (held.filter fun o => (s.holders o).contains n).length)

/-- Translations of a descriptor: distinct cache entries (R36). -/
def State.translationsOf (s : State) (reqs : List XReq) : Nat :=
  ((reqs.filterMap fun x => s.translation x.hf x.pasid x.iova).foldl
    (fun (acc : List TEntry) e => if acc.contains e then acc else e :: acc) []).length

/-! ### Stage 10: overlap -/

def State.stage10 (op : Op) (ms : List Member) (x : Slot) : List Chk :=
  let srcs := x.sourceRanges op
  let dsts := x.destRanges
  -- step 7 of Table 02-4 is the step of an operand alone (R269)
  (dsts.zipIdx.map fun e =>
    chk 10 e.1.1 (if e.1.1 < 6 then 7 else 0) false
      (!(srcs.any fun g => e.1.2.meets g) && !((dsts.take e.2).any fun o => o.1 != e.1.1 && e.1.2.meets o.2)) stOverlap) ++
  dsts.map fun e => chk 10 e.1 0 false (!(ms.any fun m => m.srcs.any fun g => e.2.meets g)) stOverlap

/-! ### The whole pre-check -/

/-- The first failing check of a list. -/
def firstBad : List Chk → Option Chk
  | [] => none
  | c :: cs => if c.ok then firstBad cs else some c

/-- DETAIL of a failed check: 0xFFFF for a TILEPROG's header and operands (R193, R269). -/
def Chk.detailFor (c : Chk) (op : Option Op) : W16 :=
  BitVec.ofNat 16 (if op = some .tileprog ∧ c.st ≠ stSourceCorrupt ∧ 4096 ≤ c.detail then 0xFFFF else c.detail)

/-- Whether the header names a chain member: it has LINK = 1, or an earlier member had. -/
def inChain (ms : List Member) (d : List Byte) : Bool := !ms.isEmpty || dLink d

/-- The pools that the plan and the chain's resident operands need in a slice (R264, R381). -/
def State.chainPools (s : State) (op : Op) (ms : List Member) (named : List (Nat × Nat)) (x : Slot) : Nat :=
  s.poolsNeeded (s.planOf op x) (heldOthers ms named x)

/-- The pool rule of R264, a check of stage 2 that rests on the operands as the snapshot has them (log 16). -/
def State.poolRule (s : State) (op : Op) (ms : List Member) (named : List (Nat × Nat)) (x : Slot) : List Chk :=
  if !(heldOthers ms named x).isEmpty || x.ops.any (·.res) then
    [chk 2 15 0 true (decide (s.chainPools op ms named x ≤ 6)) stShapeFault]
  else []

/-- Stages 1 to 3. -/
def State.headChecks (s : State) (r : RingId) (h : HF) (op : Op) (ms : List Member) (named : List (Nat × Nat)) (x : Slot) :
    List Chk :=
  let d := x.bytes
  let p := scardPtr d
  let passed := (ms.filterMap (·.card)).any fun c => c.1 == p.stack && c.2.1 == p.addr
  stage1 s op d ++ s.fallbackChecks r op d ++ stage2 op d ms (inChain ms d) ++ s.poolRule op ms named x ++ s.stage3 h op x passed

/-- All checks of a descriptor of host function h with an assigned opcode, after its snapshot `x`. -/
def State.allChecks (s : State) (r : RingId) (h : HF) (op : Op) (ms : List Member) (named : List (Nat × Nat)) (x : Slot) :
    List Chk :=
  s.headChecks r h op ms named x ++ s.stage4 r h op x ++ s.stage5 op x ++ s.stage6 h op x ++ s.stage7 h op x ++ s.stage8 op x ++
    (if dSealed x.bytes then
      [chk 9 15 0 true (decide (s.chainPools op ms named x ≤ 6)) stShapeFault,
       chk 9 15 0 true (decide (s.publishedDur x (s.planOf op x) ≤ 2 ^ 31)) stShapeFault,
       chk 9 15 0 false (decide (s.translationsOf (s.pagesNeeded r h op x) ≤ 128)) stXlateFault]
     else []) ++ State.stage10 op ms x

/-- The outcome of a pre-check: the descriptor with status, DETAIL, DUR, cost and snapshots, and the pages that must be
translated first. -/
structure PreResult where
  slot : Slot
  needs : List XReq
  deriving Repr

/-- Whether a page is neither in the cache nor known to have no translation. -/
def State.unresolved (s : State) (x : XReq) : Bool :=
  (s.translation x.hf x.pasid x.iova).isNone && !s.knownAbsent x.hf x.pasid x.iova

/-- The cache with the translations that a pre-check has obtained and that have left it since (R36). -/
def State.withSeen (s : State) (d : Slot) : State :=
  { s with xl := { s.xl with cache := s.xl.cache ++ d.seen.filter fun e => !s.xl.cache.contains e } }

/-- The translations that serve some pages. -/
def State.entriesOf (s : State) (xs : List XReq) : List TEntry :=
  (xs.filterMap fun x => s.translation x.hf x.pasid x.iova).foldl
    (fun (acc : List TEntry) e => if acc.contains e then acc else acc ++ [e]) []

/-- The pages that a pre-check still asks for: those that no translation so far serves; and, for a Sealed descriptor that will pin its
translations, those that have left the cache `now` again (R36). -/
def State.asksFor (s now : State) (sealed : Bool) (xs : List XReq) : List XReq :=
  let open_ := xs.filter s.unresolved
  if open_.isEmpty && sealed && decide ((s.entriesOf xs).length ≤ 128) then xs.filter now.unresolved else open_

/-- The pre-check of one descriptor (R268). DUR of a Sealed refusal is 256 when any check of R227 fails, whichever failed
first; SEALED_UNAVAILABLE is not padded (R228) and an Open record's DUR is 0 until it runs. -/
def State.preCheckOne (s : State) (r : RingId) (ms : List Member) (named : List (Nat × Nat)) (d : Slot) : PreResult :=
  let h := s.ringHost r
  match opOf d.bytes with
  | none =>
    { slot := { d with
        status := stBadOpcode, detail := 0x1F00, dur := if dSealed d.bytes then 256 else 0, refusal := dSealed d.bytes
        phase := .checked }
      needs := [] }
  | some op =>
    let now := s
    let s := s.withSeen d
    let x := s.snapshot h op ms d
    -- what the reads met stands; the hearthstone region is read as it is
    let s := { s with poison := x.bad ++ s.badIn [⟨0, 0, 0x400_0000⟩] }
    let cs := s.allChecks r h op ms named x
    let pl := s.planOf op x
    let first := firstBad cs
    let needs := match firstBad (s.headChecks r h op ms named x) with
      | some _ => if dSealed d.bytes then s.pagesNeeded r h op x else []
      | none => s.pagesNeeded r h op x
    let status := match first with | none => stDone | some c => c.st
    let timed := dSealed d.bytes || op == .flood
    let dur := if !timed || status = stSealedUnavailable then 0
      else if status = stDone then s.publishedDur x pl
      else if !dSealed d.bytes then 0
      else if cs.any fun c => !c.ok && c.d256 then 256 else s.publishedDur x pl
    { slot := { x with
        status := status, detail := match first with | none => 0 | some c => c.detailFor (some op)
        dur := dur, cost := s.costOf x pl, heldIn := (heldOthers ms named x).flatMap s.holders
        refusal := dSealed d.bytes && status != stDone && status != stSealedUnavailable && cs.any fun c => !c.ok && c.d256
        seen := s.entriesOf needs
        phase := if op = .flood ∧ status = stDone then .waitKey else .checked }
      needs := s.asksFor now (dSealed d.bytes) needs }

end Sys2Proof.Machine
end

