-- ==== Sys2Proof/Machine/Request.lean ====
section
/-! DEFINITION. The system matrix: requests with their tags (R93) and host function tags (R96), the FIFOs that hold their
senders (R97), the arbiters of its targets (R92, R100, R101), the spacing of Sealed requests (R222). -/

namespace Sys2Proof.Machine

/-- The place of x after y on a circle of n. -/
def after (n y x : Nat) : Nat := (x + n - y % n - 1) % n

/-- The item number of a descriptor fetch, whose data DESCRIPTOR_FETCHED brings (R255). -/
def itemFetch : Nat := 62

/-- The item number under which the requests of an aborted attempt, or of a fetch that is given up, stand until their responses have
arrived (R93). -/
def itemAbandoned : Nat := 63

/-- The same, when a fence has aborted the attempt (R346). -/
def itemFenced : Nat := 61

/-- A request that is given up: it keeps its tag, and nothing else, until its response (R93). -/
def Req.abandoned (q : Req) (fence : Bool) : Req := { q with item := if fence then itemFenced else itemAbandoned, r := 0, p := 0 }

/-- A request that has been given up. -/
def Req.stray (q : Req) : Bool := q.item == itemAbandoned || q.item == itemFenced

/-! ### FIFOs (Table 04-8) -/

/-- A request FIFO with its data FIFO: entries of each, and the width of a data entry in bytes. -/
structure Fifo where
  entries : Nat
  words : Nat
  width : Nat
  deriving DecidableEq, Repr

def fifoLane : Fifo := ⟨32, 32, 1024⟩
def fifoStack : Fifo := ⟨64, 64, 1024⟩
def fifoBypass : Fifo := ⟨32, 16, 256⟩
def fifoHost : Fifo := ⟨64, 128, 256⟩
def fifoStoke : Fifo := ⟨16, 16, 128⟩
def fifoCore : Fifo := ⟨8, 16, 64⟩
def fifoSram : Fifo := ⟨8, 16, 64⟩
def fifoRegs : Fifo := ⟨16, 16, 8⟩
def fifoStore : Fifo := ⟨8, 8, 64⟩
def fifoTurf : Fifo := ⟨16, 16, 64⟩
def fifoMailbox : Fifo := ⟨4, 8, 64⟩
def fifoMgmt : Fifo := ⟨4, 8, 64⟩

/-- A request of a stack port's own mover, on the direct lane (R100, R101). -/
def Req.lane (q : Req) : Bool := decide (q.port.val < 24) && q.master == q.port.val

/-- The FIFO by which a request enters the matrix, with its number: that of the mover's direct lane, of the Stoke fetcher, of
the bypass input, of the host port (log 68). -/
def Req.fifo (q : Req) : Nat × Fifo :=
  if q.lane then (q.master, fifoLane)
  else if 24 ≤ q.master ∧ q.master < 28 then (q.master, fifoStoke)
  else if q.master = 28 ∨ q.master = 29 ∨ q.master = 30 ∨ q.master = 31 then (q.master, fifoCore)
  else if q.port.val < 24 then (40 + q.port.val, fifoBypass)
  else (64, fifoHost)

/-- Data entries that a request takes. -/
def Req.dataWords (q : Req) : Nat := if q.wr then ceilDiv q.len q.fifo.2.width else 0

/-- A request that stands in its FIFO: it has a tag and no grant. -/
def Req.queued (q : Req) : Bool := q.tag.isSome && q.grant.isNone

/-- The FIFO of a request has room for it beside those of a list that stand in it (R97). -/
def Req.fits (q : Req) (qs : List Req) : Bool :=
  let same := qs.filter fun x => x.queued && x.fifo.1 == q.fifo.1
  decide (same.length < q.fifo.2.entries) && (same.isEmpty || decide (sumOf (same.map Req.dataWords) + q.dataWords ≤ q.fifo.2.words))

/-! ### Issue -/

/-- A tag that no request of the master in this direction holds: the lowest (R93; DESIGN CHOICE, log 94: the rule does not say which). -/
def freeTag (qs : List Req) (m : Nat) (wr : Bool) : Option (Fin 512) :=
  (List.finRange 512).find? fun t => !(qs.any fun q => q.master == m && q.wr == wr && q.tag == some t)

/-- Where the spacing of a descriptor's requests to one memory is kept. -/
def spaceKey (r : RingId) (p : W32) (port : Nat) : Nat := (r.val * 2 ^ 32 + p.toNat) * 32 + port

/-- The cycle in which a request may be issued, no earlier than `now` and than its own first cycle (R222, R376). -/
def Ports.issueAt (x : Ports) (q : Req) (now : Nat) : Nat :=
  let from_ := max now q.issued
  if q.gap = 0 then from_
  else match x.spaced.find? fun e => e.1 == spaceKey q.r q.p q.port.val with
    | none => from_
    | some e => max from_ (e.2 + q.gap)

/-- The requests that their senders hold and that can now go: in order, each with a free tag of its master and direction and
room in its FIFO, and none past an earlier one of the same master and direction or of the same FIFO (R93, R97). -/
def Ports.acceptFrom (now : Nat) : List Req → List Req → Ports → Ports
  | done, [], x => { x with reqs := done }
  | done, q :: rest, x =>
    let all := done ++ q :: rest
    let behind := done.any fun y => y.tag.isNone && ((y.master == q.master && y.wr == q.wr) || y.fifo.1 == q.fifo.1)
    if q.tag.isSome || behind || !q.fits all then Ports.acceptFrom now (done ++ [q]) rest x
    else match freeTag all q.master q.wr with
      | none => Ports.acceptFrom now (done ++ [q]) rest x
      | some t =>
        let at_ := x.issueAt q now
        let x := if q.gap = 0 then x else { x with spaced := tput x.spaced (spaceKey q.r q.p q.port.val) at_ }
        Ports.acceptFrom now (done ++ [{ q with tag := some t, issued := at_ }]) rest x

def Ports.accept (x : Ports) (now : Nat) : Ports := Ports.acceptFrom now [] x.reqs x

/-! ### Arbitration -/

/-- The default master of a target (Table 04-7). -/
def defaultMaster (t : Nat) : Nat :=
  if t < 24 then t else if t = 25 then 29 else if t = 26 ∨ t = 27 then 28 else if t = 28 then 31 else 24

/-- The requests that ask for a grant: the oldest of each master in each FIFO. -/
def Ports.heads (x : Ports) : List Req :=
  (x.reqs.filter Req.queued).foldl (fun acc q =>
    if acc.any fun y => y.master == q.master && y.fifo.1 == q.fifo.1 then acc else acc ++ [q]) []

def Ports.arb (x : Ports) (t : Nat) : Arb := tget x.arbs t {}

/-- The cycle from which a request can be granted by its target's arbiter: the bypass input carries 256 bytes per cycle, reads
and writes together (R101). -/
def Arb.ready (a : Arb) (q : Req) : Nat := if q.port.val < 24 ∧ !q.lane then max q.issued a.bypNext else q.issued

/-- The first of some requests in the round robin after the master granted last (R92). -/
def Arb.first (a : Arb) (qs : List Req) : Option Req :=
  qs.foldl (fun (best : Option Req) q => match best with
    | none => some q
    | some b => if after 34 a.last q.master < after 34 a.last b.master then some q else some b) none

/-- Those of some requests that come first at a stack port: Sealed ones; then the direct lane and the bypass input in turn
(R100). -/
def Arb.classed (a : Arb) (qs : List Req) : List Req :=
  let qs := if qs.any (·.sealed) then qs.filter (·.sealed) else qs
  let other := qs.filter fun q => q.lane == a.byp
  if other.isEmpty then qs else other

/-- The next grant of target t: its cycle and its request (R92). A request that finds the target parked on its own master is
granted as it arrives, any other one cycle later; requests that wait are granted one per cycle. -/
def Arb.nextGrant (a : Arb) (t : Nat) (qs : List Req) : Option (Nat × Req) :=
  match qs with
  | [] => none
  | q :: rest =>
    let from_ := rest.foldl (fun m x => min m (a.ready x)) (a.ready q)
    let present (c : Nat) := qs.filter fun x => decide (a.ready x ≤ c)
    if from_ < a.next then (a.first (a.classed (present a.next))).map fun x => (a.next, x)
    else match (present from_).find? fun x => x.master == defaultMaster t && (x.sealed || !(present from_).any (·.sealed)) with
      | some x => some (from_, x)
      | none => (a.first (a.classed (present (from_ + 1)))).map fun x => (from_ + 1, x)

/-- The arbiter after a grant in cycle c; a write takes the host port's 256 bytes per cycle (Table 04-9). -/
def Arb.granted (a : Arb) (q : Req) (c : Nat) : Arb :=
  { last := q.master, byp := !q.lane
    next := if q.port.val = 24 ∧ q.wr then c + max 1 (ceilDiv q.len 256) else c + 1
    bypNext := if q.port.val < 24 ∧ !q.lane then c + max 1 (ceilDiv q.len 256) else a.bypNext }

/-- The earliest grant of any target. -/
def Ports.nextGrant (x : Ports) : Option (Nat × Req) :=
  (List.range 25).foldl (fun (best : Option (Nat × Req)) t =>
    match best, (x.arb t).nextGrant t (x.heads.filter fun q => q.port.val == t) with
    | none, g => g
    | some b, none => some b
    | some b, some g => if g.1 < b.1 then some g else some b) none

/-- Request q is granted in cycle c, and those that its FIFO held go on. -/
def Ports.grant (x : Ports) (c : Nat) (q : Req) : Ports :=
  ({ x with
    reqs := x.reqs.map fun y => if y = q then { y with grant := some c } else y
    arbs := tput x.arbs q.port.val ((x.arb q.port.val).granted q c) } : Ports).accept c

/-- The grants up to cycle c, n at most. -/
def Ports.grantTo (c : Nat) : Nat → Ports → Ports
  | 0, x => x
  | n + 1, x =>
    match x.nextGrant with
    | none => x
    | some g => if g.1 ≤ c then Ports.grantTo c n (x.grant g.1 g.2) else x

/-- The request of a master, direction and tag. -/
def Ports.tagged (x : Ports) (m : Nat) (wr : Bool) (t : Fin 512) : Option Req :=
  x.reqs.find? fun q => q.master == m && q.wr == wr && q.tag == some t

/-- The grants up to that of the request of a master, direction and tag, n at most. -/
def Ports.grantUntil (m : Nat) (wr : Bool) (t : Fin 512) : Nat → Ports → Ports
  | 0, x => x
  | n + 1, x =>
    if ((x.tagged m wr t).bind (·.grant)).isSome then x
    else match x.nextGrant with
      | none => x
      | some g => Ports.grantUntil m wr t n (x.grant g.1 g.2)

/-- Adds a request: what has been granted by now stands, and it goes as soon as its tag and its FIFO permit (R93, R97). -/
def State.request (s : State) (q : Req) : State :=
  let x := Ports.grantTo s.clk.pclk s.ports.reqs.length s.ports
  { s with ports := ({ x with reqs := x.reqs ++ [{ q with tag := none, grant := none }] } : Ports).accept s.clk.pclk }

/-- The response to a request comes after its grant: the clock has reached it (R92). -/
def State.reachGrant (s : State) (m : Nat) (wr : Bool) (t : Fin 512) : State :=
  let x := Ports.grantUntil m wr t s.ports.reqs.length s.ports
  { s with
    ports := x
    clk := { s.clk with pclk := max s.clk.pclk (((x.tagged m wr t).bind (·.grant)).getD 0) } }

/-- The requests of descriptor p of ring r take the class, the host function and the spacing of the descriptor: a Sealed one
and a FLOOD keep 5 cycles between requests to a stack and 20 at the host port (R96, R222, R240). -/
def State.tagged (s : State) (d : Slot) (r : RingId) (q : Req) : Req :=
  { q with
    hf := s.ringHost r, sealed := dSealed d.bytes
    gap := if dSealed d.bytes || opOf d.bytes == some .flood then (if q.port.val = 24 then 20 else 5) else 0 }

/-- Whether a request of descriptor p of ring r has no response yet. -/
def State.outstanding (s : State) (r : RingId) (p : W32) : Bool := s.ports.reqs.any fun q => q.r == r && q.p == p

/-- Forgets the spacing of a descriptor's requests. -/
def State.dropSpacing (s : State) (r : RingId) (p : W32) : State :=
  { s with ports := { s.ports with spaced := s.ports.spaced.filter fun e => e.1 / 32 != spaceKey r p 0 / 32 } }

/-! ### The requests of a run -/

/-- The space and address of a piece of an operand, now. -/
def OpSnap.place (o : OpSnap) (pc : Piece) : Nat × Nat := let l := o.locate pc.off; (l.1, l.2.1)

/-- One request of an operand's piece, made by the mover of slice n or of its buddy (R101, R104, R108). -/
def State.pieceReq (s : State) (r : RingId) (d : Slot) (wr : Bool) (o : OpSnap) (e : Nat × Piece) : Req :=
  let l := o.place e.2
  s.tagged d r
    { port := Fin.ofNat 25 l.1, master := s.serve e.1, tag := none, wr := wr, r := r, p := d.idx, item := o.slot, addr := l.2
      len := e.2.len, issued := s.clk.pclk, overdue := false }

/-- The requests for some positions of an operand, in order (R33). -/
def State.operandReqs (s : State) (r : RingId) (d : Slot) (wr : Bool) (o : OpSnap) (ks : List Nat) : List Req :=
  (s.opPieces d o ks).map (s.pieceReq r d wr o)

/-- A read of a structure on a stack by a master; item 8 (R269). -/
def State.structReq (s : State) (r : RingId) (d : Slot) (item m stack : Nat) (pc : Piece) : Req :=
  s.tagged d r
    { port := Fin.ofNat 25 stack, master := m, tag := none, wr := false, r := r, p := d.idx, item := item, addr := pc.off
      len := pc.len, issued := s.clk.pclk, overdue := false }

/-- The Stoke fetcher that serves a ring (Table 04-6). -/
def State.fetcher (s : State) (r : RingId) : Nat := 24 + (s.quarterOf r).getD 0

/-- The opcode reads a constant table (R149). -/
def Op.hasTable : Op → Bool
  | .digits => true
  | .baseconv => true
  | .rescale => true
  | _ => false

/-- Halves of 20 KiB that the broadcast of a constant table fills, one after another: of a table of at most 40 KiB the whole at once, of a
longer one as many as it has, for each wave of a BASECONV again (R150). -/
def Slot.tableHalves (d : Slot) : Nat := if 40960 < d.image.length then ceilDiv d.image.length 20480 else 1

/-- Halves that a streamed table's broadcast fills before its slices have finished with one. -/
def Slot.firstHalves (d : Slot) : Nat := if (opOf d.bytes).any Op.hasTable then min 2 d.tableHalves else 0

/-- The reads of half i of a broadcast: part i mod H of a table of H halves, or the whole of a table that the buffer holds (R150). -/
def State.halfReqs (s : State) (r : RingId) (d : Slot) (i : Nat) : List Req :=
  let w := locOf d.bytes 88
  let H := d.tableHalves
  let a := if H = 1 then 0 else i % H * 20480
  let n := if H = 1 then d.image.length else min 20480 (d.image.length - a)
  (blockRequests (locAddr w + a) n).map (s.structReq r d 8 (s.fetcher r) (locStack w))

/-- The reads of a constant table that a descriptor makes at first (R150). -/
def State.tableReqs (s : State) (r : RingId) (d : Slot) : List Req := (List.range d.firstHalves).flatMap (s.halfReqs r d)

/-- The slice that processes the limb of image e of a key map (R164). -/
def State.keyHome (s : State) (d : Slot) (e : Nat) : Nat :=
  let cc := d.scard.getD (parseCipher [])
  s.sliceAt (d.opD 4) (e % (extBasis (s.chain cc.chain) cc.level).length * d.degree)

/-- The reads of a descriptor's run: its sources in memory, a Sealed SCATTER's destination (R139), the body of a constant table
(R150), pattern images (R71) and key streams (R164). -/
def State.readReqs (s : State) (r : RingId) (d : Slot) : List Req :=
  (d.readOps.flatMap fun o => s.operandReqs r d false o (s.touchedOf d o)) ++
    match opOf d.bytes with
    | some .pattern => (patternLoads d.image).map fun e => s.structReq r d 9 (s.serve e.1) e.1 e.2
    | some .ksip =>
      (keyStreams (d.scard.getD (parseCipher [])) d.aux).map fun e => s.structReq r d 8 (s.serve (s.keyHome d e.1)) e.2.1 e.2.2
    | some .digits => s.tableReqs r d
    | some .baseconv => s.tableReqs r d
    | some .rescale => s.tableReqs r d
    | _ => []

/-- The positions of a destination that a run writes: those that an Open SCATTER has set, those that a TILEPROG has written
(R136, R180), otherwise all that the PTU touches. -/
def State.writtenOf (s : State) (d : Slot) (e : Effect) (o : OpSnap) : List Nat :=
  if (opOf d.bytes = some .scatter ∧ !dSealed d.bytes) ∨ opOf d.bytes = some .tileprog then
    let ks := (e.vals.filter fun v => v.1 == o.slot).flatMap fun v => v.2.map (·.1)
    o.card.positions.filter ks.contains
  else s.touchedOf d o

/-- The writes of a descriptor's run that are not on their way yet. -/
def State.writeReqs (s : State) (r : RingId) (d : Slot) (e : Effect) : List Req :=
  d.writeOps.flatMap fun o =>
    let ks := s.writtenOf d e o
    s.operandReqs r d true o (if o.slot = 4 ∧ !d.sent.isEmpty then ks.filter fun k => !d.sent.contains k else ks)

end Sys2Proof.Machine
end

