-- ==== Sys2Proof/Machine/Ring.lean ====
section
/-! DEFINITION. What the rows of Stoke share: translation requests (R35, R345), pins (R36, R37), where the bytes of a
ring lie, the phases of a fetched descriptor, its return to the ring (R276), what its end releases, and the ring order
of R255 and R256. -/

namespace Sys2Proof.Machine

/-! ### Translation requests -/

/-- Requests of a host function among the outstanding ones. -/
def Xlate.count (x : Xlate) (h : HF) : Nat := (x.reqs.filter fun q => q.hf == h).length

/-- Outstanding requests beyond the 2 that each host function is guaranteed (R345). -/
def Xlate.sharedUsed (x : Xlate) : Nat := sumOf ((List.finRange 16).map fun h => x.count h - 2)

/-- Whether a host function may issue a translation request (R345). -/
def Xlate.mayIssue (x : Xlate) (h : HF) : Bool := decide (x.count h < 2) || (decide (x.sharedUsed < 32) && decide (x.count h < 18))

/-- Issues a translation request (R36), or lets it wait for a slot (R345); a page already asked for is not asked again. -/
def State.requestPage (s : State) (x : XReq) : State :=
  if s.xl.reqs.contains x || s.xl.waiting.contains x then s
  else
    let s := s.teleHost x.hf 8 1
    if s.xl.mayIssue x.hf then
      ({ s with xl := { s.xl with reqs := s.xl.reqs ++ [x] } } : State).emit (.xlReq x.hf x.pasid x.iova)
    else { s with xl := { s.xl with waiting := s.xl.waiting ++ [x], since := s.xl.since ++ [(x, s.clk.pclk)] } }

def State.requestPages (s : State) (xs : List XReq) : State := xs.foldl State.requestPage s

/-- A page is translated by an entry. -/
def TEntry.covers (e : TEntry) (x : XReq) : Bool :=
  e.hf == x.hf && e.pasid == x.pasid && decide (e.iova ≤ x.iova) && decide (x.iova < e.iova + e.size)

/-- An entry shares a page with an invalidated range. -/
def TEntry.meets (e : TEntry) (x : XReq) (size : Nat) : Bool :=
  e.hf == x.hf && e.pasid == x.pasid && decide (e.iova < x.iova + size) && decide (x.iova < e.iova + e.size)

/-- A use of a page makes its entry the most recently used. -/
def State.touchPage (s : State) (x : XReq) : State :=
  let hit := s.xl.cache.filter fun e => e.covers x
  { s with xl := { s.xl with cache := (s.xl.cache.filter fun e => !e.covers x) ++ hit } }

/-- Forgets that pages have no translation, when what asked for them ends (R36). -/
def State.clearAbsent (s : State) (xs : List XReq) : State :=
  { s with xl := { s.xl with absent := s.xl.absent.filter fun x => !xs.contains x } }

/-- The page of a SIGNAL's write, as it was translated last. -/
def State.sigMap (s : State) (r : RingId) (d : Slot) (at_ : Nat × Nat) : XlMap :=
  let g := s.sigPage r d.bytes
  { pas := g.1.pas, iova := g.2, size := 4096, phys := at_.2 / 4096 * 4096 }

/-- The pages of a descriptor that a test names hold undefined data from then on, when it is an Open one (R38). -/
def State.markSlot (s : State) (r : RingId) (bad : XlMap → Bool) (d : Slot) : Slot :=
  if dSealed d.bytes then d
  else { d with
    ops := d.ops.map fun o => { o with xl := o.xl.map fun m => if bad m then { m with stale := true } else m }
    sigStale := d.sigStale || (opOf d.bytes == some .signal && sigLoc d.bytes == 0xFF && d.sigAt.any fun a => bad (s.sigMap r d a)) }

/-- The pages of Open descriptors in flight that a test names, by host function and page, hold undefined data from then
on (R38). -/
def State.markMaps (s : State) (bad : HF → XlMap → Bool) : State :=
  { s with ctxs := s.ctxs.map fun (e : Nat × Ctx) =>
      (e.1, { e.2 with slots := e.2.slots.map (s.markSlot e.2.ring (bad (s.ringHost e.2.ring))) }) }

/-- A range of pages has been invalidated (R38). -/
def State.markStale (s : State) (x : XReq) (size : Nat) : State :=
  s.markMaps fun h m =>
    h == x.hf && m.pas == x.pasid && decide (m.iova < x.iova + size) && decide (x.iova < m.iova + m.size)

/-- The translations of a range leave the cache, and the pre-checks that have obtained one ask again; Open descriptors that run on one
hold undefined data (R37, R38). -/
def State.dropEntries (s : State) (x : XReq) (size : Nat) : State :=
  let s : State := { s with
    xl := { s.xl with cache := s.xl.cache.filter fun e => !e.meets x size }
    ctxs := s.ctxs.map fun (e : Nat × Ctx) => (e.1, { e.2 with
      slots := e.2.slots.map fun d => { d with seen := d.seen.filter fun t => !t.meets x size } }) }
  s.markStale x size

/-- Completes the invalidations that no pin delays any more (R37): their entries leave the cache. -/
def State.settleInvals (s : State) : State :=
  s.xl.invals.foldl (fun s v =>
    if (s.xl.cache.any fun e => e.meets v.1 v.2 && !e.pins.isEmpty) then s
    else
      let s : State := { s with xl := { s.xl with invals := s.xl.invals.filter fun w => w != v } }
      (s.dropEntries v.1 v.2).emit (.invDone v.1.hf v.1.iova)) s

/-- Entries of a host function: reserved, shared (R35). -/
def Xlate.own (x : Xlate) (h : HF) : Nat := (x.cache.filter fun e => e.hf == h && !e.shared).length
def Xlate.sharedOf (x : Xlate) (h : HF) : Nat := (x.cache.filter fun e => e.hf == h && e.shared).length
def Xlate.sharedAll (x : Xlate) : Nat := (x.cache.filter (·.shared)).length

/-- The cache with room for one more shared entry of host function h: when all 2048 are taken, the least recently used one
has given way, that of h itself when it holds more than 1024 (R35, R345). -/
def Xlate.roomShared (x : Xlate) (h : HF) : List TEntry :=
  let victim := if x.sharedAll < 2048 then none
    else if 1024 < x.sharedOf h then x.cache.find? fun e => e.shared && e.hf == h
    else x.cache.find? (·.shared)
  match victim with
  | none => x.cache
  | some v => x.cache.erase v

/-- A host function's own entries beyond 128: the least recently used unpinned ones move to the shared entries, n at most
(R35). -/
def Xlate.trim (x : Xlate) (h : HF) : Nat → Xlate
  | 0 => x
  | n + 1 =>
    if x.own h ≤ 128 then x
    else match x.cache.find? fun e => e.hf == h && !e.shared && e.pins.isEmpty with
      | none => x
      | some v =>
        ({ x with cache := (x.roomShared h).map fun e => if e = v then { e with shared := true } else e } : Xlate).trim h n

/-- Pins the translations of Sealed descriptor p of ring r, in its host function's own entries (R36, R345). -/
def State.pin (s : State) (r : RingId) (p : W32) (xs : List XReq) : State :=
  let x : Xlate := { s.xl with cache := s.xl.cache.map fun e =>
    if (xs.any fun x => e.covers x) then { e with pins := e.pins ++ [(r, p)], shared := false } else e }
  { s with xl := x.trim (s.ringHost r) 128 }

/-- Releases the pins of descriptor p of ring r; an entry that is lost, or whose host function has been wiped, goes with its last pin. -/
def State.unpin (s : State) (r : RingId) (p : W32) : State :=
  let cache := s.xl.cache.map fun e => { e with pins := e.pins.filter fun x => x != (r, p) }
  ({ s with xl := { s.xl with cache := cache.filter fun e => !((e.lost || e.ending) && e.pins.isEmpty) } } : State).settleInvals

/-! ### The bytes of a ring -/

/-- Where a byte of a ring lies. -/
inductive RingLoc where
  | here (space addr : Nat) (write : Bool)
  | needs (x : XReq)
  | absent (x : XReq)
  /-- It lies in no grant of the ring's host function (R31). -/
  | denied
  deriving DecidableEq, Repr

/-- The place of address `a` of a ring: a stack, as far as the host function's grants reach (R31), or host memory through its page
(R248). -/
def State.ringLoc (s : State) (r : RingId) (a : Nat) : RingLoc :=
  let e := s.ringEntry r
  if e.loc != 0xFF then (if s.inGrant (s.ringHost r) e.loc a 1 then .here e.loc a true else .denied)
  else
    let x : XReq := ⟨s.ringHost r, if e.pv then some e.pasid else none, a / 4096 * 4096⟩
    match s.translation x.hf x.pasid x.iova with
    | some t => .here 24 (t.phys + (a - t.iova)) t.write
    | none => if s.knownAbsent x.hf x.pasid x.iova then .absent x else .needs x

/-- n bytes of a ring from address a on have been read or written: the translations of their pages are the most recently used (R35,
R345). -/
def State.touchRing (s : State) (r : RingId) (a n : Nat) : State :=
  let e := s.ringEntry r
  if e.loc != 0xFF then s
  else (pagesOf a (a + n - 1)).foldl (fun s pg => s.touchPage ⟨s.ringHost r, if e.pv then some e.pasid else none, pg⟩) s

/-- The host pages of a descriptor's operands have been used (R35, R345). -/
def State.touchOps (s : State) (r : RingId) (os : List OpSnap) : State :=
  (os.flatMap fun o => o.pages.map fun e => (⟨s.ringHost r, e.1.pas, e.2⟩ : XReq)).foldl State.touchPage s

/-- SIZE of a ring (R249). -/
def RingEntry.size (e : RingEntry) : Nat := 2 ^ e.log2size

/-- Address of the descriptor with index p, and of its record (R249). -/
def RingEntry.descAddr (e : RingEntry) (p : W32) : Nat := e.dbase + 128 * (p.toNat % e.size)
def RingEntry.recAddr (e : RingEntry) (p : W32) : Nat := e.cbase + 32 * (p.toNat % e.size)

/-- The ring lies on an orphaned stack: nothing of it is fetched, and no record of it is written, until ptu_rst_n (R338). -/
def State.ringGone (s : State) (r : RingId) : Bool := (s.ringEntry r).loc != 0xFF && s.orphaned (s.ringEntry r).loc

/-- A ring from which Stoke fetches: one that is ENABLED, stopped by an overrun alone, or being flushed (R250, R252, R277,
R307, R322, R361). -/
def State.fetchable (s : State) (r : RingId) : Bool :=
  let x := s.ring r
  (x.st == .enabled || x.flushing || (x.st == .error && x.cause == 1)) && !(s.host (s.ringHost r)).freezing && !s.ctl.quenching && s.ctl.xfer.isNone &&
    !(r.val % 4096 == 0 && (s.host (Fin.ofNat 16 (r.val / 4096))).fbStop) &&
    (if s.isFallback r then (s.ctl.stage == .tinder || s.ctl.stage == .kindling) && !s.edge.fbStopped
      else s.ctl.stage == .banked) && (s.quarterOf r).isSome && !s.ringGone r

/-- No record of the ring is written any more (R254). -/
def Ring.stopped (x : Ring) : Bool := x.st == .error && x.cause != 1

/-! ### Phases -/

/-- A started descriptor without a record. -/
def Phase.active : Phase → Bool
  | .started => true
  | .ran => true
  | .aborted => true
  | .decided => true
  | _ => false

/-- A descriptor that ends without a start: its first failing check, or its place in a failed chain, ends it, and it is
not padded, so that it has no DUR (R226, R228, R254, R271). -/
def Slot.unpadded (d : Slot) : Bool := d.phase == .checked && d.status != stDone && d.dur == 0

/-- A descriptor that a flush completes, or that stood behind a failed member of its chain: it ends without a start (R277, R228). -/
def Slot.flushed (d : Slot) : Slot :=
  { d with phase := .checked, status := stFlushed, detail := 0, dur := 0, chain := none, refusal := false }

/-- A pre-checked Sealed descriptor that waits for admission (R290). -/
def Slot.awaits (d : Slot) : Bool := d.phase == .checked && dSealed d.bytes && !d.unpadded && !d.refusal

/-- The shares of a flood key, and what the expanders, the conversion stage and the adder hold, are zeroed (R242). -/
def Slice.noShares (v : Slice) : Slice :=
  { v with share1 := 0, share2 := 0, seed := 0, shareHf := none, expander := [], conv := 0, adder := 0 }

/-- The share units of some slices are zeroed (R242). -/
def State.wipeShares (s : State) (ns : List Nat) : State :=
  ns.foldl (fun s n => { s with slices := tupd s.slices n {} Slice.noShares }) s

/-- The opcode of a fetched descriptor. -/
def Slot.opc (d : Slot) : Op := (opOf d.bytes).getD .copy
def Slot.isFence (d : Slot) : Bool := opOf d.bytes == some .fence
def Slot.isSignal (d : Slot) : Bool := opOf d.bytes == some .signal

/-! ### Ring order -/

/-- The card of a valid PCARD, which a KSIP may write (R160). -/
def Slot.pcardRange (d : Slot) : List Range :=
  if d.opc = .ksip ∧ bit (locOf d.bytes 104) 45 then [⟨locStack (locOf d.bytes 104), locAddr (locOf d.bytes 104), 64⟩] else []

/-- The ranges that a descriptor writes for R256: destinations, and the card of a valid PCARD. -/
def Slot.written (d : Slot) : List Range := d.destRanges.map (·.2) ++ d.pcardRange

/-- The cards that it writes. -/
def Slot.cardStores (d : Slot) : List Range :=
  (if (dcardPtr d.bytes).valid then [(dcardPtr d.bytes).range] else []) ++ d.pcardRange

/-- The host page of a SIGNAL's write. -/
def State.sigReq (s : State) (r : RingId) (d : Slot) : XReq :=
  let g := s.sigPage r d.bytes
  ⟨s.ringHost r, g.1.pas, g.2⟩

/-- Where a SIGNAL writes VALUE: a stack, or the translated place in host memory; nowhere while its page has no translation in
the cache. -/
def State.sigPlace (s : State) (r : RingId) (d : Slot) : Option (Nat × Nat) :=
  if sigLoc d.bytes = 0xFF then
    let x := s.sigReq r d
    (s.translation x.hf x.pasid x.iova).map fun t => (24, t.phys + (sigAddr d.bytes - t.iova))
  else some (sigLoc d.bytes, sigAddr d.bytes)

/-- The bytes that a descriptor writes for R51: those of the elements that it writes, of its cards, and WADDR of a SIGNAL. -/
def State.stores (s : State) (r : RingId) (d : Slot) : List Range :=
  (d.writeOps.flatMap fun o => (s.writtenOf d (effectOf d.opc s r d) o).map o.elemRange) ++ d.cardStores ++ if d.isSignal && sigWr d.bytes then ((s.sigPlace r d).map fun a => (⟨a.1, a.2, 8⟩ : Range)).toList else []

/-- The bytes that a descriptor reads while it runs: the elements of its sources, and the tables and keys that its result is checked against; what
its pre-check has read stands as its snapshot (R30, R42, R168). -/
def State.loads (s : State) (d : Slot) : List Range :=
  (d.readOps.flatMap fun o => (s.touchedOf d o).map o.elemRange) ++ match d.opc with
    | .digits => d.structRanges .digits
    | .baseconv => d.structRanges .baseconv
    | .rescale => d.structRanges .rescale
    | .ksip => d.structRanges .ksip
    | _ => []

/-- The bytes among some writes that descriptor d touches too (R51). -/
def State.touchedBy (s : State) (r : RingId) (d : Slot) (ws : List Range) : List Range :=
  let mine := s.stores r d ++ s.loads d
  ws.filter fun a => mine.any a.meets

/-- Marks the descriptors in flight on other rings whose bytes descriptor d of ring r writes (R51). -/
def State.markRaces (s : State) (r : RingId) (d : Slot) : State :=
  let ws := s.stores r d
  let slot (q : RingId) (e : Slot) : Slot := if e.phase.active then { e with races := e.races ++ s.touchedBy q e ws } else e
  { s with ctxs := s.ctxs.map fun (e : Nat × Ctx) => (e.1, if e.2.ring = r then e.2 else { e.2 with slots := e.2.slots.map (slot e.2.ring) }) }

/-- The bytes of descriptor d of ring r that descriptors in flight on other rings write (R51). -/
def State.racesInto (s : State) (r : RingId) (d : Slot) : List Range :=
  s.touchedBy r d (s.allSlots.flatMap fun e => if e.1 != r && e.2.phase.active then s.stores e.1 e.2 else [])

/-- R256: an earlier descriptor and a later one meet in a range that one of them writes. -/
def Slot.conflicts (e d : Slot) : Bool :=
  let ew := e.written
  let dw := d.written
  (ew.any fun a => dw.any a.meets || (d.sourceRanges d.opc).any a.meets) ||
    dw.any fun a => (e.sourceRanges e.opc).any a.meets

/-- The fetched descriptors of ring r before index p, oldest first. -/
def State.before (s : State) (r : RingId) (p : W32) : List Slot := (s.slotsOf r).takeWhile fun e => e.idx != p

/-- Descriptor d may start within its ring (R255, R256, R217, R262). -/
def State.orderOk (s : State) (r : RingId) (d : Slot) : Bool :=
  let b := s.before r d.idx
  if dSealed d.bytes then b.isEmpty
  else b.all fun e =>
    (e.chain.isSome && e.chain == d.chain) ||
      (e.phase.begun && !e.isFence && !e.conflicts d)

/-! ### Units of a descriptor -/

/-- The distinct numbers of a list, ascending, below n. -/
def distinctBelow (n : Nat) (l : List Nat) : List Nat := (List.range n).filter fun i => l.contains i

/-- The memories that a descriptor reads or writes: requests, cards and structures (R230). -/
def State.memories (s : State) (d : Slot) : List Nat :=
  distinctBelow 25 (s.readSpaces d ++ s.writeSpaces d ++ (d.structRanges d.opc).map (·.space) ++
    (if d.scard.isSome then [(scardPtr d.bytes).stack] else []) ++
    (if (dcardPtr d.bytes).valid then [(dcardPtr d.bytes).stack] else []) ++
    d.ops.flatMap fun o => o.cardRanges.map (·.space))

/-- The descriptor with the units that its plan takes now; a fenced slice's work falls to its buddy (R337, R332). -/
def State.planned (s : State) (d : Slot) : Slot :=
  if d.status != stDone && d.refusal then d
  else
    let pl := s.planOf d.opc d
    { d with
      slices := distinctBelow 24 (pl.slices.filterMap s.server), flue := distinctBelow 24 (pl.flue.filterMap s.server)
      npools := pl.pools, spaces := s.memories d }

/-- A SIGNAL writes VALUE to an orphaned stack (R338). -/
def State.signalOrphan (s : State) (d : Slot) : Bool := d.isSignal && sigWr d.bytes && s.orphaned (sigLoc d.bytes)

/-- A planned descriptor needs an orphaned stack, the Flue while every plane is fenced, or Stoke while every quarter is (R338). -/
def State.needsOrphan (s : State) (d : Slot) : Bool :=
  d.spaces.any s.orphaned || s.signalOrphan d || (!d.flue.isEmpty && s.flue.fenced == 15) || s.liveQuarters.isEmpty ||
    (d.slices.isEmpty && !(d.ops.isEmpty || d.ops.all (·.res)))

/-- Started descriptors in the issue queue of slice n (R13). -/
def State.queueLen (s : State) (n : Nat) : Nat :=
  (s.allSlots.filter fun e => e.2.phase.active && e.2.slices.contains n).length

/-- Dispatch to slice n is stopped: an in-service test drains it, or it is under test (R342). -/
def State.stoppedSlice (s : State) (n : Nat) : Bool := (tget s.slices n {}).drain

/-! ### What the end of a descriptor releases -/

/-- The shares that a FLOOD's slices hold are zeroed (R242). -/
def State.dropShares (s : State) (d : Slot) : State := if d.keyed then s.wipeShares d.slices else s

/-- An earlier FLOOD of the same Open chain has still to run on a slice of FLOOD d: the share registers of the slice are its first, and d
takes its shares, and starts in its slices, when it has run (DESIGN CHOICE, log 65: R266 has all members pre-checked before the first one
starts, and a slice has one pair of share registers, R235). -/
def State.afterMate (s : State) (r : RingId) (d : Slot) : Bool :=
  d.opc == .flood && !dSealed d.bytes && d.chain.isSome && (s.before r d.idx).any fun e =>
    e.chain == d.chain && e.opc == .flood && e.phase != .ran && e.phase != .recorded &&
      (s.planned e).slices.any (s.planned d).slices.contains

/-- Ember erases the flood checkpoint of a descriptor (R236). -/
def State.dropCkpt (s : State) (r : RingId) (p : W32) : State :=
  { s with emb := { s.emb with ckpts := s.emb.ckpts.filter fun c => !(c.r == r && c.p == p) } }

/-- The index under which pools are bound to a descriptor: that of the first descriptor of its chain, whose context keeps them
for the whole chain, or its own (R18, R54). -/
def Slot.holder (d : Slot) : W32 := d.chain.getD d.idx

/-- Releases the pools that satisfy a test: they have no role and no user (R54, R65). -/
def State.freePoolsThat (s : State) (f : Pool → Bool) : State :=
  { s with slices := s.slices.map fun (e : Nat × Slice) => (e.1, { e.2 with
      pools := e.2.pools.map fun (k : Nat × Pool) =>
        ((k.1, if f k.2 then { k.2 with role := .free, user := none, ready := false, kept := none, stage := 0 } else k.2) : Nat × Pool)
      frees := (e.2.pools.filter fun k => f k.2).foldl (fun t k => tput t k.1 (s.clk.pclk + 1)) e.2.frees }) }

/-- The Flue ports of some slices are free from cycle c on (R88, R89). -/
def State.freePorts (s : State) (ns : List Nat) (c : Nat) : State :=
  { s with flue := { s.flue with freeAt := ns.foldl (fun t n => tput t n (max (tget t n 0) c)) s.flue.freeAt } }

/-- A slice without the passes of a descriptor; the pools that only they read or write have no role (R54). -/
def Slice.dropPasses (v : Slice) (u : RingId × W32) : Slice :=
  let gone := v.passes.filter fun x => x.user == some u
  let left := v.passes.filter fun x => x.user != some u
  let freed (k : Nat × Pool) : Bool :=
    (k.2.role == .passSource && (gone.any fun x => x.src.val == k.1) && !left.any fun x => x.src.val == k.1) ||
      (k.2.role == .passDest && (gone.any fun x => x.dst.val == k.1) && !left.any fun x => x.dst.val == k.1)
  { v with passes := left, pools := v.pools.map fun (k : Nat × Pool) =>
      ((k.1, if freed k then { k.2 with role := .free } else k.2) : Nat × Pool) }

/-- The passes of a descriptor are dropped. -/
def State.dropPasses (s : State) (r : RingId) (p : W32) : State :=
  { s with slices := s.slices.map fun (e : Nat × Slice) => (e.1, e.2.dropPasses (r, p)) }

/-- Releases the Retort lanes, the accumulators, the constant buffer, the tile unit and the Char engine of the slices where descriptor
p of ring r has them: they are zeroed, also when an abort releases them (R11, R155, R194). -/
def State.freeUnit (s : State) (r : RingId) (p : W32) : State :=
  { s with slices := s.slices.map fun (e : Nat × Slice) =>
      (e.1, if e.2.unit = some (r, p) then
          { e.2 with unit := none, cbuf := [], tu := {} }
        else e.2) }

/-- Releases what a descriptor holds at its end: its units, and its pools, but for those of a chain, which its context keeps up to
the record of its last member (R18, R264). -/
def State.releaseUnits (s : State) (r : RingId) (d : Slot) : State :=
  ((s.freeUnit r d.idx).freePoolsThat fun v => v.user == some (r, d.holder) && d.chain.isNone).dropSpacing r d.idx

/-- Releases the pools of the chains of ring r that have no descriptor left in its context (R18, R264). -/
def State.sweepPools (s : State) (r : RingId) : State :=
  s.freePoolsThat fun v => match v.user with
    | some u => u.1 == r && !(s.slotsOf r).any fun d => d.holder == u.2
    | none => false

/-- Releases all that a descriptor holds: its units, its pins, its shares and its flood checkpoint. -/
def State.release (s : State) (r : RingId) (d : Slot) : State := (((s.dropShares d).dropCkpt r d.idx).releaseUnits r d).unpin r d.idx

/-- Removes the descriptors of ring r that fail a test from the ring's context. -/
def State.keepSlots (s : State) (r : RingId) (keep : Slot → Bool) : State :=
  let gone := (s.slotsOf r).filter fun d => !keep d
  let s := gone.foldl (fun s d => s.release r d) s
  (s.updCtx r fun c => { c with
    slots := c.slots.filter keep
    members := c.members.filter fun m => !(gone.any fun d => d.idx == m.idx) }).sweepPools r

/-- The fetches of a ring that have no data yet are dropped: their requests that have a tag keep it until their responses have come
(R93). -/
def State.dropFetches (s : State) (r : RingId) : State :=
  let x : Ports := { s.ports with reqs := s.ports.reqs.filterMap fun q =>
    if q.item == itemFetch && q.r == r then (if q.tag.isNone then none else some (q.abandoned false)) else some q }
  { s with fetches := s.fetches.filter fun f => f.r != r, ports := x.accept s.clk.pclk }

/-- The descriptor after e belongs to the chain of e (R263). -/
def Slot.chainsOn (e : Slot) : Bool :=
  dLink e.bytes && match e.chain with
    | some f => decide ((e.idx - f).toNat < 15)
    | none => true

/-- The oldest slot d of a context goes on with a chain whose earlier records have been written. -/
def Ctx.resumes (c : Ctx) (d : Slot) : Bool :=
  match d.chain with
  | some f => f != d.idx
  | none => d.phase == .fetched && match c.members.getLast? with
    | some m => m.link && m.idx + 1 == d.idx && decide (c.members.length < 16)
    | none => false

/-- The descriptors of a context that run to completion: those that have started, and the rest of a chain that has
started (R276, R285); `prev` is the slot before them. -/
def Ctx.keptFrom (c : Ctx) : Option Slot → List Slot → List Slot
  | _, [] => []
  | prev, d :: ds =>
    if d.phase.begun || (match prev with | none => c.resumes d | some e => e.chainsOn) then d :: c.keptFrom (some d) ds else []
def Ctx.kept (c : Ctx) : List Slot := c.keptFrom none c.slots

/-- The indices of those of ring r. -/
def State.keptIdx (s : State) (r : RingId) : List W32 := ((s.ctxOf r).map fun e => e.2.kept.map (·.idx)).getD []

/-- Descriptors that a request has asked for and that have not arrived. -/
def State.fetching (s : State) (r : RingId) : Bool := s.fetches.any fun f => f.r == r

/-- Returns the descriptors of a ring from index p on, none of which has started: they are fetched again. -/
def State.returnFrom (s : State) (r : RingId) (p : W32) : State :=
  let ks := (s.before r p).map (·.idx)
  ((s.dropFetches r).updRing r fun x => { x with fetch := p, pend := true }).keepSlots r fun e => ks.contains e.idx

/-- Every descriptor of a ring that has been fetched and has not started is fetched again, by the ring's new quarter (R340). -/
def State.refetch (s : State) (r : RingId) : State :=
  match (s.slotsOf r).find? fun d => !d.phase.begun with
  | some d => s.returnFrom r d.idx
  | none => if s.fetching r then (s.dropFetches r).updRing r fun x => { x with pend := true } else s

/-- Returns the descriptors of a ring that have not started, a waiting FENCE among them: the fetch position falls back
to the oldest of them, and the pending bit has them fetched again (R276). A chain that has started stays whole. -/
def State.returnUnstarted (s : State) (r : RingId) : State :=
  let s := if s.fetching r then (s.dropFetches r).updRing r fun x => { x with pend := true } else s
  let ks := s.keptIdx r
  match (s.slotsOf r).find? fun d => !ks.contains d.idx with
  | none => s
  | some d => (s.updRing r fun x => { x with fetch := d.idx, pend := true }).keepSlots r fun e => ks.contains e.idx

/-- The rings that a host function owns and that are not at their default. -/
def State.ringsOf (s : State) (h : HF) : List RingId :=
  s.rings.filterMap fun (e : Nat × Ring) =>
    let r : RingId := Fin.ofNat 65536 e.1
    if s.ringOwner r = h then some r else none

/-- Freezes a host function's rings (R276): fetching stops, unstarted descriptors return, and the ENABLED rings enter
FROZEN and signal their vectors (R274). A ring in ERROR stays in ERROR (R250). A flush ends with the freeze. -/
def State.freezeRings (s : State) (h : HF) : State :=
  (s.ringsOf h).foldl (fun s r =>
    let s := (s.returnUnstarted r).updRing r fun x => { x with flushing := false }
    if (s.ring r).st = .enabled then (s.updRing r fun x => { x with st := .frozen }).ringSignal r else s)
    (s.updHost h fun x => { x with freezing := true })

/-- Started descriptors of a host function without a written record. -/
def State.startedOf (s : State) (h : HF) : Nat :=
  (s.allSlots.filter fun e => s.ringHost e.1 == h && e.2.phase.begun).length

/-- Descriptors of a host function that are still to write a record before its work has ended (R276). -/
def State.unfinishedOf (s : State) (h : HF) : Nat :=
  sumOf ((s.ctxs.filter fun e => s.ringHost e.2.ring == h).map fun e => e.2.kept.length)

/-- No started descriptor or chain is without its written records. -/
def State.workDone (s : State) : Bool := s.ctxs.all fun e => e.2.kept.isEmpty

end Sys2Proof.Machine
end

