-- ==== Sys2Proof/Machine/Stoke.lean ====
section
/-! DEFINITION. Stoke's front end: doorbells (R251 to R253), descriptor fetch (R254, R255), and pre-check (R263 to
R268). -/

namespace Sys2Proof.Machine

/-! ### DOORBELL -/

/-- The ring and the producer index that a doorbell carries. -/
def dbRing (v : W64) : RingId := Fin.ofNat 65536 (bits v.toNat 48 16)
def dbIndex (v : W64) : W32 := BitVec.ofNat 32 v.toNat

/-- The doorbell is discarded (R251). -/
def State.dbDiscarded (s : State) (tag page : HF) (off size : Nat) (v : W64) : Bool :=
  size != 8 || off % 8 != 0 || tag != page || bits v.toNat 32 16 != 0 || s.ringOwner (dbRing v) != tag ||
    (s.ring (dbRing v)).st != .enabled

/-- An accepted producer index (R252, R253). -/
def State.acceptIndex (s : State) (r : RingId) (x : W32) : State :=
  s.updRing r fun y => { y with
    pi := x, pend := true
    waitSince := if (s.ctxOf r).isNone && y.waitSince.isNone then some s.clk.fclk else y.waitSince }

/-- What a doorbell that is not discarded does (R252). -/
def State.doorbellIndex (s : State) (r : RingId) (x : W32) : State :=
  let y := s.ring r
  let d := (x - y.pi).toNat
  if d = 0 ∨ 2 ^ 31 ≤ d then s
  else if (x - y.doneI).toNat ≤ (s.ringEntry r).size then s.acceptIndex r x
  else s.ringError r 1

/-- DOORBELL (R251, R252, R253). A doorbell page takes a write at its 4096 byte offsets (R361); before TINDER none is counted (R306),
and in QUENCHED every one is discarded, and counted (R314, R352). -/
def execDoorbell (tag page : HF) (off size : Nat) (v : W64) (s : State) : Res :=
  if s.ctl.stage = .reset ∨ 4096 ≤ off then .next s
  else if s.ctl.stage == .quenched || s.dbDiscarded tag page off size v then .next (s.teleHost tag 7 1)
  else .next (s.doorbellIndex (dbRing v) (dbIndex v))

/-! ### DESCRIPTOR_FETCH -/

/-- Descriptors asked for and not yet arrived. -/
def State.inFlight (s : State) (r : RingId) : Nat := sumOf ((s.fetches.filter fun f => f.r == r).map (·.n))

/-- Index of the next descriptor to fetch. -/
def State.nextFetch (s : State) (r : RingId) : W32 := (s.ring r).fetch + BitVec.ofNat 32 (s.inFlight r)

/-- Descriptors that the next request takes: at most 8, not across the end of the ring, up to PI, 16 held at most
(R255); one at a time on a fallback ring (R310). -/
def State.fetchCount (s : State) (r : RingId) : Nat :=
  let p := s.nextFetch r
  let size := (s.ringEntry r).size
  let held := (s.slotsOf r).length + s.inFlight r
  min (min (if s.isFallback r then 1 - held else 8) (16 - held)) (min (size - p.toNat % size) ((s.ring r).pi - p).toNat)

/-- The requests of a fetch of n descriptors from index p: by the ring's fetcher, under its host function's tag (R93, R96). Those
in a host page that is not translated yet name the page's own address; none is made where no grant reaches (R31). -/
def State.fetchReqs (s : State) (r : RingId) (p : W32) (n : Nat) : List Req :=
  let e := s.ringEntry r
  ((blockRequests (e.descAddr p) (128 * n)).filter fun pc => s.ringLoc r pc.off != .denied).map fun pc =>
    let at_ := match s.ringLoc r pc.off with
      | .here sp a _ => (sp, a)
      | _ => (24, pc.off)
    { port := Fin.ofNat 25 at_.1, master := s.fetcher r, hf := s.ringHost r, tag := none, wr := false, r := r, p := p, item := itemFetch
      addr := at_.2, len := pc.len, issued := s.clk.pclk, overdue := false }

/-- The requests of a ring's fetch from index p are answered. -/
def State.fetchDone (s : State) (r : RingId) (p : W32) : State :=
  let x : Ports := { s.ports with reqs := s.ports.reqs.filter fun q => !(q.item == itemFetch && q.r == r && q.p == p) }
  { s with ports := x.accept s.clk.pclk }

/-- A fetch of n descriptors from index p, with the translation requests that it needs. -/
def State.issueFetch (s : State) (r : RingId) (n : Nat) : State :=
  let p := s.nextFetch r
  let a := (s.ringEntry r).descAddr p
  let needs := (pagesOf a (a + 128 * n - 1)).filterMap fun pg =>
    match s.ringLoc r pg with
    | .needs x => some x
    | _ => none
  (s.fetchReqs r p n).foldl State.request
    (({ s with fetches := s.fetches ++ [{ r := r, first := p, n := n }] } : State).requestPages needs)

/-- The quarter finds the producer index unchanged: the pending bit goes (R252, 14 Table 14-1). -/
def State.clearPend (s : State) (r : RingId) : State :=
  if s.nextFetch r = (s.ring r).pi ∧ s.inFlight r = 0 then s.updRing r fun x => { x with pend := false } else s

/-- DESCRIPTOR_FETCH (R253, R255). -/
def execDescriptorFetch (r : RingId) (s : State) : Res :=
  onPclk s fun _ =>
  if (s.ctxOf r).any (fun e => !e.2.leaving) && (s.ring r).pend && s.fetchable r then
    .next (if 0 < s.fetchCount r then s.issueFetch r (s.fetchCount r) else s.clearPend r)
  else .next s

/-! ### DESCRIPTOR_FETCHED -/

/-- A descriptor whose fetch failed: no byte of it is used (R254). -/
def failedSlot (p : W32) (st : W16) : Slot :=
  { idx := p, bytes := List.replicate 128 0, phase := .checked, status := st }

/-- The reorder slot that a fetched descriptor takes: SOURCE_CORRUPT where its granules are poisoned, or the host memory has answered with
an error (R254, R367); XLATE_FAULT where it has no translation, or no grant reaches it (R31; DESIGN CHOICE, log 99). -/
def State.fetchedSlot (s : State) (r : RingId) (p : W32) (err : Bool) : Slot :=
  let a := (s.ringEntry r).descAddr p
  match s.ringLoc r a with
  | .here sp x _ =>
    if s.poisoned sp x 128 || (err && sp == 24) then failedSlot p stSourceCorrupt
    else { idx := p, bytes := s.readSettled sp x 128 }
  | _ => failedSlot p stXlateFault

/-- The pages of a fetch that no translation has answered yet. -/
def State.fetchNeeds (s : State) (f : Fetch) : List XReq :=
  let a := (s.ringEntry f.r).descAddr f.first
  (pagesOf a (a + 128 * f.n - 1)).filterMap fun pg =>
    match s.ringLoc f.r pg with
    | .needs x => some x
    | _ => none

/-- The pages of a fetch that have no translation. -/
def State.fetchAbsent (s : State) (f : Fetch) : List XReq :=
  let a := (s.ringEntry f.r).descAddr f.first
  (pagesOf a (a + 128 * f.n - 1)).filterMap fun pg =>
    match s.ringLoc f.r pg with
    | .absent x => some x
    | _ => none

/-- The data of a fetch arrives: its descriptors take their slots, FLUSHED ones on a ring that is being flushed (R277), and the fetch
position passes them. Its pages have been used (R345). Bit i of `errs` is the error status of its i-th descriptor (R367). -/
def State.takeFetch (s : State) (f : Fetch) (errs : Byte) : State :=
  let fresh (d : Slot) : Slot := if (s.ring f.r).flushing && d.phase == .fetched then d.flushed else d
  let slots := (List.range f.n).map fun i => fresh (s.fetchedSlot f.r (f.first + BitVec.ofNat 32 i) (errs.getLsbD i))
  let gone := s.fetchAbsent f
  let s := { s with fetches := s.fetches.erase f }.fetchDone f.r f.first
  let s := s.updCtx f.r fun c => { c with slots := c.slots ++ slots }
  let s := (s.touchRing f.r ((s.ringEntry f.r).descAddr f.first) (128 * f.n)).updRing f.r fun x => { x with
    fetch := f.first + BitVec.ofNat 32 f.n }
  (s.clearPend f.r).clearAbsent gone

/-- DESCRIPTOR_FETCHED (R254, R255, R367): the oldest outstanding fetch of the ring; an orphaned stack answers nothing (R338). -/
def execDescriptorFetched (a : FetchAnswer) (s : State) : Res :=
  onPclk s fun _ =>
  match s.fetches.find? fun f => f.r == a.ring with
  | none => .next s
  | some f => if (s.fetchNeeds f).isEmpty && !s.ringGone a.ring then .next (s.takeFetch f a.errs) else .next s

/-! ### PRE_CHECK -/

/-- What a pre-checked descriptor leaves for later members of its chain. -/
def memberOf (d : Slot) (sealed : Bool) : Member :=
  { idx := d.idx, link := dLink d.bytes, sealed := sealed, failed := d.status != stDone, ops := d.ops
    card := d.dcard.map fun c => ((dcardPtr d.bytes).stack, (dcardPtr d.bytes).addr, c), srcs := d.sourceRanges d.opc }

/-- The descriptors from the head of a list up to the end of the chain that it begins (R263). -/
def chainRun : Nat → List Slot → List Slot
  | 0, _ => []
  | _, [] => []
  | n + 1, d :: ds => if dLink d.bytes then d :: chainRun n ds else [d]

/-- A chain that has been fetched whole: its last descriptor has LINK = 0, or it has 16 (R263). -/
def chainWhole (c : List Slot) : Bool :=
  c.length == 16 || match c.getLast? with
    | none => false
    | some d => !dLink d.bytes

/-- The resident sources that a chain names (R264). -/
def namedResidents (c : List Slot) : List (Nat × Nat) :=
  c.flatMap fun d => (List.range 4).filterMap fun k =>
    let p := slotPtr d.bytes k
    if p.valid && p.res then some (p.stack, p.addr) else none

/-- Pre-checks the members of an Open chain in order, each after the ones before it (R266). A member whose fetch failed
keeps its status (R254). -/
def State.checkAll (s : State) (r : RingId) (first : W32) (named : List (Nat × Nat)) :
    List Member → List Slot → List (Slot × List XReq)
  | _, [] => []
  | ms, d :: ds =>
    let x := if d.phase = .fetched then s.preCheckOne r ms named { d with chain := some first } else { slot := d, needs := [] }
    (x.slot, x.needs) :: s.checkAll r first named (ms ++ [memberOf x.slot false]) ds

/-- The outcome of an Open chain: when a member fails, the first one keeps its status and the others carry FLUSHED. One of
the Sealed class keeps the DUR of R227 too. -/
def chainOutcome (ds : List Slot) : List Slot :=
  match ds.find? fun d => d.status != stDone with
  | none => ds
  | some f => ds.map fun d =>
    if d.idx = f.idx then { d with chain := none, dur := if dSealed d.bytes then d.dur else 0, phase := .checked }
    else d.flushed

/-- Puts pre-checked descriptors back into their slots. -/
def State.putSlots (s : State) (r : RingId) (ds : List Slot) : State :=
  s.updCtx r fun c => { c with slots := c.slots.map fun e => (ds.find? fun d => d.idx == e.idx).getD e }

/-- The pages of a descriptor that its pre-check uses. -/
def State.slotPages (s : State) (r : RingId) (d : Slot) : List XReq := s.pagesNeeded r (s.ringHost r) d.opc d

/-- The end of a pre-check: its pages are used, a Sealed descriptor's are pinned (R36), the FLUSHED ones of a failed one
hold none, nor does one that was refused because it needs more than 128 (R35), and what was found absent is forgotten. -/
def State.endPreCheck (s : State) (r : RingId) (ds : List Slot) : State :=
  ds.foldl (fun s d =>
    let xs := s.slotPages r d
    let s := xs.foldl State.touchPage s
    let s := if d.pinned then s.pin r d.idx xs else s
    s.clearAbsent xs) (s.putSlots r ds)

/-- The pinned entries of a host function with those that descriptor d would add exceed its 128 (R36, R345). -/
def State.pinsFull (s : State) (r : RingId) (d : Slot) : Bool :=
  dSealed d.bytes && decide (d.seen.length ≤ 128) &&
    decide (128 < (s.xl.cache.filter fun e => e.hf == s.ringHost r &&
      (!e.pins.isEmpty || (s.slotPages r d).any fun x => e.covers x)).length)

/-- The members of the chain in progress: empty when the last one ended its chain. -/
def openMembers (ms : List Member) : List Member :=
  match ms.getLast? with
  | none => []
  | some m => if m.link && decide (ms.length < 16) then ms else []

/-- The pass constants of a LUTPOLY of degree 2^18 (05 R123): the table entry that the last box of each half reaches beyond the half's
own fill, and, under the length of the table, the negated first entry. A table that is resident is read by the pass itself. -/
def State.lutConsts (s : State) (r : RingId) (d : Slot) : List (Nat × Nat) :=
  let t := d.opD 0
  if d.opc == .lutpoly && d.degree == 2 ^ 18 && !t.res && bit (byteAt d.bytes 86) 0 then
    let delta := 2 ^ (18 - bits (byteAt d.bytes 85) 0 5)
    [131072, 262144].map fun e =>
      let k := (e - 1 + delta / 2) / delta
      (k, if k < t.card.count then s.source r t k
          else residueNeg (s.bound (binding d.bytes) tyU64 []).1 (s.source r t 0))
  else []

/-- Requests what a pre-check lacks, or ends it. One that cannot end yet keeps the snapshot that it has read (R30). -/
def State.finishPreCheck (s : State) (r : RingId) (needs : List XReq) (ds : List Slot) (ms : List Member) : State :=
  if !needs.isEmpty then (s.requestPages needs).putSlots r (ds.map Slot.keepSnapshot)
  else if ds.any (s.pinsFull r) then s.putSlots r (ds.map Slot.keepSnapshot)
  else (s.endPreCheck r (ds.map fun d => { d with
    seen := [], pinned := dSealed d.bytes && !d.unpadded && decide (d.seen.length ≤ 128)
    readyAt := s.clk.pclk, consts := s.lutConsts r d, sigAt := if d.isSignal then s.sigPlace r d else none })).updCtx r
    fun c => { c with members := ms }

/-- The pre-check of the descriptor or chain at the head of `rest`, the oldest fetched ones of ring r (R263, R266,
R267). `first` is the index of the chain's first descriptor. -/
def State.preCheckRun (s : State) (r : RingId) (ms : List Member) (d : Slot) (rest : List Slot) : State :=
  let first := match ms with | [] => d.idx | m :: _ => m.idx
  let c := chainRun (16 - ms.length) rest
  if !chainWhole (List.replicate ms.length d ++ c) && !s.isFallback r then s
  else if ms.any (·.failed) then
    let x := { d with status := stFlushed, detail := 0, phase := .checked, chain := some first }
    s.finishPreCheck r [] [x] (ms ++ [memberOf x true])
  else if c.any fun e => e.phase == .checked then
    -- a member's fetch failed: the chain fails unpadded, in either class (R254)
    s.finishPreCheck r [] (chainOutcome c) (c.map fun e => memberOf e false)
  else if (dSealed d.bytes || !ms.isEmpty) && !s.isFallback r then
    -- a Sealed descriptor, or a member of either class of a Sealed chain (R233)
    let x := s.preCheckOne r ms (namedResidents c ++ ms.flatMap fun m => (m.ops.filter (·.res)).map fun o => (o.stack, o.addr))
      { d with chain := if dLink d.bytes || !ms.isEmpty then some first else none }
    s.finishPreCheck r x.needs [x.slot] (ms ++ [memberOf x.slot true])
  else if dLink d.bytes && !s.isFallback r then
    let xs := s.checkAll r first (namedResidents c) [] c
    s.finishPreCheck r (xs.flatMap (·.2)) (chainOutcome (xs.map (·.1))) (xs.map fun x => memberOf x.1 false)
  else
    let x := s.preCheckOne r [] [] d
    s.finishPreCheck r x.needs [x.slot] []

/-- PRE_CHECK (R268): descriptor p is the oldest of its ring that has not been pre-checked. -/
def execPreCheck (r : RingId) (p : W32) (s : State) : Res :=
  onPclk s fun _ =>
  match s.ctxOf r with
  | none => .next s
  | some e =>
    match e.2.slots.dropWhile fun d => d.phase != .fetched with
    | [] => .next s
    | d :: rest => if d.idx = p then .next (s.preCheckRun r (openMembers e.2.members) d (d :: rest)) else .next s

end Sys2Proof.Machine
end

