-- ==== Sys2Proof/Machine/Blocks.lean ====
section
/-! DEFINITION. The blocks that a slice's mover fills (R110), the place of each of their words in its pool (R55, R56), and the pools
that a descriptor has or may take (R54). -/

namespace Sys2Proof.Machine

/-! ### Blocks -/

/-- The opcodes whose operands are filled limb by limb, or by halves of a limb of N = 2^18, in the limb's home slice (R110). -/
def Op.byLimb : Op → Bool
  | .bitrev => true
  | .automorph => true
  | .negrot => true
  | .extract => true
  | .digits => true
  | .rescale => true
  | .ksip => true
  | .flood => true
  | _ => false

/-- Elements of a block: a limb or its half (R41), an instance (R129); 0 where the block is all that the slice holds (R110). -/
def Slot.blockLen (d : Slot) (o : OpSnap) : Nat :=
  if d.opc.byLimb then d.limbUnit
  else match d.opc with
    | .gather => d.perInstance o
    | .scatter => d.perInstance o
    | .window => d.perInstance o
    | _ => 0

/-- The runs of n entries of a list. -/
def chunks (n : Nat) (l : List Nat) : List (List Nat) := (List.range (ceilDiv l.length n)).map fun i => (l.drop (n * i)).take n

/-- The opcodes that do not read ORDER: their operands are filled in the plain mapping (R148). -/
def Op.plain : Op → Bool
  | .digits => true
  | .baseconv => true
  | .rescale => true
  | .ksip => true
  | _ => false

/-- The operand's limbs lie skewed: its cipher card has ORDER = 1 (R56). -/
def Slot.skews (d : Slot) (o : OpSnap) : Bool :=
  !d.opc.plain && ((if 4 ≤ o.slot then d.dcard.orElse fun _ => d.scard else d.scard).map (·.order)).getD false && o.card.last == d.degree

/-- The numbers of the limbs, or halves of one, that some positions have a part in, by first appearance. -/
def Slot.limbsIn (d : Slot) (ks : List Nat) : List Nat := (ks.map fun k => k / d.limbUnit).eraseDups

/-- A slice's positions of an operand in runs that a pool holds: 131,072 elements, or as many limb slots as it has (Table 03-1). R110
takes a slice's whole source block as one block; where it needs more than one pool, the model passes it poolful by poolful, each as soon
as it is filled (DESIGN CHOICE, log 99). -/
def Slot.poolfuls (d : Slot) (o : OpSnap) (ks : List Nat) : List (List Nat) :=
  if d.skews o then (chunks (2 ^ 17 / max 1 d.limbUnit) (d.limbsIn ks)).map fun ls => ks.filter fun k => ls.contains (k / d.limbUnit)
  else chunks 131072 ks

/-- The positions of an operand whose home is slice n. -/
def State.homed (s : State) (d : Slot) (o : OpSnap) (n : Nat) : List Nat :=
  (s.touchedOf d o).filter fun k => s.homeOf d o k == n

/-- The blocks of operand o that slice v fills, in order, each with its number: those of its own share, and those of a fenced
slice for which it acts (R10, R40, R91, R110, R129). -/
def State.fillBlocks (s : State) (d : Slot) (o : OpSnap) (v : Nat) : List (Nat × List Nat) :=
  let u := d.blockLen o
  if d.sharesIndex o then
    ((s.homes d).filter fun n => s.serve n == v).map fun n => (n, s.touchedOf d o)
  else if u = 0 then
    ((List.range s.nslices).filter fun n => s.serve n == v).flatMap fun n =>
      (d.poolfuls o (s.homed d o n)).map fun ks => (n, ks)
  else
    (List.range (ceilDiv o.card.count u)).filterMap fun l =>
      match (s.touchedOf d o).filter fun k => k / u == l with
      | [] => none
      | k :: ks => if s.serve (s.homeOf d o k) = v then some (l, k :: ks) else none

/-! ### Where an element lies in its pool -/

/-- Limb slots of a pool (Table 03-1). -/
def Slot.perPool (d : Slot) (o : OpSnap) : Nat := if d.opc.byLimb then 2 ^ 17 / max 1 (d.blockLen o) else 1

/-- Row and bank of position p of a limb of degree N, or of a half of one. R56 gives the skew for log2 N from 10 to 17; a half of a
limb of 2^18 is skewed by the position in the half with n = 18 (DESIGN CHOICE, log 72). -/
def limbPlace (skew : Bool) (N p : Nat) : Nat × Nat := placeAt skew (Nat.log2 N) (p % 2 ^ 17)

/-- Row and bank of element k of a block, in its limb slot or from row 0 on: a limb's element by its position in the limb, others
by their order in the block (R55, R56). In a skewed block of an opcode that does not work by limb, the limb slot of a limb, or of the
part of one that the slice holds, is its place among the block's limbs by first appearance (DESIGN CHOICE, log 94). -/
def Slot.placeIn (d : Slot) (o : OpSnap) (ks : List Nat) (k : Nat) : Nat × Nat :=
  let N := d.degree
  if d.opc.byLimb then limbPlace (d.skews o) N (k % N)
  else if d.skews o then
    let pl := limbPlace true N (k % N)
    ((d.limbsIn ks).idxOf (k / d.limbUnit) * (d.limbUnit / 128) + pl.1, pl.2)
  else plainAt (ks.idxOf k)

/-- The words of block i of an operand, widened to lanes (R57): row, bank, word. The last row of a tile program's block is padded
with 0 (R180). -/
def State.blockWords (s : State) (r : RingId) (d : Slot) (o : OpSnap) (i : Nat) (ks : List Nat) : List (Nat × Nat × Nat) :=
  let src := s.source r o
  let base := if d.opc.byLimb then i % d.perPool o * (d.blockLen o / 128) else 0
  (ks.map fun k =>
    let pl := d.placeIn o ks k
    (base + pl.1, pl.2, widen o.card.ty (src k))) ++
    if d.opc = .tileprog then
      ((List.range ((128 - ks.length % 128) % 128)).map fun i => (ks.length / 128, ks.length % 128 + i, 0)) else []

/-! ### Pools -/

/-- The pools of slice n that a user has or may take: its own, and those without a role or a user. -/
def State.poolsFor (s : State) (n : Nat) (u : RingId × W32) : List Nat :=
  let own := (List.range 6).filter fun k => ((tget s.slices n {}).pool k).user == some u
  own ++ (List.range 6).filter fun k => ((tget s.slices n {}).pool k).role == .free && ((tget s.slices n {}).pool k).user.isNone

/-- The pools of slice n that a descriptor works in: those bound to it, but for what its chain keeps, ascending. -/
def State.ownPools (s : State) (r : RingId) (d : Slot) (n : Nat) : List Nat :=
  (List.range 6).filter fun k =>
    let v := (tget s.slices n {}).pool k
    v.user == some (r, d.holder) && v.kept.isNone

/-- The slices of a plan that slice v serves: itself, and fenced ones for which it acts (R10, R91). -/
def State.servedOf (s : State) (ns : List Nat) (v : Nat) : List Nat := ns.filter fun m => s.serve m == v

/-- The physical pool of slice v that a descriptor's logical pool k names for the share of slice m: for PATTERN its pools in order, those
of a fenced slice after its own (R91), otherwise pool k itself (R124). -/
def State.physPool (s : State) (r : RingId) (d : Slot) (v m k : Nat) : Nat :=
  if d.opc = .pattern then
    let ps := ppPoolList d.image d.aux
    ((s.ownPools r d v)[(s.servedOf (ppSlices d.image) v).idxOf m * ps.length + ps.idxOf k]?).getD 6
  else k

/-- The pool of slice n that keeps an operand for the descriptor's chain (R264). -/
def State.keptPool (s : State) (r : RingId) (d : Slot) (n : Nat) (o : OpSnap) : Option Nat :=
  (List.range 6).find? fun k =>
    let v := (tget s.slices n {}).pool k
    v.user == some (r, d.holder) && v.kept == some (o.stack, o.addr)

/-- The pool of each slot of a TILEPROG in slice n: the one that keeps a resident operand, and for the others the lowest-numbered
ones that the descriptor has, in slot order (R180; DESIGN CHOICE, log 94: the rule asks for distinct free pools alone). -/
def State.slotPools (s : State) (r : RingId) (d : Slot) (n : Nat) : List (Nat × Nat) :=
  (d.ops.foldl (fun (acc : List Nat × List (Nat × Nat)) o =>
    match s.keptPool r d n o, acc.1 with
    | some k, ks => (ks, acc.2 ++ [(o.slot, k)])
    | none, k :: ks => (ks, acc.2 ++ [(o.slot, k)])
    | none, [] => acc) (s.ownPools r d n, [])).2

/-- The pool into which the mover of slice n fills the block of slice m's share of slot j, where the opcode binds one: PIN, or the slot's
(R124, R180). -/
def State.fillPool (s : State) (r : RingId) (d : Slot) (n m j : Nat) : Option Nat :=
  if d.opc = .pattern then some (s.physPool r d n m (ppPin d.image))
  else if d.opc = .tileprog then (s.slotPools r d n).lookup j else none

/-- A pool bound to a user of host function h: one that holds another host function's data is wiped first (R11). -/
def Pool.bindTo (v : Pool) (h : HF) (u : RingId × W32) : Pool :=
  if v.user = some u then v
  else if v.hf.isSome ∧ v.hf ≠ some h then { v with user := some u, role := .wipe, ready := false, stage := 0 }
  else { v with user := some u, ready := false, stage := 0 }

end Sys2Proof.Machine
end

