-- ==== Sys2Proof/Machine/Keep.lean ====
section
/-! DEFINITION. What a run writes: destinations in memory and in the Ricks, the operands that a chain keeps (R264), what becomes
undefined (R16, R51, R168), and the rebuilding of lost operands of a Sealed chain (R267). -/

namespace Sys2Proof.Machine

/-! ### Writing the destinations -/

/-- The modulus chains that a pre-checked descriptor names (R45): of its cipher cards, its binding and its tile program. -/
def Slot.chains (d : Slot) : List Nat :=
  (d.scard.map (·.chain)).toList ++ (d.dcard.map (·.chain)).toList ++
    (if hasBinding d.opc && (binding d.bytes).axis != 7 then [(binding d.bytes).chain] else []) ++
    if d.opc = .tileprog && !d.image.isEmpty then (piChain d.image).toList else []

/-- Writes the elements of one destination: to memory, or to the Ricks when it is resident (R264). -/
def State.writeDest (s : State) (r : RingId) (o : OpSnap) (uses : List Nat) (vals : List (Nat × Nat)) : State :=
  if o.res then s.keepResident r o uses vals else s.putElems o vals

/-- Keeps a source in the Ricks for later descriptors of the chain, when LINK says that there are some (R264). -/
def State.keepSource (s : State) (r : RingId) (o : OpSnap) (uses : List Nat) : State :=
  if o.res then s else s.keepResident r o uses ((List.range o.card.count).map fun k => (k, s.elem o k))

/-- A pool with the whole of slice v's share of an operand, its blocks one after another (R55, R264). -/
def State.heldPool (s : State) (r : RingId) (d : Slot) (o : OpSnap) (v : Nat) (p : Pool) : Pool :=
  ((s.fillBlocks d o v).zipIdx).foldl (fun p b => p.write (s.blockWords r d o b.2 b.1.2)) p

/-- Pool k of slice v can take data of ring r's host function at once: it is not being wiped, and need not be (R11). -/
def State.clean (s : State) (r : RingId) (v k : Nat) : Bool :=
  let p := (tget s.slices v {}).pool k
  p.role != .wipe && (p.hf.isNone || p.hf == some (s.ringHost r))

/-- Marks a pool of the chain in every slice that holds a block of an operand as keeping it, complete (R18, R264). -/
def State.keepPools (s : State) (r : RingId) (d : Slot) (o : OpSnap) : State :=
  let u := (r, d.holder)
  let at_ := (o.stack, o.addr)
  let s : State := { s with slices := s.slices.map fun (e : Nat × Slice) => (e.1, { e.2 with pools := e.2.pools.map fun (k : Nat × Pool) =>
      ((k.1, if k.2.user = some u ∧ k.2.kept = some at_ then { k.2 with kept := none } else k.2) : Nat × Pool) }) }
  (s.holders o).foldl (fun s n =>
    let v := s.serve n
    -- a pool that is being wiped comes last: the run waits until enough others are there
    let ks := (s.poolsFor v u).filter fun k => ((tget s.slices v {}).pool k).kept.isNone
    match (ks.find? (s.clean r v)).orElse fun _ => ks.head? with
    | none => s
    | some k =>
      let t := s
      { s with slices := tupd s.slices v {} fun x => x.updPool k fun y =>
        let b := y.bindTo (s.ringHost r) u
        if b.role = .wipe then { b with kept := some at_ }
        else { t.heldPool r d o v b with kept := some at_, role := .free, ready := true, hf := some (t.ringHost r) } }) s

/-- The operands that a descriptor leaves in the Ricks: its resident destinations, and its sources when later descriptors of
the chain may read them (R264). -/
def Slot.keeps (d : Slot) : List OpSnap :=
  if d.chain.isNone then []
  else d.ops.filter fun o => if 4 ≤ o.slot then o.res else dLink d.bytes

/-- What a descriptor leaves in the Ricks needs a pool that is still being wiped: the end of its run waits for the wipe (R11, R18). -/
def State.awaitsWipe (s : State) (r : RingId) (d : Slot) : Bool :=
  let u := (r, d.holder)
  let ats := d.keeps.map fun o => (o.stack, o.addr)
  let homes := (d.keeps.flatMap s.holders).map s.serve
  (List.range 24).any fun v =>
    let ks := (s.poolsFor v u).filter fun k => match ((tget s.slices v {}).pool k).kept with
      | none => true
      | some a => ats.contains a
    decide ((ks.filter (s.clean r v)).length < (homes.filter (· == v)).length) && ks.any fun k => ((tget s.slices v {}).pool k).role == .wipe

/-- The destinations of a descriptor with every element undefined (R16). -/
def undefinedVals (d : Slot) : List (Nat × List (Nat × Option Nat)) :=
  (d.ops.filter fun o => decide (4 ≤ o.slot)).map fun o => (o.slot, (List.range o.card.count).map fun k => (k, none))

/-- Writes an effect's values, free words in place of the undefined ones, from free counter f; answers the next one. -/
def State.writeVals (s : State) (r : RingId) (d : Slot) (f : Nat) : List (Nat × List (Nat × Option Nat)) → State
  | [] => s
  | (k, vs) :: rest => (s.writeDest r (d.opD k) d.chains (concrete f vs)).writeVals r d (f + vs.length) rest

/-- Free values that the undefined elements of an effect take. -/
def freeNeeded (vs : List (Nat × List (Nat × Option Nat))) : Nat := sumOf (vs.map fun e => e.2.length)

/-- PCARD's POISON bit is set; the card's other bytes are unchanged (R160). -/
def State.poisonCard (s : State) (d : Slot) : State :=
  let w := locOf d.bytes 104
  if d.opc = .ksip ∧ bit w 45 then
    let k := memKey (locStack w) (locAddr w + 20)
    { s with mem := writeMem s.mem k (readMem s.mem k ||| 2) }
  else s

/-- The body of a constant table, or the key map and its limb images, still read as their snapshots; if not, the result is
undefined (R168). -/
def State.tableIntact (s : State) (d : Slot) : Bool :=
  match d.opc with
  | .digits => intact
  | .baseconv => intact
  | .rescale => intact
  | .ksip => (d.aux.all fun e => s.structBytes (locOf d.bytes 96 + 16 * e.1) 16 == e.2.take 16) && s.keyImages d == d.image
  | _ => true
where
  intact : Bool := s.structBytes (locOf d.bytes 88) d.image.length == d.image

/-- A byte of element k of an operand in memory lies in a range. -/
def OpSnap.elemIn (o : OpSnap) (k : Nat) (g : Range) : Bool :=
  !o.res && (o.elemRange k).meets g

/-- Values of a destination, those that a race touches undefined (R51). -/
def Slot.settled (d : Slot) (v : Nat × List (Nat × Option Nat)) : Nat × List (Nat × Option Nat) :=
  (v.1, v.2.map fun x => if d.races.any ((d.opD v.1).elemIn x.1) then (x.1, none) else x)

/-- The effect of a descriptor: what it reads of bytes that a race touches is undefined, and what it writes to them; all of its
elements are, when its constant table or key map changed under it (R51, R168). -/
def State.effectFor (s : State) (op : Op) (r : RingId) (d : Slot) : Effect :=
  let t := s.blurred d.races
  let e := effectOf op t r d
  if t.tableIntact d then { e with vals := e.vals.map d.settled } else { e with vals := undefinedVals d }

/-! ### Rebuilding (R267) -/

/-- The resident operands that a descriptor reads and its context does not hold: its sources, and the destination of a SCATTER. -/
def State.missing (s : State) (r : RingId) (d : Slot) : List OpSnap :=
  d.ops.filter fun o => o.res && (decide (o.slot < 4) || d.opc == .scatter) && (s.resident r o).isNone

/-- The written members of a Sealed chain that must run again so that the operands of `want` are there: those that kept one of
them, and those that kept what these read and is lost too; `es` holds them latest first (R267). -/
def State.rebuilders (s : State) (r : RingId) : List (Nat × Nat) → List Slot → List Slot
  | _, [] => []
  | want, e :: es =>
    if e.keeps.any fun o => want.contains (o.stack, o.addr) then
      e :: s.rebuilders r (want ++ (s.missing r e).map fun o => (o.stack, o.addr)) es
    else s.rebuilders r want es

/-- Runs a written member again: it writes the same values to memory, and its tensors are resident again; its record stays. A
FLOOD has no key to run with once its checkpoint is erased: what it wrote to memory stands, what it keeps and is still there too, and
a resident destination of it that is lost takes free values (R236, R246, log 65). -/
def State.runAgain (s : State) (r : RingId) (e : Slot) : State :=
  let lost (o : OpSnap) : Bool := o.res && (s.resident r o).isNone
  let vals := if e.opc = .flood then (undefinedVals e).filter fun v => lost (e.opD v.1) else (s.effectFor e.opc r e).vals
  let f := s.clk.free + effectFree
  let s' := if dLink e.bytes then (e.ops.filter fun o => decide (o.slot < 4)).foldl (fun s o => s.keepSource r o e.chains) s else s
  e.keeps.foldl (fun s o => s.keepPools r e o) ((s'.writeVals r e f vals).useFree (effectFree + freeNeeded vals))

/-- The lost operands that a Sealed descriptor reads are rebuilt, in chain order (R267). -/
def State.rebuild (s : State) (r : RingId) (d : Slot) : State :=
  let want := (s.missing r d).map fun o => (o.stack, o.addr)
  if !dSealed d.bytes || want.isEmpty then s
  else
    let done := (((s.ctxOf r).map fun e => e.2.done).getD []).filter fun e => e.chain == d.chain
    (s.rebuilders r want done.reverse).reverse.foldl (fun s e => s.runAgain r e) s

end Sys2Proof.Machine
end

