-- ==== Sys2Proof/Machine/Bind.lean ====
section
/-! DEFINITION. Binding: a started descriptor leaves its slices' issue queues when its pools (R18, R54, R124, R137, R180), its
units (R155, R194) and its pattern slots (R71, R126) are free; then its reads are issued (R33). -/

namespace Sys2Proof.Machine

/-- The cycle from which a new pass of descriptor u may issue its first row: after the last row of the pass before it, with the
slice's issue gap between descriptors (R66, R67, R376). -/
def Slice.nextIssue (v : Slice) (u : Option (RingId × W32)) : Nat :=
  match v.issued with
  | none => 0
  | some e => e.1 + if e.2 = u then 0 else v.gap

/-! ### Order -/

/-- The descriptors that start as one unit: an Open chain, or one descriptor (R266, R286). -/
def State.unit (s : State) (r : RingId) (d : Slot) : List Slot :=
  if d.chain.isSome && !dSealed d.bytes then (s.slotsOf r).filter fun e => e.chain == d.chain else [d]

/-- Every earlier member of the descriptor's Open chain has run (R266). -/
def State.earlierRan (s : State) (r : RingId) (d : Slot) : Bool :=
  dSealed d.bytes || d.chain.isNone || (s.before r d.idx).all fun e => e.chain != d.chain || e.phase == .ran

/-- Two lists share an element. -/
def meetsList (a b : List Nat) : Bool := a.any b.contains

/-! ### Pools -/

/-- The roles that slice n takes in the exchanges of a descriptor's plan: its own, and those of fenced slices for which it acts (R91). -/
def State.rolesOf (s : State) (d : Slot) (n : Nat) : Nat :=
  if (List.range 24).any fun m => !s.live m && s.serve m == n then max 1 (s.servedOf (s.planOf d.opc d).flue n).length else 1

/-- Pools that a descriptor needs bound in slice n: those of its plan for each role that the slice takes in its exchanges, and
one for each block of a resident operand of its chain that it does not name (Table 03-10, R91, R264, R381). Where the roles need more than
the six pools of a slice, they share them (DESIGN CHOICE, log 69: the rule asks for free pools and does not say what becomes of a plan that
needs more). -/
def State.poolNeed (s : State) (d : Slot) (n : Nat) : Nat :=
  let own := if d.slices.contains n then d.npools else 0
  max own (min 6 (own * s.rolesOf d n)) + (d.heldIn.filter fun m => s.serve m == n).length

/-- The resident operands that the later members of a Sealed chain name: their cards, read as they are now for those that have not
been pre-checked. -/
def State.chainResidents (s : State) (r : RingId) (d : Slot) : List OpSnap :=
  let later := chainRun 16 ((s.slotsOf r).dropWhile fun e => e.idx != d.idx)
  later.flatMap fun e => match opOf e.bytes with
    | none => []
    | some op => (if e.snapped then e else s.readTables op [] e).ops.filter (·.res)

/-- Pools of slice n that a Sealed chain is given when its first descriptor starts: one for each block of an operand that it keeps
there (R18; DEDUCED, log 91). -/
def State.chainReserve (s : State) (r : RingId) (d : Slot) (n : Nat) : Nat :=
  if dSealed d.bytes && d.chain == some d.idx then
    let uniq := (s.chainResidents r d).foldl (fun (acc : List OpSnap) o =>
      if acc.any fun y => y.stack == o.stack && y.addr == o.addr then acc else acc ++ [o]) []
    min 6 (uniq.flatMap s.holders |>.filter fun m => s.serve m == n).length
  else 0

/-- Pools that a unit needs in slice n (R18). -/
def State.unitNeed (s : State) (r : RingId) (ds : List Slot) (n : Nat) : Nat :=
  maxOf (ds.map fun d => max (s.poolNeed d n) (s.chainReserve r d n))

/-- Binds as many pools of slice n as a unit needs. -/
def State.bindPools (s : State) (h : HF) (u : RingId × W32) (need n : Nat) : State :=
  { s with slices := tupd s.slices n {} fun v =>
      ((s.poolsFor n u).take need).foldl (fun v k => v.updPool k fun x => x.bindTo h u) v }

/-- The role of a pool that the mover has filled: the unit that reads it, where no pass does (R54, R150). -/
def Op.fillRole : Op → Role
  | .digits => .char
  | .rescale => .char
  | .flood => .char
  | .ksip => .retort
  | .tileprog => .retort
  | _ => .free

/-- The operands of which the mover of slice n has blocks still to fill. -/
def State.toFill (s : State) (d : Slot) (n : Nat) : List OpSnap :=
  d.readOps.filter fun o => decide (tget d.filled (8 * n + o.slot) 0 < (s.fillBlocks d o n).length)

/-- The pool of slice n into which the mover fills the next block of an operand where it goes on: a later limb slot of the pool that holds
the ones before (R55, R110). -/
def State.slotPool (s : State) (r : RingId) (d : Slot) (n : Nat) (o : OpSnap) : Option Nat :=
  if tget d.filled (8 * n + o.slot) 0 % d.perPool o = 0 then none
  else (s.ownPools r d n).find? fun k =>
    let v := (tget s.slices n {}).pool k
    v.ready && v.holds.map (·.1) == some o.slot && (v.role == .free || v.role == d.opc.fillRole)

/-- The mover takes a pool for each source in memory of which it has a block to fill: the one that the opcode binds to it, the one whose
limb slots it goes on to fill, or the first free ones of the descriptor (R54, R110). -/
def State.startFills (s : State) (r : RingId) (d : Slot) (n : Nat) : State :=
  let v := tget s.slices n {}
  let todo := s.toFill d n
  let block (o : OpSnap) : Option (Nat × List Nat) := (s.fillBlocks d o n)[tget d.filled (8 * n + o.slot) 0]?
  let fresh := todo.filter fun o => tget d.filled (8 * n + o.slot) 0 % d.perPool o == 0
  let filling := (List.range 6).filter fun k =>
    (v.pool k).role == .moverFill && (v.pool k).user == some (r, d.holder) && !(v.pool k).ready
  let free := (s.ownPools r d n).filter fun k => (v.pool k).role == .free && !(v.pool k).ready
  let bound := fresh.filterMap fun o => (block o).bind fun b => s.fillPool r d n b.1 o.slot
  let ps := (if bound.isEmpty then free.take (fresh.length - filling.length) else free.filter bound.contains) ++
    todo.filterMap (s.slotPool r d n)
  { s with slices := tupd s.slices n {} fun v => ps.foldl (fun v k => v.updPool k fun x => { x with role := .moverFill }) v }

/-- The last drain of a descriptor has ended (R54). -/
def State.endDrains (s : State) (r : RingId) (d : Slot) : State :=
  { s with slices := s.slices.map fun (e : Nat × Slice) => (e.1, { e.2 with pools := e.2.pools.map fun (k : Nat × Pool) =>
      ((k.1, if k.2.user = some (r, d.holder) ∧ k.2.role = .moverDrain then { k.2 with role := .free, ready := false, drains := [] } else k.2) : Nat × Pool) }) }

/-- An Open SCATTER with MODADD sums in a scratch pool that is wiped while the operands fill, also when it is replayed; the target map
is clear (R136, R142). The rule says only "a scratch pool": the model takes the last free one of the descriptor's own (DESIGN CHOICE,
log 99). -/
def State.startScatter (s : State) (r : RingId) (d : Slot) (n : Nat) : State :=
  if d.opc = .scatter ∧ !dSealed d.bytes then
    let v := tget s.slices n {}
    let scratch := if ixPolicy d.bytes = 2 then ((s.ownPools r d n).filter fun k => (v.pool k).role == .free).getLast? else none
    { s with slices := tupd s.slices n {} fun v =>
      let v := { v with tmap := [] }
      match scratch with
      | none => v
      | some k => v.updPool k fun x => { x with role := .wipe, ready := false } }
  else s

/-! ### Units and stores -/

/-- The opcodes that bind the Retort lanes, the accumulators, the constant buffer and the Char engine: the fused ones and
TILEPROG (R155, R194), and those whose plan passes through the Char engine, CONVERT and FLOOD (R215, R239; DEDUCED, log 70). -/
def Op.bindsUnit : Op → Bool
  | .baseconv => true
  | .rescale => true
  | .ksip => true
  | .digits => true
  | .tileprog => true
  | .convert => true
  | .flood => true
  | _ => false

/-- A descriptor binds the units of its slices: by its opcode, or for a MODADD of SCATTER whose sums take the Char engine's adder (R136,
R139). -/
def Slot.takesUnit (d : Slot) : Bool := d.opc.bindsUnit || (d.opc == .scatter && ixPolicy d.bytes == 2)

/-- The 56 words of each entry of a pattern image, under the store's keys (R68, R71). -/
def storeWords (img : List Byte) : List (Nat × W64) :=
  (List.range (img.length / 512)).flatMap fun e => (List.range 56).map fun w =>
    (64 * e + w, BitVec.ofNat 64 (field img (512 * e + 8 * w) 8))

/-- The store of slice n with the entries of an image loaded: slots that held another host function's entries are wiped
first (R71, R72). -/
def Slice.loadStore (v : Slice) (h : HF) (img : List Byte) : Slice :=
  { v with
    pstore := (storeWords img).foldl (fun t w => tset 0 t w.1 w.2) (if v.pstoreHf = some h then v.pstore else [])
    pstoreHf := some h }

/-- The expanders, the conversion stage and the adder of a FLOOD's slices work on its shares: no path reads what they hold,
which the spec does not give (R235, R239, log 1). -/
def State.loadExpanders (s : State) (d : Slot) : State :=
  if d.opc = .flood then
    let k := s.clk.free
    (d.slices.foldl (fun s n => { s with slices := tupd s.slices n {} fun v => { v with
      expander := (List.range 24).map fun i => (i, (Config.freeDraw (k + 32 * n + i)).setWidth 1600)
      conv := (Config.freeDraw (k + 32 * n + 24)).setWidth 128, adder := (Config.freeDraw (k + 32 * n + 25)).setWidth 128 } }) s).useFree
        768
  else s

/-- The pattern slots that a PATTERN would load are in use by another one, so that its entries follow pass by pass, each once the passes
before it have read the slot (R71, R126): slot e holds entry e of either (R124). -/
def State.storeBusy (s : State) (r : RingId) (d : Slot) : Bool :=
  d.opc == .pattern && s.allSlots.any fun e =>
    (e.1 != r || e.2.idx != d.idx) && e.2.phase == .started && e.2.bound && e.2.opc == .pattern && meetsList e.2.slices d.slices

/-- The tile unit of a TILEPROG as it begins on share i of those that the slice works, that of slice m: the tile program, its shape tables
and the pool of each of its slots, those of its destinations in the Retort's role, those of its sources to be filled (R54, R179, R180). A
slice that acts for a fenced one works the shares one after another (R10; DESIGN CHOICE, log 69). -/
def Slice.takeShare (v : Slice) (h : HF) (d : Slot) (i m : Nat) (pools : List (Nat × Nat)) : Slice :=
  let v := pools.foldl (fun v e => v.updPool e.2 fun x =>
    if 4 ≤ e.1 then { x with role := .retort } else if x.kept.isSome then x else { x with role := .free, ready := false, holds := none }) v
  let u : TileUnit := loadUnit d.image (BitVec.ofNat 64 (field d.bytes 96 8)) m
  { v with tu := { u with
      hf := some h
      share := i
      slotPool := pools
      slotLen := d.ops.map fun o => (o.slot, (o.block m).length), slotTy := d.ops.map fun o => (o.slot, o.card.ty)
      slotTp := d.ops.map fun o => (o.slot, o.card.tparam) } }

/-- What a slice holds of a descriptor from its first fill on: the constant buffer, into which the broadcast brings the table (R150), or
the tile program (R179). -/
def Slice.takeUnit (v : Slice) (h : HF) (r : RingId) (d : Slot) (m : Nat) (pools : List (Nat × Nat)) : Slice :=
  let v : Slice := { v with unit := some (r, d.idx), cbuf := [] }
  if d.opc = .tileprog then v.takeShare h d 0 m pools else { v with tu := { v.tu with hf := some h } }

/-- The units of a descriptor's slices are bound to it. -/
def State.bindUnit (s : State) (r : RingId) (d : Slot) : State :=
  if d.takesUnit then
    d.slices.foldl (fun s n =>
      let m := (s.servedOf (piSlices d.image) n).headD n
      let ps := s.slotPools r d n
      let h := s.ringHost r
      { s with slices := tupd s.slices n {} fun v => v.takeUnit h r d m ps }) s
  else s

/-! ### The Sealed timetable (R111, R220, Table 10-3) -/

/-- The first cycles of the core and of the drain of a Sealed descriptor, by its published terms. -/
def State.coreSpan (s : State) (d : Slot) : Nat × Nat :=
  let pl := s.planOf d.opc d
  let a := d.start + 32 + fillTerm (s.readSpaces d) pl.bcast
  (a, a + pl.core)

/-- The requests that a Sealed descriptor, or a FLOOD of either class, makes next are issued in cycle c at the earliest, whatever the
memory (R222, R240). -/
def State.notBefore (s : State) (r : RingId) (d : Slot) (c : Nat) : State :=
  if dSealed d.bytes || d.opc == .flood then
    { s with ports := { s.ports with spaced := (List.range 25).foldl (fun t p =>
        tput t (spaceKey r d.idx p) (c - if p = 24 then 20 else 5)) s.ports.spaced } }
  else s

/-! ### Leaving the issue queues -/

/-- A descriptor dispatched before d waits in a queue of a slice that d needs (R13). -/
def State.queuedBehind (s : State) (r : RingId) (d : Slot) : Bool :=
  !dSealed d.bytes && s.allSlots.any fun e =>
    e.2.phase == .started && !e.2.bound && decide (e.2.turn < d.turn) && !(e.1 == r && e.2.holder == d.holder) &&
      meetsList e.2.slices d.slices

/-- A started descriptor can leave its issue queues: its turn has come in each, and all that it binds is free; a FLOOD has its shares
(R235). -/
def State.bindable (s : State) (r : RingId) (d : Slot) : Bool :=
  d.phase == .started && !d.bound && s.earlierRan r d && !s.queuedBehind r d &&
    ((List.range 24).all fun n => decide (s.unitNeed r (s.unit r d) n ≤ (s.poolsFor n (r, d.holder)).length)) &&
    (!d.takesUnit || d.slices.all fun n => (tget s.slices n {}).unit.isNone) && (d.opc != .flood || d.keyed)

/-- The cycle from which the issue gaps of its slices let a descriptor's requests go: those of a mover by its own slice's, those of a
fetcher by all (R376). -/
def State.issueFrom (s : State) (r : RingId) (d : Slot) (m : Nat) : Nat :=
  maxOf (d.slices.map fun n =>
    let v := tget s.slices n {}
    if v.gap = 0 ∨ (m < 24 ∧ m ≠ n) then 0 else v.nextIssue (some (r, d.idx)))

/-- A descriptor leaves its issue queues: its pools, units and pattern slots are bound to it and its reads are issued. -/
def State.bindSlot (s : State) (r : RingId) (d : Slot) : State :=
  let h := s.ringHost r
  let u := (r, d.holder)
  let ds := s.unit r d
  let s := (List.range 24).foldl (fun (s : State) n => if s.unitNeed r ds n = 0 then s else s.bindPools h u (s.unitNeed r ds n) n) s
  let s := s.bindUnit r d
  let s := s.loadExpanders d
  let s := d.slices.foldl (fun s n => (s.startFills r d n).startScatter r d n) s
  let s := (s.updSlot r d.idx fun e => { e with bound := true, halves := d.firstHalves }).notBefore r d (d.start + 32)
  (s.readReqs r d).foldl (fun s q => s.request { q with issued := max q.issued (s.issueFrom r d q.master) }) s

/-- Inserts a descriptor before those of a later turn. -/
def insertTurn (a : RingId × Slot) : List (RingId × Slot) → List (RingId × Slot)
  | [] => [a]
  | b :: bs => if a.2.turn ≤ b.2.turn then a :: b :: bs else b :: insertTurn a bs

/-- The started descriptors that wait in issue queues, in the order of dispatch. -/
def State.queue (s : State) : List (RingId × Slot) :=
  (s.allSlots.filter fun e => e.2.phase == .started && !e.2.bound).foldr insertTurn []

/-- Every waiting descriptor that can leaves its issue queues. -/
def State.bindWaiting (s : State) : State :=
  s.queue.foldl (fun s e => match s.slotOf e.1 e.2.idx with
    | none => s
    | some d => if s.bindable e.1 d then s.bindSlot e.1 d else s) s

end Sys2Proof.Machine
end

