-- ==== Sys2Proof/Machine/Passes.lean ====
section
/-! DEFINITION. What a descriptor's plan has its slices do (R109, R110): the blocks that the movers fill, the passes and their
maps (Table 05-3, R116, R120 to R123, R135, R136, R141, R215), the exchanges (R83, R84, R108, R153). -/

namespace Sys2Proof.Machine

/-! ### Moves between slices -/

/-- One word of a move: the destination element, its source's slice and place there, its own slice and place, and whether it is
negated. -/
structure MoveWord where
  k : Nat
  src : Nat
  at_ : Nat × Nat
  dst : Nat
  to_ : Nat × Nat
  neg : Bool
  deriving DecidableEq, Repr

/-- An opcode moves whole operands element by element (Table 05-3, R215). -/
def Op.movesWhole : Op → Bool
  | .copy => true
  | .relayout => true
  | .transpose => true
  | .convert => true
  | _ => false

/-- The opcodes whose limbs of N = 2^18 run the pair plan (R108, R123). -/
def Op.pairs : Op → Bool
  | .bitrev => true
  | .automorph => true
  | .negrot => true
  | .extract => true
  | _ => false

/-- The source position of element k of the destination of a move, and whether it is negated (R112 to R119, R122). -/
def Slot.sourceOf (d : Slot) (k : Nat) : Nat × Bool :=
  let x := (d.opD 0).card
  let N := d.degree
  let cc := d.scard.getD (parseCipher [])
  let inLimb (m : Nat × Bool) : Nat × Bool := (k / N * N + m.1, m.2)
  match d.opc with
  | .transpose => (flatten x.dims (transposeSource d.bytes (unflatten (d.opD 4).card.dims k)), false)
  | .bitrev => inLimb (brev (Nat.log2 N) (k % N), false)
  | .automorph => inLimb (autoSource cc.log2n (field d.bytes 84 4) cc.order cc.eval (k % N))
  | .negrot => inLimb (nrotSource cc.log2n (field d.bytes 84 4) (k % N))
  | .extract =>
    let iota := (bits (field d.bytes 84 4) 0 18 + k / (N + 1) * bits (field d.bytes 88 4) 0 18) % N
    let m := (iota + 2 * N - k % (N + 1)) % (2 * N)
    (N + m % N, decide (N ≤ m))
  | _ => (k, false)

/-- The elements of exchange e of a move: all of them, those of limb e, or the first N of sample e (R108, R123). -/
def Slot.movedIn (d : Slot) (e : Nat) : List Nat :=
  let N := d.degree
  if d.opc.movesWhole then (d.opD 4).card.positions
  else if d.opc = .extract then (List.range N).map fun i => e * (N + 1) + i
  else (List.range N).map fun i => e * N + i

/-- Row and bank of element k of an operand in its home slice's block: row 1024p + w is row w of the pool of poolful p, and the upper
half of a limb of 2^18 is poolful 1. -/
def State.cellOf (s : State) (d : Slot) (o : OpSnap) (k : Nat) : Nat × Nat :=
  let limb (skew : Bool) (p : Nat) : Nat × Nat := let c := limbPlace skew d.degree p; (1024 * (p / 2 ^ 17) + c.1, c.2)
  if d.opc.movesWhole then d.placeIn o (s.homed d o (s.homeOf d o k)) k
  else if d.opc = .extract ∧ o.slot = 4 then limb false (k % (d.degree + 1))
  else limb (d.skews o) (k % d.degree)

/-- A pool has row w of a cell's rows: the cell lies in poolful p. -/
def inPoolful (p : Nat) (c : Nat × Nat) : Bool := c.1 / 1024 == p

/-- The words of exchange e of a move, by rising destination position. -/
def State.moveWords (s : State) (d : Slot) (e : Nat) : List MoveWord :=
  (d.movedIn e).map fun k =>
    let f := d.sourceOf k
    { k := k, src := s.homeOf d (d.opD 0) f.1, at_ := s.cellOf d (d.opD 0) f.1, neg := f.2
      dst := s.homeOf d (d.opD 4) k, to_ := s.cellOf d (d.opD 4) k }

/-- The slices that a move's exchange joins. -/
def State.moveSlices (s : State) (ws : List MoveWord) : List Nat := s.sliceSet (ws.flatMap fun w => [w.src, w.dst])

/-- Some word of the move crosses from slice to slice. -/
def crosses (ws : List MoveWord) : Bool := ws.any fun w => w.src != w.dst

/-- The first source element of exchange e of a pair plan. -/
def Slot.pairBase (d : Slot) (e : Nat) : Nat := if d.opc = .extract then d.degree else e * d.degree

/-- The pair plan of exchange e joins two slices: the limb is of N = 2^18, and its halves do not lie on one stack (R10, R41, R108). -/
def State.split (s : State) (d : Slot) (e : Nat) : Bool :=
  d.opc.pairs && decide (d.degree = 2 ^ 18) &&
    s.homeOf d (d.opD 0) (d.pairBase e) != s.homeOf d (d.opD 0) (d.pairBase e + d.degree / 2)

/-- Exchange e of a plan takes place: for limbs of N = 2^18 on two stacks, in a move of whole operands when some word crosses (R108,
R109). -/
def State.exchanged (s : State) (d : Slot) (e : Nat) : Bool := s.split d e || (d.opc.movesWhole && crosses (s.moveWords d e))

/-- The exchange and the slice of block l of a move's passes: for limbs, half l mod 2 of limb or sample l / 2. -/
def State.movePart (s : State) (d : Slot) (l : Nat) (dest : Bool) : Nat × Nat :=
  if d.opc.movesWhole then (0, l)
  else
    let N := d.degree
    let e := l / 2
    let half := l % 2 * (N / 2)
    let k := if d.opc = .extract then e * (N + 1) + half else e * N + half
    (e, if dest then s.homeOf d (d.opD 4) k else s.homeOf d (d.opD 0) (d.pairBase e + half))

/-- Exchanges of a pair plan: one for each limb, or for each sample of EXTRACT (R108, R123). -/
def Slot.pairCount (d : Slot) : Nat := (d.opD 4).card.count / if d.opc = .extract then d.degree + 1 else d.degree

/-- What the block in pool k of slice n is of its plan: the stack and its poolful, or the limb and its half. -/
def State.heldPart (s : State) (n k : Nat) (d : Slot) : Nat × Nat :=
  match ((tget s.slices n {}).pool k).holds with
  | none => (0, 0)
  | some (_, b) =>
    if d.opc.movesWhole then
      let ms := (s.fillBlocks d (d.opD 0) n).map (·.1)
      let m := ms.getD b n
      (m, b - ms.idxOf m)
    else (b / 2, b % 2)

/-! ### The turner's tiles (R75, R116) -/

/-- Row and lane at which row i, column j of tile t enters the turner, and at which it leaves it. -/
def tileIn (t i j : Nat) : Nat × Nat := (8 * (t / 4) + i / 2, 32 * (t % 4) + 16 * (i % 2) + j)
def tileOut (t i j : Nat) : Nat × Nat := tileIn t j i

/-- The place that the turner carries to word w of its rows. -/
def turnBack (w : Nat) : Nat × Nat :=
  let lane := w % 128
  tileIn (w / 1024 * 4 + lane / 32) (lane % 16) (2 * (w / 128 % 8) + lane % 32 / 16)

/-- A TRANSPOSE of case B (R116). -/
def Slot.turned (d : Slot) : Bool :=
  let r := (d.opD 4).card.rank
  d.opc == .transpose && permField d.bytes (r - 1) != r - 1

/-- The 16 × 16 tile of a source element in the plane of the source's last axis and of source axis PERM_{r-1}, as the other indices
and the tile's number on each axis; and its row and column in the tile. -/
def Slot.tileOf (d : Slot) (k : Nat) : List Nat × Nat × Nat :=
  let y := (d.opD 4).card
  let ax := permField d.bytes (y.rank - 1)
  let i := transposeSource d.bytes (unflatten y.dims k)
  let a := i.getD ax 0
  let b := i.getLastD 0
  ((i.dropLast.set ax 0) ++ [a / 16, b / 16], a % 16, b % 16)

/-- Tile, row and column of the words of a turn within one slice, the tiles by first appearance (DESIGN CHOICE, log 71). -/
def Slot.tiles (d : Slot) (ws : List MoveWord) : List (MoveWord × Nat × Nat × Nat) :=
  let names := (ws.map fun w => (d.tileOf w.k).1).eraseDups
  ws.map fun w => let t := d.tileOf w.k; (w, names.idxOf t.1, t.2.1, t.2.2)

/-! ### Streams -/

/-- The words of one transfer in the order of its streams: by destination position, or tile by tile as the turner's rows leave it (DESIGN
CHOICE, log 71). -/
def Slot.inOrder (d : Slot) (ws : List MoveWord) : List MoveWord :=
  if d.turned then
    let ts := (d.tiles ws).map fun t => (tileOut t.2.1 t.2.2.1 t.2.2.2, t.1)
    let rows := 8 * (maxOf (ts.map fun t => t.1.1 / 8) + 1)
    (List.range rows).flatMap fun c => (List.range 128).filterMap fun b => (ts.find? fun t => t.1 == (c, b)).map (·.2)
  else ws

/-- The send stream of slice a and the receive stream of slice b in the shift schedule (R79, R83). -/
def State.sendStream (s : State) (d : Slot) (ws : List MoveWord) (a : Nat) : List MoveWord :=
  (List.range s.nslices).flatMap fun r => d.inOrder (ws.filter fun w => w.src == a && w.dst == (a + r) % s.nslices)
def State.recvStream (s : State) (d : Slot) (ws : List MoveWord) (b : Nat) : List MoveWord :=
  (List.range s.nslices).flatMap fun r => d.inOrder (ws.filter fun w => w.dst == b && w.src == (b + s.nslices - r) % s.nslices)

/-- Words that a move carries from slice a to slice b. -/
def carried (ws : List MoveWord) (a b : Nat) : Nat := (ws.filter fun w => w.src == a && w.dst == b).length

/-- The rounds of a move's words: those of the shift schedule (R83). The two slices of a pair exchange what crosses in one round, after
the words that stay, 2048 beats in all (R108; DESIGN CHOICE, log 94: by R83 alone the two directions would pass in rounds of their own
where the stacks are not opposite). -/
def State.moveRounds (s : State) (d : Slot) (ws : List MoveWord) : List Round :=
  if d.opc.pairs then
    let mate (a : Nat) : Option Nat := (List.range s.nslices).find? fun b => b != a && decide (0 < carried ws a b)
    [{ dst := List.range 24, words := (List.range 24).map fun a => carried ws a a },
     { dst := (List.range 24).map fun a => (mate a).getD 31
       words := (List.range 24).map fun a => match mate a with
         | some b => carried ws a b
         | none => 0 }]
  else shiftRounds s.nslices fun r a => carried ws a ((a + r) % s.nslices)

/-! ### The words of a plan's pass -/

/-- Rows at to at + rows - 1 of some placed words, each with its cycle and what it is, its place first. -/
def rowsFrom {α : Type} (at_ rows : Nat) (ws : List ((Nat × Nat) × α)) : List (Nat × Nat × α) :=
  ws.filterMap fun w => if at_ ≤ w.1.1 ∧ w.1.1 < at_ + rows then some (w.1.1 - at_, w.1.2, w.2) else none

/-- A stream's words at their places in it (R79). -/
def streamPlaces (ws : List MoveWord) : List ((Nat × Nat) × MoveWord) := ws.zipIdx.map fun e => (plainAt e.2, e.1)

/-- A word, or a free one where it is undefined, by the place of its element: one apart from those of the destinations (log 1). -/
def State.definedOr (s : State) (k : Nat) (w : Option Nat) : Nat := w.getD (Config.freeWord (s.clk.free + 2 ^ 60 + k)).toNat

/-- What a word becomes on its way: CONVERT's value, EXTRACT's canonical residue (R122, R215); a free word where it is undefined. -/
def State.passValue (s : State) (d : Slot) (k w : Nat) : Nat :=
  let a := d.opD 0
  let b := d.opD 4
  match d.opc with
  | .convert =>
    let idx := unflatten b.card.dims k
    let sigma := field d.bytes 86 2
    let ctl := byteAt d.bytes 84
    s.definedOr k ((convertElem (convertTy s d a idx) (convertTy s d b idx) (if sigma = 0 then (1, 1) else scaleOf sigma) (bits ctl 0 3) (bit ctl 3)
      (stochR (field d.bytes 88 8) k) (narrow a.card.ty w)).map (widen b.card.ty))
  | .extract => s.definedOr k (canonIn a.card.ty (s.modulus (d.scard.getD (parseCipher [])).chain 0) w)
  | _ => w

/-- Gather pass: the send stream's rows from `at_` on, those of their words whose source lies in poolful `p` (Table 05-3). -/
def State.gatherPass (s : State) (d : Slot) (l at_ p first rows : Nat) (rd : ReadSide) : List (Nat × Nat × Nat) :=
  let m := s.movePart d l false
  ((rowsFrom at_ rows (streamPlaces (s.sendStream d (s.moveWords d m.1) m.2))).filter fun e => inPoolful p e.2.2.at_).map fun e =>
    (first + e.1, e.2.1, s.passValue d e.2.2.k (rd e.1 (e.2.2.at_.1 % 1024) e.2.2.at_.2 e.2.2.neg))

/-- The words of a place pass, each with its place in the source pool: a receive stream, or the turned rows of a turn within one slice. -/
def State.placeWords (s : State) (d : Slot) (l : Nat) : List ((Nat × Nat) × MoveWord) :=
  let m := s.movePart d l true
  let ws := s.moveWords d m.1
  if s.exchanged d m.1 then streamPlaces (s.recvStream d ws m.2)
  else (d.tiles (ws.filter fun w => w.dst == m.2)).map fun t => (tileOut t.2.1 t.2.2.1 t.2.2.2, t.1)

/-- Place pass: the rows of its words from `at_` on, to the places of those that lie in poolful `part` of the destination. Where a limb of
2^18 lies on one stack there is no stream: the pass carries what half `p` of the source gives to half `part` (R10, R41). -/
def State.placePass (s : State) (d : Slot) (l at_ part p first rows : Nat) (rd : ReadSide) : List (Nat × Nat × Nat) :=
  if d.opc.pairs && !s.exchanged d (l / 2) then
    ((s.moveWords d (l / 2)).filter fun w => inPoolful p w.at_ && inPoolful part w.to_).map fun w =>
      (w.to_.1 % 1024, w.to_.2, s.passValue d w.k (rd (w.to_.1 % 1024) (w.at_.1 % 1024) w.at_.2 w.neg))
  else ((rowsFrom at_ rows (s.placeWords d l)).filter fun e => inPoolful part e.2.2.to_).map fun e =>
    (e.2.2.to_.1 % 1024, e.2.2.to_.2, rd e.1 (first + e.1) e.2.1 false)

/-- Align pass: 16 × 16 tiles in the order of the turner, or, where words cross, so that its turned rows are the send stream (R116); the
words whose source lies in poolful `p`. -/
def State.alignPass (s : State) (d : Slot) (l at_ p first rows : Nat) (rd : ReadSide) : List (Nat × Nat × Nat) :=
  let ws := s.moveWords d 0
  let mine := if s.exchanged d 0 then (s.sendStream d ws l).zipIdx.map fun e => (turnBack e.2, e.1)
    else (d.tiles (ws.filter fun w => w.src == l)).map fun t => (tileIn t.2.1 t.2.2.1 t.2.2.2, t.1)
  ((rowsFrom at_ rows mine).filter fun e => inPoolful p e.2.2.at_).map fun e =>
    (first + e.1, e.2.1, rd e.1 (e.2.2.at_.1 % 1024) e.2.2.at_.2 false)

/-- Where output k of instance l takes its word: a source element, or none for the fill value (R131, R132, R140). -/
def State.pickOf (s : State) (r : RingId) (d : Slot) (l k : Nat) : Option (Nat × Bool) :=
  let x := d.opD 0
  match d.opc with
  | .gather => resolve (ixMode d.bytes) x.card.last (indexAt s r d l k)
  | .window => (windowSource d.bytes x.card.dims (unflatten (d.opD 4).card.dims (l * d.perInstance (d.opD 4) + k))).map fun i =>
      (flatten x.card.dims i % d.perInstance x, false)
  | _ => none

/-- The pass of GATHER or WINDOW over instance l, up to 1024 destination rows from `at_` on: each lane carries its source word, negated,
or FILL reduced, under its own element's modulus (R130, R135, R141). -/
def State.pickPass (s : State) (r : RingId) (d : Slot) (l at_ first rows : Nat) (rd : ReadSide) : List (Nat × Nat × Nat) :=
  let y := (d.opD 4).card
  let m := d.perInstance (d.opD 4)
  (List.range (min (min rows 1024) (ceilDiv m 128 - at_))).flatMap fun c => (List.range 128).filterMap fun b =>
    let k := 128 * (at_ + c) + b
    if k < m then
      let q := s.bound (binding d.bytes) y.ty (unflatten y.dims (l * m + k))
      some (first + c, b, match s.pickOf r d l k with
        | some p => let w := rd c (p.1 / 128) (p.1 % 128) false; if p.2 then negWord y.ty q.1 q.2 w else w
        | none => widen y.ty (fillBits y q))
    else none

/-- The in-bounds entries of instance l of a SCATTER, in the order of its pass: entry, position, negated (R136). -/
def State.entries (s : State) (r : RingId) (d : Slot) (l : Nat) : List (Nat × Nat × Bool) :=
  let es := (List.range (d.perInstance (d.opD 0))).filterMap fun k =>
    (resolve (ixMode d.bytes) (d.opD 4).card.last (indexAt s r d l k)).map fun p => (k, p.1, p.2)
  if ixPolicy d.bytes = 1 then es.reverse else es

/-- The pass of an Open SCATTER over instance l: a later write replaces an earlier one, or adds to it (R133, R136). -/
def State.scatterPass (s : State) (r : RingId) (d : Slot) (l : Nat) (rd : ReadSide) : List (Nat × Nat × Nat) :=
  let ty := (d.opD 4).card.ty
  let mods (p : Nat) := s.bound (binding d.bytes) ty (unflatten (d.opD 4).card.dims (l * (d.opD 4).card.last + p))
  let word (e : Nat × Nat × Bool) : Nat :=
    let w := rd (e.1 / 128) (e.1 / 128) (e.1 % 128) false
    if e.2.2 then negWord ty (mods e.2.1).1 (mods e.2.1).2 w else w
  let es := s.entries r d l
  es.map fun e => (e.2.1 / 128, e.2.1 % 128,
    if ixPolicy d.bytes = 2 then
      s.definedOr e.1 ((modSum ty (mods e.2.1) ((es.filter fun x => x.2.1 == e.2.1 && decide (x.1 ≤ e.1)).map fun x =>
        narrow ty (word x))).map (widen ty))
    else word e)

/-- The pass of LUTPOLY over half l of the polynomial: a table entry of the slice's fill, or a pass constant (R120, R123). -/
def State.lutPass (s : State) (r : RingId) (d : Slot) (l first rows : Nat) (rd : ReadSide) : List (Nat × Nat × Nat) :=
  let t := d.opD 0
  let n := bits (byteAt d.bytes 84) 0 5
  let delta := 2 ^ (n - bits (byteAt d.bytes 85) 0 5)
  let q := (s.bound (binding d.bytes) tyU64 []).1
  let own := if d.sharesIndex t then s.touchedOf d t else s.homed d t (s.homeOf d (d.opD 4) (l * 2 ^ 17))
  (List.range rows).flatMap fun c => (List.range 128).map fun b =>
    let e := (l * 2 ^ 17 + 128 * c + b + if bit (byteAt d.bytes 86) 0 then delta / 2 else 0) / delta
    let at_ := plainAt (own.idxOf e)
    (first + c, b, if own.contains e then rd c at_.1 at_.2 false
      else ((d.consts.find? fun c => c.1 == e).map (·.2)).getD
        (if e < t.card.count then s.source r t e else residueNeg q (s.source r t 0)))

/-- The pass of CONVERT within slice l, destination rows from `at_` on, of the words whose source lies in poolful `p` (R215). -/
def State.convertPass (s : State) (d : Slot) (l at_ p rows : Nat) (rd : ReadSide) : List (Nat × Nat × Nat) :=
  ((rowsFrom at_ rows (((s.moveWords d 0).filter fun w => w.dst == l).map fun w => (w.to_, w))).filter fun e => inPoolful p e.2.2.at_).map
    fun e => (e.2.2.to_.1 % 1024, e.2.1, s.passValue d e.2.2.k (rd e.1 (e.2.2.at_.1 % 1024) e.2.2.at_.2 false))

/-- The pass of sample t of EXTRACT (R122): the source limb is polynomial 1, block 1. -/
def State.extractPass (s : State) (d : Slot) (t first rows : Nat) (rd : ReadSide) : List (Nat × Nat × Nat) :=
  let N := d.degree
  let v := s.serve (s.homeOf d (d.opD 0) N)
  let base := (((s.fillBlocks d (d.opD 0) v).map (·.1)).idxOf 1) % d.perPool (d.opD 0) * (N / 128)
  (List.range rows).flatMap fun c => (List.range 128).map fun b =>
    let k := t * (N + 1) + 128 * c + b
    let f := d.sourceOf k
    let pl := plainAt (f.1 % N)
    (first + c, b, s.passValue d k (rd c (base + pl.1) pl.2 f.2))

/-! ### The records of a Sealed GATHER or SCATTER (R139, Table 06-5) -/

/-- The slices' part of a Sealed GATHER or SCATTER. -/
def Slot.sealedIndex (d : Slot) : Bool := dSealed d.bytes && (d.opc == .gather || d.opc == .scatter)

/-- Elements of an instance's last-axis rows: of its entries (M), and of the source or destination (S). -/
def Slot.recM (d : Slot) : Nat := if d.opc = .scatter then (d.opD 0).card.last else (d.opD 4).card.last
def Slot.recS (d : Slot) : Nat := if d.opc = .scatter then (d.opD 4).card.last else (d.opD 0).card.last

/-- The records of instance l as key generation forms them: key and payload. -/
def State.records (s : State) (r : RingId) (d : Slot) (l : Nat) : List (Nat × Nat) :=
  (List.range d.recM).map fun k =>
    let at_ := resolve (ixMode d.bytes) d.recS (indexAt s r d l k)
    if d.opc = .gather then
      match at_ with
      | some p => (p.1, k + if p.2 then 2 ^ 31 else 0)
      | none => (2 ^ 31, k)
    else
      let ty := (d.opD 0).card.ty
      let raw := s.source r (d.opD 0) (l * d.recM + k)
      match at_ with
      | some p =>
        let q := s.bound (binding d.bytes) ty (unflatten (d.opD 4).card.dims (l * d.recS + p.1))
        (p.1, widen ty (negBits ty q p.2 raw))
      | none => (2 ^ 31, widen ty raw)

/-- The records in the order of the forward sort, which is stable. -/
def State.sortedRecords (s : State) (r : RingId) (d : Slot) (l : Nat) : List (Nat × Nat) := (s.records r d l).foldr insertKey []

/-- The records of a SCATTER after the combine stage: of a run of one key the last stays, with the sum under MODADD, and the others
are marked with bit 30. That the last carries the sum is a DESIGN CHOICE (log 94). -/
def State.combined (s : State) (r : RingId) (d : Slot) (l : Nat) : List (Nat × Nat) :=
  let rs := s.sortedRecords r d l
  rs.zipIdx.map fun e =>
    let (key, pay) := e.1
    if 2 ^ 31 ≤ key then (key, pay)
    else if (rs.drop (e.2 + 1)).any fun x => x.1 == key then (key + 2 ^ 30, pay)
    else if ixPolicy d.bytes = 2 then
      let ty := (d.opD 4).card.ty
      let q := s.bound (binding d.bytes) ty (unflatten (d.opD 4).card.dims (l * d.recS + key))
      (key, s.definedOr e.2 ((modSum ty q ((rs.filter fun x => x.1 == key).map fun x => narrow ty x.2)).map (widen ty)))
    else (key, pay)

/-- The key that pads a list of records (R139). -/
def padKey : Nat := 0xFFFF_FFFF

/-- The key of an index word: its position, or 0x8000_0000; and whether its record is negated (R139). -/
def Slot.keyOf (d : Slot) (w : Nat) : Nat × Bool :=
  match resolve (ixMode d.bytes) d.recS (signed (w % 2 ^ 32) 32) with
  | some p => p
  | none => (2 ^ 31, false)

/-- Rows that stage `stage` of an instance's Sealed plan issues (Table 06-4). -/
def Slot.stageRows (d : Slot) (stage : Nat) : Nat :=
  let m := ceilDiv d.recM 128
  let n := ceilDiv d.recS 128
  let scatter := decide (d.opc = .scatter)
  match stage with
  | 0 => m
  | 1 => m
  | 2 => if scatter then sortLevels d.recM * m else n + m
  | 3 => if scatter then sortLevels d.recM * m else n + m
  | 4 => if scatter then n + m else 0
  | 5 => if scatter then n else 0
  | _ => 0

/-- The words of a stage of an instance's Sealed plan but for its sorts, in order (Table 06-4, Table 06-5): 0 and 1, the keys and the
payloads of the records, from the index rows, or for a SCATTER's payloads the value rows; 2 and 3, those after the combine stage of a
SCATTER, from the sorted keys and payloads, or after the merge sweep of a GATHER, from the sorted payloads and the source rows; 4, the merge
sweep of a SCATTER, from the destination rows; 5, its write-back. -/
def State.recordStage (s : State) (r : RingId) (d : Slot) (l stage : Nat) (rd : ReadSide) : List Nat :=
  let word (k : Nat) : Nat := rd (k / 128) (k / 128) (k % 128) false
  let scatter := decide (d.opc = .scatter)
  let lanes := 128 * ceilDiv d.recM 128
  let ty := (d.opD 0).card.ty
  let y := (d.opD 4).card
  let mods (p : Nat) := s.bound (binding d.bytes) y.ty (unflatten y.dims (l * y.last + p))
  match stage with
  | 0 => (List.range lanes).map fun k => if k < d.recM then (d.keyOf (word k)).1 else padKey
  | 1 =>
    if scatter then (List.range d.recM).map fun k =>
      match resolve (ixMode d.bytes) d.recS (indexAt s r d l k) with
      | some p => widen ty (negBits ty (mods p.1) p.2 (narrow ty (word k)))
      | none => word k
    else (List.range d.recM).map fun k => k + if (d.keyOf (word k)).2 then 2 ^ 31 else 0
  | 2 =>
    if scatter then
      let ks := (List.range lanes).map fun k => word k % 2 ^ 32
      ks.zipIdx.map fun e => if e.1 < 2 ^ 31 ∧ (ks.drop (e.2 + 1)).contains e.1 then e.1 + 2 ^ 30 else e.1
    else (List.range lanes).map fun k => if k < d.recM then word k % 2 ^ 17 else padKey
  | 3 =>
    let rs := s.sortedRecords r d l
    if scatter then rs.zipIdx.map fun e =>
      if ixPolicy d.bytes = 2 ∧ e.1.1 < 2 ^ 31 then
        let run := rs.zipIdx.filter fun x => x.1.1 == e.1.1 && decide (x.2 ≤ e.2)
        s.definedOr e.2 ((modSum y.ty (mods e.1.1) (run.map fun x => narrow y.ty (word x.2))).map (widen y.ty))
      else word e.2
    else rs.map fun e =>
      let q := mods (e.2 % 2 ^ 17)
      if 2 ^ 31 ≤ e.1 then widen y.ty (fillBits y q) else widen y.ty (negBits y.ty q (bit e.2 31) (narrow y.ty (word e.1)))
  | 4 =>
    let rs := s.combined r d l
    (List.range d.recS).map fun p => ((rs.find? fun e => e.1 == p).map (·.2)).getD (word p)
  | _ => (List.range d.recS).map word

/-- The words of a plan stage's pass whose source pool holds poolful or half `p` of its block. -/
def State.planPass (s : State) (r : RingId) (d : Slot) (p first rows : Nat) (g : Gen) (rd : ReadSide) : List (Nat × Nat × Nat) :=
  match g with
  | .gather l at_ => s.gatherPass d l at_ p first rows rd
  | .place l at_ part => s.placePass d l at_ part p first rows rd
  | .align l at_ => s.alignPass d l at_ p first rows rd
  | .extract t => s.extractPass d t first rows rd
  | .index l at_ =>
    if d.sealedIndex then (s.recordStage r d l at_ rd).zipIdx.map fun e => (e.2 / 128, e.2 % 128, e.1)
    else match d.opc with
    | .scatter => s.scatterPass r d l rd
    | .lutpoly => s.lutPass r d l first rows rd
    | .convert => s.convertPass d l at_ p rows rd
    | _ => s.pickPass r d l at_ first rows rd
  | _ => []

/-! ### The passes that a plan has -/

/-- Rows that the pass of an index opcode issues for its rows from `at_` on (R135, R136, R141). -/
def State.pickRows (s : State) (r : RingId) (d : Slot) (l at_ : Nat) : Nat :=
  if d.opc = .scatter then
    let es := s.entries r d l
    let load (c : Nat) : Nat := bankLoad ((es.filter fun e => e.1 / 128 == c).map fun e => e.2.1)
    let n := sumOf ((List.range (ceilDiv (d.perInstance (d.opD 0)) 128)).map load)
    if ixPolicy d.bytes = 2 then 2 * n else n
  else
    let m := d.perInstance (d.opD 4)
    sumOf ((List.range (min 1024 (ceilDiv m 128 - at_))).map fun c =>
      bankLoad (((List.range (min 128 (m - 128 * (at_ + c)))).filterMap fun b => (s.pickOf r d l (128 * (at_ + c) + b)).map (·.1))))

/-- The limb opcodes' generators (Table 03-6, R117 to R119). -/
def Slot.limbGen (d : Slot) (g : Gen) : Bool :=
  let cc := d.scard.getD (parseCipher [])
  let n := Nat.log2 d.degree
  match d.opc with
  | .bitrev => g == if cc.order && d.scard.isSome then .brevInv n else .brev n
  | .automorph => g == .auto n (field d.bytes 84 4) cc.order cc.eval
  | .negrot => g == .nrot n (field d.bytes 84 4)
  | _ => false

/-- The step of a pattern program that comes next for the share of slice m: the first one from its count on that has m take part (R124:
steps run in order). -/
def Slot.nextStep (d : Slot) (m : Nat) : Option Nat :=
  (List.range (ppSteps d.image)).find? fun i =>
    decide (tget d.steps m 0 ≤ i) && let st := ppStep d.image i
      (byteAt st 0 == 2 && (ppSlices d.image).contains m) || (byteAt st 0 == 1 && (onesOf 24 (field st 8 3)).contains m)

/-- The share whose next step is a LOCAL step with this first entry, entry count and pools of slice v (R124). -/
def State.localRole (s : State) (r : RingId) (d : Slot) (v src dst e0 rows : Nat) : Option Nat :=
  (s.servedOf (ppSlices d.image) v).find? fun m => match d.nextStep m with
    | none => false
    | some i =>
      let st := ppStep d.image i
      byteAt st 0 == 1 && field st 4 2 == e0 && field st 6 2 == rows && s.physPool r d v m (byteAt st 1) == src &&
        s.physPool r d v m (byteAt st 2) == dst

/-- Pool k of slice n holds the block of operand o that instance l takes: the mover has filled it, or its chain keeps it there. -/
def State.poolHas (s : State) (d : Slot) (n k l : Nat) (o : OpSnap) : Bool :=
  let p := (tget s.slices n {}).pool k
  p.kept == some (o.stack, o.addr) || match p.holds with
    | some (j, b) => j == o.slot && (b == l || d.sharesIndex o)
    | none => false

/-- The source pool of a stage of a Sealed GATHER or SCATTER is the one that the stage reads (Table 06-4). -/
def State.stageSource (s : State) (d : Slot) (n k l stage : Nat) : Bool :=
  let scatter := decide (d.opc = .scatter)
  match stage with
  | 0 => s.poolHas d n k l (d.opD 1)
  | 1 => s.poolHas d n k l (d.opD (if scatter then 0 else 1))
  | 3 => scatter || s.poolHas d n k l (d.opD 0)
  | 4 => s.poolHas d n k l (d.opD 4)
  | _ => true

/-- Instance l of an index or window opcode has slice v for its home (R129). -/
def State.homeIs (s : State) (d : Slot) (l v : Nat) : Bool :=
  let o := if d.opc = .scatter then d.opD 4 else d.opD 0
  decide (l * d.perInstance o < o.card.count) && s.serve (s.homeOf d o (l * d.perInstance o)) == v

/-- Read selects and fill flags that a command may bring of its own: none. Every generator sets them itself; those of the sequencer's
copies and sorts read x on every lane, and no plan has such a pass read outside an extent (R59, Table 03-6). -/
def idleMasks (ms : List (BitVec 128)) : Bool := ms.all (· == 0)

/-- The plan of descriptor d has slice v run a pass with generator g over `rows` rows, from pool src to pool dst (R64, R70, R109). -/
def State.planHas (s : State) (r : RingId) (d : Slot) (v src dst rows : Nat) : Gen → Bool
  | .seq => d.opc.bindsUnit && d.opc != .convert && d.opc != .tileprog || d.sealedIndex
  | .sorted kp =>
    let p := (tget s.slices v {}).pool kp
    d.sealedIndex && p.user == some (r, d.holder) && p.ready
  | .pattern e0 => d.opc == .pattern && (s.localRole r d v src dst e0 rows).isSome
  | .turner => d.turned
  | .align l _ => d.turned && s.serve l == v && (s.heldPart v src d).1 == l
  | .gather l _ =>
    let m := s.movePart d l false
    let h := s.heldPart v src d
    !d.turned && s.exchanged d m.1 && s.serve m.2 == v &&
      if d.opc.movesWhole then h.1 == l else decide (m.1 < d.pairCount) && h == (d.pairBase m.1 / d.degree, l % 2)
  | .place l _ part =>
    let m := s.movePart d l true
    s.serve m.2 == v &&
      if d.opc.movesWhole then d.turned || s.exchanged d m.1
      else d.opc.pairs && decide (d.degree = 2 ^ 18) && decide (m.1 < d.pairCount) && decide (part = l % 2) &&
        (s.exchanged d m.1 || (decide (rows = 1024) && (s.heldPart v src d).1 == d.pairBase m.1 / d.degree))
  | .extract t => d.opc == .extract && decide (d.degree ≤ 2 ^ 17) && decide (128 * rows = d.degree) && decide (t < d.pairCount)
  | .index l at_ =>
    if d.sealedIndex then s.homeIs d l v && decide (rows = d.stageRows at_) && s.stageSource d v src l at_
    else match d.opc with
    | .lutpoly => decide (128 * rows = d.limbUnit) && decide (l * 2 ^ 17 < d.degree) && s.serve (s.homeOf d (d.opD 4) (l * 2 ^ 17)) == v
    | .convert => !crosses (s.moveWords d 0) && s.serve l == v && (s.heldPart v src d).1 == l && decide (at_ % 1024 + rows ≤ 1024)
    | .gather => s.homeIs d l v && decide (rows = s.pickRows r d l 0) && decide (at_ = 0) && s.poolHas d v src l (d.opD 0)
    | .scatter => s.homeIs d l v && decide (rows = s.pickRows r d l 0) && decide (at_ = 0) && s.poolHas d v src l (d.opD 0)
    | .window => s.homeIs d l v && decide (rows = s.pickRows r d l at_) && decide (at_ % 1024 = 0) && s.poolHas d v src l (d.opD 0)
    | _ => false
  | .lanes zeros negs fills g => idleMasks (zeros ++ negs ++ fills) && s.planHas r d v src dst rows g
  | g => d.limbGen g && decide (d.degree ≤ 2 ^ 17)

/-! ### The waves of BASECONV (R153, R154) -/

/-- The positions that slice a sends in an exchange of BASECONV, in order: wave by wave to each receiver of the shift schedule, the
receiver's row of every source-limb part on a's stack; or its own row of every target limb, to the slice beside the stack that holds
it. -/
def State.waveStream (s : State) (d : Slot) (inbound : Bool) (a : Nat) : List Nat :=
  let N := d.degree
  let o := if inbound then d.opD 0 else d.opD 4
  let limbs := if inbound then (s.waveLimbs d).1 else (s.waveLimbs d).2
  (List.range (s.wavesOf true (N / 128))).flatMap fun w => (List.range s.nslices).flatMap fun r =>
    let b := (a + r) % s.nslices
    match (s.rowsOf true (N / 128) (if inbound then b else a))[w]? with
    | none => []
    | some row => limbs.flatMap fun p => ((List.range 128).map fun i => p + 128 * row + i).filter fun k =>
        s.sliceAt o k == if inbound then a else b

/-- The word of a source element as its slice sends it: with PRE = 1 the Char engine has applied OFFSET and PRE (R153); a free word
where that is undefined. -/
def State.waveIn (s : State) (r : RingId) (d : Slot) (k : Nat) : Nat :=
  let x := (d.opD 0).card
  let raw := s.source r (d.opD 0) k
  if bit (byteAt d.bytes 84) 1 && !bit (byteAt d.bytes 84) 0 then
    match tableBlocks d.image with
    | [] => widen x.ty raw
    | b :: _ =>
      let S := basisOf b.smask
      let i := k / d.degree % S.length
      let m := s.modulus (d.scard.getD (parseCipher [])).chain (S.getD i 0)
      s.definedOr k (((canonIn x.ty m raw).bind fun v => prescale m v (b.offset i) (b.pre i)).map (canonOut x.ty m))
  else widen x.ty raw

/-- The word of a destination element as the store places it in the send stream (R154); a free word where it is undefined. -/
def State.waveOut (s : State) (r : RingId) (d : Slot) (k : Nat) : Nat :=
  let vs := (baseconvEffect s r d).vals.flatMap (·.2)
  s.definedOr k ((vs.lookup k).join.map (widen (d.opD 4).card.ty))

/-! ### The exchanges that a plan has -/

/-- The plan of descriptor d has the exchange e: that of a PATTERN's step as its image gives it (R84), the waves of BASECONV, those
out of the Retort without a send segment, since no pool holds what they send (R153, R154), the moves that cross, limb by limb for
N = 2^18 (R83, R108). A plan without an exchange never uses the Flue (R109). -/
def State.planExchanges (s : State) (d : Slot) (e : ExchSpec) : Bool :=
  let fits (i : Nat) : Bool :=
    let ws := s.moveWords d i
    s.exchanged d i && e.slices == s.moveSlices ws && sameRounds e.rounds (s.moveRounds d ws)
  match d.opc with
  | .pattern => (List.range (ppSteps d.image)).any fun i =>
      byteAt (ppStep d.image i) 0 == 2 && (ppSlices d.image).all (fun m => d.nextStep m == some i) &&
        let p := parseSched (ppSlices d.image) (tget d.aux (100 + i) [])
        e.slices == p.slices && e.send == p.send && e.recv == p.recv && e.rounds == p.rounds
  | .baseconv =>
    let N := d.degree
    let wave (o : OpSnap) (limbs : List Nat) (inbound : Bool) : List Round :=
      (List.range (s.wavesOf true (N / 128))).flatMap fun w => shiftRounds s.nslices fun r a =>
        s.waveTraffic true o N limbs inbound w a ((a + r) % s.nslices)
    let l := s.waveLimbs d
    e.slices == (s.planOf .baseconv d).flue && sameRounds e.rounds (if e.send.isEmpty then wave (d.opD 4) l.2 false else wave (d.opD 0) l.1 true)
  | op =>
    if op.movesWhole then fits 0
    else op.pairs && (List.range d.pairCount).any fits

end Sys2Proof.Machine
end

