-- ==== Sys2Proof/Machine/Drains.lean ====
section
/-! DEFINITION. What leaves a slice's pools: the destination blocks that passes write (R110, R136, R141), their drains while the run
goes on, and the drains of what is left at its end (R54). -/

namespace Sys2Proof.Machine

/-! ### Blocks -/

/-- Pool k of slice n. -/
def State.pool (s : State) (n k : Nat) : Pool := (tget s.slices n {}).pool k

/-- Updates pool k of slice n. -/
def State.updPool (s : State) (n k : Nat) (f : Pool → Pool) : State :=
  { s with slices := tupd s.slices n {} fun v => v.updPool k f }

/-- The limb whose rows from `first` on a pass reads in pool k of slice n. -/
def State.passLimb (s : State) (n k : Nat) (d : Slot) (first : Nat) : Nat :=
  let bs := (s.fillBlocks d (d.opD 0) n).map (·.1)
  let i := match (s.pool n k).holds with
    | some b => bs.idxOf b.2
    | none => 0
  bs.getD (i + first / (d.limbUnit / 128)) 0

/-- The destination positions that a pass over pool k of slice n writes whole, so that their drain can begin: a limb, a sample, an
instance, 1024 rows of one, or the poolful of a stack; none in the Sealed class, whose drains have their own cycle (R110, R111). -/
def State.blockOf (s : State) (n k : Nat) (d : Slot) (g : Gen) (first rows : Nat) : List Nat :=
  let y := d.opD 4
  let m := d.perInstance y
  let run (a c : Nat) : List Nat := (List.range c).map (a + ·)
  let limb := run (s.passLimb n k d first * d.degree) d.degree
  let whole (ws : List ((Nat × Nat) × MoveWord)) (at_ : Nat) : List Nat :=
    if ws.all fun w => decide (at_ ≤ w.1.1 ∧ w.1.1 < at_ + rows) then ws.map (·.2.k) else []
  if dSealed d.bytes || y.res then []
  else match g with
  | .brev _ => limb
  | .brevInv _ => limb
  | .auto _ _ _ _ => limb
  | .nrot _ _ => limb
  | .extract t => run (t * (d.degree + 1)) d.degree
  | .place l at_ part =>
    if d.opc.pairs && !s.exchanged d (l / 2) then [] else whole ((s.placeWords d l).filter fun w => inPoolful part w.2.to_) at_
  | .index l at_ =>
    match d.opc with
    | .lutpoly => run (l * 2 ^ 17) d.limbUnit
    | .gather => run (l * m) m
    | .scatter => run (l * m) m
    | .window => run (l * m + 128 * at_) (min 131072 (m - 128 * at_))
    | .convert => whole (((s.moveWords d 0).filter fun w => w.dst == l && inPoolful (at_ / 1024) w.to_).map fun w => (w.to_, w)) at_
    | _ => []
  | _ => []

/-! ### Drains -/

/-- An Open SCATTER, whose target map says which positions its drains write (R136). -/
def Slot.maps (d : Slot) : Bool := d.opc == .scatter && !dSealed d.bytes

/-- The role that a pool takes when the mover has drained it in the course of a run: the Retort's for a tile program, which goes on
writing it; a wipe for the scratch pool of a MODADD whose slice has instances to come (R54, R136, R180). -/
def State.drainedRole (s : State) (d : Slot) (n : Nat) : Role :=
  let m := d.perInstance (d.opD 4)
  if d.opc = .tileprog then .retort
  else if d.maps ∧ ixPolicy d.bytes = 2 ∧ ((List.range ((d.opD 4).card.count / max 1 m)).any fun l =>
      s.homeIs d l n && !d.sent.any fun k => k / m == l) = true then .wipe
  else .free

/-- Pool k of slice n when the mover has drained it, or has nothing to drain from it. -/
def State.endDrain (s : State) (d : Slot) (n k : Nat) : State :=
  let role := s.drainedRole d n
  { s with slices := tupd s.slices n {} fun v =>
      let v := if d.maps then { v with tmap := [] } else v
      v.updPool k fun x => { x with role := role, ready := false, drains := [] } }

/-- The mover of slice n begins to drain what passes have written into pool k, which they have released in cycle c: of a SCATTER the
positions that its target map names (R110, R136). -/
def State.startDrain (s : State) (r : RingId) (d : Slot) (n k c : Nat) : State :=
  let v := tget s.slices n {}
  let y := d.opD 4
  let m := d.perInstance y
  let ks := if d.maps then (v.pool k).drains.filter fun i => tget v.tmap (i % m) false else (v.pool k).drains
  let d := { d with sent := d.sent ++ (v.pool k).drains }
  let s := s.updSlot r d.idx fun _ => d
  if ks.isEmpty then s.endDrain d n k
  else
    let s := { s with slices := tupd s.slices n {} fun v => v.updPool k fun x => { x with role := .moverDrain, drains := ks } }
    (s.operandReqs r d true y ks).foldl (fun s q => s.request { q with issued := max q.issued (c + 1) }) s

/-- A write of some positions of the destination of descriptor d is still to be acknowledged. -/
def State.draining (s : State) (r : RingId) (d : Slot) (ks : List Nat) : Bool :=
  let o := d.opD 4
  s.ports.reqs.any fun q => q.r == r && q.p == d.idx && q.item == 4 && q.wr &&
    (o.card.pieces ks).any fun pc =>
      let a := o.place pc
      q.port.val == a.1 && decide (q.addr < a.2 + pc.len) && decide (a.2 < q.addr + q.len)

/-- The pools of a running descriptor whose drains have all been acknowledged, by slice. -/
def State.drainedPools (s : State) (r : RingId) (d : Slot) : List (Nat × Nat) :=
  d.slices.flatMap fun n => ((List.range 6).filter fun k =>
    let v := (tget s.slices n {}).pool k
    v.role == .moverDrain && v.user == some (r, d.holder) && !s.draining r d v.drains).map fun k => (n, k)

/-- The drains of a running descriptor that are done end; their pools may take another role (R54). -/
def State.endBlockDrains (s : State) (r : RingId) (d : Slot) : State :=
  if d.phase = .started then
    (s.drainedPools r d).foldl (fun s e => (s.endDrain d e.1 e.2).startFills r d e.1) s
  else s

/-- A pool from which the mover drains a descriptor's results at the end of its run: the pool through which the mover's stream goes where
the plan has no pass, POUT, what an exchange has brought out of the Retort, what passes have written, or a pool of the unit that reads
the fills (R54, R109, R113, R124, R154). -/
def State.drainsPool (s : State) (r : RingId) (d : Slot) (n k : Nat) (p : Pool) : Bool :=
  p.kept.isNone && match d.opc with
    | .fill => p.role == .free
    | .pattern => p.role == .free && (s.servedOf (ppSlices d.image) n).any fun m => s.physPool r d n m (ppPout d.image) == k
    | .baseconv => p.role == .free && decide (3 ≤ p.stage)
    | op =>
      if op.movesWhole && !d.turned && op != .convert && !s.exchanged d 0 then p.role == .free && p.holds.isSome
      else if op.fillRole = .free then p.role == .free && decide (4 ≤ p.stage)
      else (p.role == .free || p.role == op.fillRole) && p.holds.isNone

/-- The run has ended: the units' roles end, and the movers drain the results (R54, R65). -/
def State.startDrains (s : State) (r : RingId) (d : Slot) : State :=
  { s with slices := s.slices.map fun (e : Nat × Slice) => (e.1, { e.2 with pools := e.2.pools.map fun (k : Nat × Pool) =>
      ((k.1, if k.2.user = some (r, d.holder) ∧ d.slices.contains e.1 = true then
          if s.drainsPool r d e.1 k.1 k.2 then { k.2 with role := .moverDrain }
          else if k.2.role = .retort ∨ k.2.role = .char then { k.2 with role := .free } else k.2
        else k.2) : Nat × Pool) }) }

end Sys2Proof.Machine
end

