-- ==== Sys2Proof/Machine/FloodKey.lean ====
section
/-! DEFINITION. Flood-key delivery (R234 to R236). -/

namespace Sys2Proof.Machine

/-- Another FLOOD's shares lie in slice n: it has its key and no record (R239, R242). Of two FLOODs of one Open chain that share a slice, the
second takes its shares when the first has run (DESIGN CHOICE, log 65). -/
def State.shareBusy (s : State) (r : RingId) (p : W32) (n : Nat) : Bool :=
  s.allSlots.any fun e => (e.1 != r || e.2.idx != p) && e.2.keyed && e.2.phase != .recorded && e.2.slices.contains n

/-- Ember may draw a key: it issues keys, and a checkpoint is free, or the descriptor has one already (R236, R241). Ember serves waiting FLOODs
in the order of the commands: a later one of a ring may take its shares before an earlier one, which then waits for it (DESIGN CHOICE, log
65: no rule gives the order). -/
def State.keyReady (s : State) (r : RingId) (p : W32) (d : Slot) : Bool :=
  (d.phase == .waitKey || (d.opc == .flood && d.phase == .started && !d.bound && !d.keyed)) && !s.afterMate r d &&
    (s.planned d).slices.all (fun n => !s.shareBusy r p n) && !s.emb.isolated &&
    ((s.emb.ckpts.any fun c => c.r == r && c.p == p) || (s.emb.keysOk && decide (s.emb.ckpts.length < 48)))

/-- A fresh flood key: k, k1 and a mask seed for each slice (R234). -/
def State.drawKey (s : State) : FloodKey :=
  { k := Config.freeDraw s.clk.free, k1 := Config.freeDraw (s.clk.free + 1)
    seeds := (List.range 24).map fun n => (Config.freeDraw (s.clk.free + 2 + n)).setWidth 128 }

/-- Both shares and the mask seed reach some slices on the key bus (R234, R235). -/
def State.giveShares (s : State) (h : HF) (us : List Nat) (k : FloodKey) : State :=
  us.foldl (fun s n => { s with slices := tupd s.slices n {} fun v =>
    { v.noShares with shareHf := some h, share1 := k.k1, share2 := k.k ^^^ k.k1, seed := k.seeds.getD n 0 } }) s

/-- The shares reach every slice of the descriptor. -/
def State.deliver (s : State) (r : RingId) (p : W32) (d : Slot) (k : FloodKey) : State :=
  let us := (s.planned d).slices
  (s.giveShares (s.ringHost r) us k).updSlot r p fun d => { d with
    keyed := true, slices := us, phase := if d.phase = .started then .started else .checked }

/-- FLOOD_KEY_DELIVERY (R234, R235, R236): the checkpoint's key again, or a fresh one. -/
def execFloodKeyDelivery (r : RingId) (p : W32) (s : State) : Res :=
  onPclk s fun _ =>
  match s.slotOf r p with
  | none => .next s
  | some d =>
    if s.keyReady r p d then
      match s.emb.ckpts.find? fun c => c.r == r && c.p == p with
      | some c => .next (s.deliver r p d c.key).bindWaiting
      | none =>
        let k := s.drawKey
        .next ((({ s with emb := { s.emb with ckpts := s.emb.ckpts ++ [{ r := r, p := p, key := k }] } } : State).deliver
          r p d k).useFree 26).bindWaiting
    else .next s

end Sys2Proof.Machine
end

