-- ==== Sys2Proof/Machine/Start.lean ====
section
/-! DEFINITION. The start of a descriptor: its entry into the issue queues (R13), dispatch of Open work (R286, R287) and
replenishment (R288). -/

namespace Sys2Proof.Machine

/-! ### Starting -/

/-- A descriptor starts: the slices of its plan are fixed and it enters their issue queues (R255, R13). Its turn is its place
in the order of dispatch (R88). -/
def State.startSlot (s : State) (r : RingId) (d : Slot) : State :=
  let d := { s.planned d with
    phase := .started, start := s.clk.pclk, doneAt := none, corrupt := none, bound := false, filled := [], sent := [], steps := [], halves := 0, turn := s.sched.turn
    charged := true, fills := 0, drops := 0, dups := 0, races := d.races ++ s.racesInto r d }
  ({ s.markRaces r d with sched := { s.sched with turn := s.sched.turn + 1 } } : State).updCtx r fun c => { c with
    lastStart := s.clk.fclk, slots := c.slots.map fun e => if e.idx == d.idx then d else e }

/-- The cost of a unit (R286). -/
def unitCost (ds : List Slot) : Nat := sumOf (ds.map (·.cost))

/-- Bytes that a unit moves on stack n. -/
def State.unitBytes (s : State) (ds : List Slot) (n : Nat) : Nat := sumOf (ds.map fun d => s.bytesOn d n)

/-! ### DISPATCH -/

def State.deficit (s : State) (h : HF) : Int := (s.host h).deficit
def State.tokens (s : State) (n : Nat) : Int := tget s.sched.tok n 0

/-- Stoke dispatches nothing (15 PTU_GCTL.HOLD, R344, R314, R377, R378; R338 when every quarter is fenced). -/
def State.held (s : State) : Bool := s.ctl.hold || s.ctl.ost.isSome || s.ctl.quenching || s.inTest || !s.pclkRuns || s.liveQuarters.isEmpty

/-- The units of a planned descriptor can take it now: issue queues (R13), no slice drained or under test, no orphan. -/
def State.unitsOk (s : State) (d : Slot) : Bool :=
  d.slices.all (fun n => decide (s.queueLen n < 32) && !s.stoppedSlice n) && !s.needsOrphan d

/-- The issue queues, of 32 descriptors each, have room for every one of some descriptors of ring r beside the others that
they hold (R13). -/
def State.roomFor (s : State) (r : RingId) (ds : List Slot) : Bool :=
  let others := s.allSlots.filter fun e => e.2.phase.active && !(e.1 == r && ds.any fun d => d.idx == e.2.idx)
  (List.range 24).all fun n =>
    decide ((others.filter fun e => e.2.slices.contains n).length + (ds.filter fun d => d.slices.contains n).length ≤ 32)

/-- The oldest descriptor of a context that has not started, when it is pre-checked Open work that passed (R255, R286). -/
def headWork (c : Ctx) : Option Slot :=
  (c.slots.find? fun d => !d.phase.begun).filter fun d =>
    d.phase == .checked && d.status == stDone && !dSealed d.bytes && !d.isFence && !d.isSignal

/-- A descriptor enters issue queues again: it awaits its replay, or a fence has put it back into its context (R337). -/
def State.reenters (s : State) (d : Slot) : Bool :=
  (d.phase == .aborted && s.compRuns .health) || d.phase == .decided || (d.phase == .checked && d.charged)

/-- A new dispatch waits while a slice of it is due to work that enters the queues again (R337, R341; DEDUCED, log 77). -/
def State.yields (s : State) (r : RingId) (d : Slot) : Bool :=
  !d.charged && s.allSlots.any fun e =>
    s.reenters e.2 && !(e.1 == r && e.2.holder == d.holder) &&
      let x := s.planned e.2
      !s.needsOrphan x && meetsList x.slices d.slices

/-- The deficit and the tokens that a new dispatch needs are there (R286). -/
def State.affords (s : State) (r : RingId) (ds : List Slot) : Bool :=
  decide (0 < s.deficit (s.ringHost r)) && (List.range 24).all fun n => s.unitBytes ds n == 0 || decide (0 < s.tokens n)

/-- A context's head may be dispatched (R286). -/
def State.mayDispatch (s : State) (c : Ctx) : Option Slot :=
  (headWork c).filter fun d =>
    let ds := (s.unit c.ring d).map s.planned
    s.roomFor c.ring ds && (d.charged || s.affords c.ring ds) &&
      ds.all fun e => (e.phase == .checked || (e.phase == .waitKey && s.afterMate c.ring e)) && s.unitsOk e && s.orderOk c.ring e && !s.yields c.ring e

/-- The ring that comes before another in the order of R287: hosts in turn, then the lowest PRIO, then rings in turn. -/
def State.sooner (s : State) (a b : RingId) : Bool :=
  let ha := s.ringHost a
  let hb := s.ringHost b
  if ha = hb then
    let pa := (s.ringEntry a).prio
    let pb := (s.ringEntry b).prio
    let l := tget (s.host ha).lastRing pa 65535
    decide (pa < pb) || (pa == pb && decide (after 65536 l a.val < after 65536 l b.val))
  else decide (after 16 s.sched.last ha.val < after 16 s.sched.last hb.val)

/-- The first of some rings in the order of R287. -/
def State.pick (s : State) (rs : List RingId) : Option RingId :=
  rs.foldl (fun best r => match best with
    | none => some r
    | some b => if s.sooner r b then some r else some b) none

/-- The ring that Stoke serves next (R287). -/
def State.nextRing (s : State) : Option RingId :=
  s.pick ((s.ctxs.filter fun e => (s.mayDispatch e.2).isSome).map fun e => e.2.ring)

/-- Charges a dispatch to its host and to its stacks (R286); where a stack's tokens are used up, the cycle is noted. -/
def State.charge (s : State) (h : HF) (ds : List Slot) : State :=
  let tok : List (Nat × Int) := (List.range 24).foldl (fun t n =>
    if s.unitBytes ds n = 0 then t else tput t n (tget t n 0 - ceilDiv (s.unitBytes ds n) 1024)) s.sched.tok
  let spent := (List.range 24).foldl (fun t n =>
    if 0 < s.tokens n ∧ tget tok n 0 ≤ 0 then tput t n s.clk.pclk else t) s.sched.spentAt
  { s.updHost h (fun x => { x with deficit := x.deficit - unitCost ds }) with sched := { s.sched with tok := tok, spentAt := spent } }

/-- Remembers the host that was served, and the ring among those of its PRIO (R287). -/
def State.served (s : State) (r : RingId) : State :=
  let h := s.ringHost r
  { s with sched := { s.sched with last := h.val } }.updHost h fun x => { x with lastRing := tput x.lastRing (s.ringEntry r).prio r.val }

/-- Dispatches a unit. -/
def State.dispatchUnit (s : State) (r : RingId) (ds : List Slot) : State :=
  (ds.foldl (fun s d => s.startSlot r d) ((s.charge (s.ringHost r) (ds.filter fun d => !d.charged)).served r)).bindWaiting

/-- Whether DISPATCH takes place now. -/
def State.dispatchable (s : State) (r : RingId) (p : W32) : Bool :=
  s.ctl.stage == .banked && !s.held && s.nextRing == some r &&
    match (s.ctxOf r).bind fun e => s.mayDispatch e.2 with
    | none => false
    | some d => d.idx == p

/-- DISPATCH (R286, R287). -/
def execDispatch (r : RingId) (p : W32) (s : State) : Res :=
  onPclk s fun _ =>
  if s.dispatchable r p then
    match s.slotOf r p with
    | none => .next s
    | some d => .next (s.dispatchUnit r (s.unit r d))
  else .next s

/-! ### DEFICIT_REPLENISH -/

/-- A pre-checked descriptor that waits to start. -/
def Slot.waitsStart (d : Slot) : Bool := d.phase == .checked && !d.unpadded && !d.isFence && !d.isSignal

/-- Host functions with a pre-checked descriptor waiting. -/
def State.waitingHosts (s : State) : List HF :=
  (List.finRange 16).filter fun h => s.allSlots.any fun e => s.ringHost e.1 == h && e.2.waitsStart

/-- The smallest k that makes a deficit positive (R288). -/
def roundsFor (deficit : Int) (wt : Nat) : Nat := (-deficit).toNat / (wt * 256) + 1

/-- The replenishment of R288. -/
def State.replenish (s : State) (ws : List HF) : State :=
  let ks := ws.map fun h => roundsFor (s.deficit h) (s.host h).wt
  let k := ks.foldl min (ks.headD 1)
  (List.finRange 16).foldl (fun s h => s.updHost h fun x =>
    { x with deficit := if ws.contains h then x.deficit + k * x.wt * 256 else min x.deficit 0 }) s

/-- No host function with a pre-checked descriptor waiting has a positive deficit. -/
def State.spent (s : State) : Bool :=
  !s.waitingHosts.isEmpty && s.waitingHosts.all fun h => decide (s.deficit h ≤ 0)

/-- DEFICIT_REPLENISH (R288). -/
def execDeficitReplenish (s : State) : Res :=
  onPclk s fun _ =>
  if s.spent && s.ctl.stage == .banked then .next (s.replenish s.waitingHosts) else .next s

end Sys2Proof.Machine
end

