-- ==== Sys2Proof/Machine/Sched.lean ====
section
/-! DEFINITION. The scheduling round of a SCHED instance (R283 to R285, R289), the admission of Sealed descriptors (R229,
R230, R290) and the start of a refusal with DUR 256 (R227). -/

namespace Sys2Proof.Machine

/-! ### Contexts -/

/-- The instance of a ring, a context and a stack (R283, 12 Contexts): 0 SCHED-A, 1 SCHED-B. -/
def ringInst (r : RingId) : Nat := r.val / 256 % 2
def ctxInst (c : Nat) : Nat := c / 96
def stackInst (n : Nat) : Nat := if n < 12 then 0 else 1

/-- A ring that waits for a context (R284). -/
def State.wantsCtx (s : State) (r : RingId) : Bool :=
  (s.ring r).pend && (s.ctxOf r).isNone && s.fetchable r && !s.isFallback r

/-- The rings of an instance that wait. -/
def State.waitingRings (s : State) (inst : Nat) : List RingId :=
  (s.rings.map fun (e : Nat × Ring) => (Fin.ofNat 65536 e.1 : RingId)).filter fun r => ringInst r == inst && s.wantsCtx r

/-- Contexts of an instance that a host function holds. -/
def State.ctxHeld (s : State) (inst : Nat) (h : HF) : Nat :=
  (s.ctxs.filter fun e => ctxInst e.1 == inst && s.ringHost e.2.ring == h).length

/-- Free contexts of an instance. -/
def State.freeCtxs (s : State) (inst : Nat) : List Nat :=
  ((List.range 96).map (96 * inst + ·)).filter fun c => !(s.ctxs.any fun e => e.1 == c)

/-- ⌈MINCTX/2⌉ and ⌈MAXCTX/2⌉ (R284). -/
def HostFn.low (x : HostFn) : Nat := ceilDiv x.minctx 2
def HostFn.high (x : HostFn) : Nat := ceilDiv x.maxctx 2

/-- Contexts that the instance keeps free for the other hosts with a session (R284). -/
def State.keptFree (s : State) (inst : Nat) (h : HF) : Nat :=
  sumOf ((List.finRange 16).map fun g =>
    if g != h && (s.host g).session != .none && (s.host g).session != .refused then (s.host g).low - s.ctxHeld inst g else 0)

/-- The instance may bind a ring now (R284). -/
def State.mayBind (s : State) (inst : Nat) (r : RingId) : Bool :=
  let h := s.ringHost r
  decide (s.ctxHeld inst h < (s.host h).high) && decide (s.keptFree inst h < (s.freeCtxs inst).length)

/-- The order of binding: PRIO, then hosts below ⌈MINCTX/2⌉, then the longest wait (R284). -/
def State.bindsBefore (s : State) (inst : Nat) (a b : RingId) : Bool :=
  let key (r : RingId) : Nat × Nat × Nat :=
    ((s.ringEntry r).prio, if s.ctxHeld inst (s.ringHost r) < (s.host (s.ringHost r)).low then 0 else 1,
      (s.ring r).waitSince.getD 0)
  let x := key a
  let y := key b
  decide (x.1 < y.1) || (x.1 == y.1 && (decide (x.2.1 < y.2.1) || (x.2.1 == y.2.1 && decide (x.2.2 < y.2.2))))

/-- Binds a ring to a context. -/
def State.bind (s : State) (c : Nat) (r : RingId) : State :=
  ({ s with ctxs := tput s.ctxs c { ring := r, lastStart := s.clk.fclk } } : State).updRing r fun x => { x with waitSince := none }

/-- Binds rings to free contexts, up to n of them. -/
def State.bindRings (inst : Nat) : Nat → State → State
  | 0, s => s
  | n + 1, s =>
    let rs := (s.waitingRings inst).filter (s.mayBind inst)
    match rs.foldl (fun (best : Option RingId) r => match best with
        | none => some r
        | some b => if s.bindsBefore inst r b then some r else some b) none, (s.freeCtxs inst).head? with
    | some r, some c => State.bindRings inst n (s.bind c r)
    | _, _ => s

/-- A context whose ring has no fetched descriptor without a record and no pending bit is released (R285). -/
def State.releasable (s : State) (c : Ctx) : Bool :=
  c.slots.isEmpty && (c.leaving || (!(s.ring c.ring).pend && s.inFlight c.ring == 0))

/-- A context is unbound: its ring has started nothing for 20 µs while another ring of the instance waits, no chain of it
has started, and its oldest descriptor is not a Sealed one that awaits admission (R285). -/
def State.unbindable (s : State) (inst f : Nat) (c : Ctx) : Bool :=
  ((s.waitingRings inst).any fun r => r != c.ring) && decide (c.lastStart + 24000 ≤ f) && !c.leaving &&
    (c.kept.all fun d => d.chain.isNone && d.phase.begun) && match c.slots.head? with
      | none => true
      | some d => !d.awaits

/-- Removes the context of a ring. -/
def State.dropCtx (s : State) (r : RingId) : State := { s with ctxs := s.ctxs.filter fun e => e.2.ring != r }

/-- The context of a ring is given up when it holds no descriptor; until the records of those that have started are written
it only fetches nothing more (log 29). -/
def State.leaveCtx (s : State) (r : RingId) : State :=
  if (s.slotsOf r).isEmpty then (s.dropCtx r).updRing r fun x => { x with waitSince := if x.pend then some s.clk.fclk else x.waitSince }
  else s.updCtx r fun c => { c with leaving := true }

/-- Returns the descriptors of a ring and unbinds it; its pending bit is set (R285). -/
def State.unbind (s : State) (r : RingId) : State :=
  ((s.returnUnstarted r).updRing r fun x => { x with pend := true }).leaveCtx r

/-- Contexts of an instance. -/
def State.ctxsOf (s : State) (inst : Nat) : List Ctx := (s.ctxs.filter fun e => ctxInst e.1 == inst).map (·.2)

/-- Releases, unbinds and binds the contexts of an instance. -/
def State.roundCtxs (s : State) (inst f : Nat) : State :=
  let s := ((s.ctxsOf inst).filter s.releasable).foldl (fun s c => s.leaveCtx c.ring) s
  let s := ((s.ctxsOf inst).filter (s.unbindable inst f)).foldl (fun s c => s.unbind c.ring) s
  State.bindRings inst 96 s

/-! ### Tokens -/

/-- The TK[n] of R289. -/
def tokensFor (fenced : Bool) (shares : Nat) : Nat := (if fenced then 600 else 2048) - 480 * shares

/-- TK[n] for the fences and reservations in force. -/
def State.tkOf (s : State) (n : Nat) : Nat := tokensFor (tget s.slices n {}).fenced (s.resvOf n)

/-- One refreshed count. -/
def refreshed (tok : Int) (tk : Nat) : Int := min (tok + tk) (2 * tk)

/-- The pclk cycles that a ready descriptor has waited for the tokens of stack n: since its pre-check ended, and TOK[n] was used up
(Table 14-7; DESIGN CHOICE, log 90). -/
def State.tokenWait (s : State) (n : Nat) (d : Slot) : Nat := s.clk.pclk - max d.readyAt (tget s.sched.spentAt n 0)

/-- TOK[n] has turned positive: the waits of the ready descriptors that move bytes on stack n are counted for their host functions,
at 0x050 + 8n (Table 14-7). -/
def State.countTokenWait (s : State) (n : Nat) : State :=
  s.ctxs.foldl (fun (s : State) e => match headWork e.2 with
    | some d => if s.unitBytes ((s.unit e.2.ring d).map s.planned) n = 0 then s
        else s.teleHost (s.ringHost e.2.ring) (10 + n) (s.tokenWait n d)
    | none => s) s

/-- Refreshes the tokens of the instance's half (R289). -/
def State.refreshTokens (s : State) (inst : Nat) : State :=
  let ns := (List.range s.nslices).filter fun n => stackInst n == inst
  let s := (ns.filter fun n => decide (s.tokens n ≤ 0 ∧ 0 < refreshed (s.tokens n) (s.tkOf n))).foldl State.countTokenWait s
  { s with sched := { s.sched with
      tk := ns.foldl (fun t n => tput t n (s.tkOf n)) s.sched.tk
      tok := ns.foldl (fun t n => tput t n (refreshed (tget t n 0) (s.tkOf n))) s.sched.tok } }

/-! ### Sealed admission -/

/-- Started Sealed descriptors without a record. -/
def State.sealedRunning (s : State) : List Slot := (s.allSlots.map (·.2)).filter fun d => d.phase.active && dSealed d.bytes

/-- Shares of a memory: MSn, or the host port under 24 (R229). -/
def State.shares (s : State) (sp : Nat) : Nat := if sp = 24 then s.sched.hresv else s.resvOf sp

/-- A memory has a share that no started Sealed descriptor holds. -/
def State.shareFree (s : State) (sp : Nat) : Bool :=
  decide ((s.sealedRunning.filter fun d => d.spaces.contains sp).length < s.shares sp)

/-- The pools, units and pattern slots that a Sealed descriptor binds are free (R230, R126, R155, log 70). -/
def State.unitsFree (s : State) (r : RingId) (d : Slot) : Bool :=
  ((List.range 24).all fun n => decide (s.unitNeed r [d] n ≤ (s.poolsFor n (r, d.holder)).length)) &&
    (!d.opc.bindsUnit || d.slices.all fun n => (tget s.slices n {}).unit.isNone) && !s.storeBusy r d

/-- R230 for a planned descriptor d of ring r. -/
def State.admissible (s : State) (r : RingId) (d : Slot) : Bool :=
  s.orderOk r d && d.spaces.all s.shareFree && !(s.sealedRunning.any fun e => meetsList e.slices d.slices) &&
    s.unitsFree r d &&
    !((s.sealedRunning.any fun e => meetsList e.flue d.flue) || s.flue.exch.any fun x => meetsList (distinctBelow 24 (x.spec.slices.filterMap s.server)) d.flue) &&
    s.unitsOk d

/-- A descriptor that has waited 16 rounds holds back what it needs from those that wait less (R290). -/
def State.heldBack (s : State) (d : Slot) : Bool :=
  (s.allSlots.map (·.2)).any fun e => e.awaits && decide (16 ≤ e.rounds) && decide (d.rounds < e.rounds) &&
    let x := s.planned e
    meetsList x.slices d.slices || meetsList x.spaces d.spaces || meetsList x.flue d.flue

/-- A member of a Sealed chain starts no earlier than the cycle after its predecessor's record cycle (R233). -/
def State.afterRecord (s : State) (r : RingId) (d : Slot) : State :=
  if d.chain.isSome && d.chain != some d.idx then s.atPclk ((((s.ctxOf r).map fun e => e.2.recordAt).getD 0) + 1) else s

/-- A refused Sealed descriptor holds the pools that it was admitted for, and issues no requests (R226). -/
def State.bindRefused (s : State) (r : RingId) (d : Slot) : State :=
  (List.range 24).foldl (fun (s : State) n =>
    if s.unitNeed r [d] n = 0 then s else s.bindPools (s.ringHost r) (r, d.holder) (s.unitNeed r [d] n) n) s

/-- Starts an admitted Sealed descriptor: DUR is subtracted from its host's deficit, and what it reads of its chain and has been lost
is rebuilt first (R267). A refusal issues no requests and
its run is complete at once (R226, R290). -/
def State.letIn (s : State) (r : RingId) (d : Slot) : State :=
  let s := s.afterRecord r d
  let s := (s.updHost (s.ringHost r) fun x => { x with deficit := x.deficit - d.dur }).served r
  if d.status = stDone then ((s.rebuild r d).startSlot r d).bindWaiting
  else ((s.bindRefused r d).updCtx r fun c => { c with lastStart := s.clk.fclk }).updSlot r d.idx fun e =>
    { e with phase := .ran, start := s.clk.pclk, doneAt := some s.clk.pclk, slices := d.slices, flue := d.flue
             npools := d.npools, spaces := d.spaces }

/-- The head of a context, when it awaits admission. -/
def headSealed (c : Ctx) : Option Slot := (c.slots.find? fun d => !d.phase.begun).filter Slot.awaits

/-- The rings of an instance whose head awaits admission. -/
def State.sealedRings (s : State) (inst : Nat) : List RingId :=
  (s.ctxs.filter fun e => ringInst e.2.ring == inst && (headSealed e.2).isSome).map fun e => e.2.ring

/-! ### Message ports (R280) -/

/-- The component of an instance. -/
def schedComp (inst : Nat) : Comp := if inst = 0 then .schedA else .schedB

/-- At its next activation component a repeats the sends that failed. -/
def Firmware.resend (fw : Firmware) (a : Comp) : Firmware :=
  (fw.unsent.filter fun e => e.1 / 16 == a.key).foldl (fun fw e => fw.send e.1 e.2)
    { fw with unsent := fw.unsent.filter fun e => e.1 / 16 != a.key }

/-- The peer acts for an instance (R303). -/
def State.overtaken (s : State) (inst : Nat) : Bool := if inst = 0 then s.sched.overA else s.sched.overB

/-- What a Sealed descriptor takes lies partly in the other half, which its own instance does not serve (R290). -/
def State.needsPeer (s : State) (inst : Nat) (d : Slot) : Bool :=
  !s.overtaken 0 && !s.overtaken 1 &&
    (d.slices ++ d.flue ++ d.spaces.filter fun n => decide (n < 24)).any fun n => stackInst n != inst

/-- The shares, slices and Flue ports that a descriptor takes in the half of an instance are free (R290). -/
def State.halfFree (s : State) (inst : Nat) (d : Slot) : Bool :=
  let half (l : List Nat) := l.filter fun n => stackInst n == inst
  (half (d.spaces.filter fun n => decide (n < 24))).all s.shareFree &&
    !(s.sealedRunning.any fun e => meetsList e.slices (half d.slices)) && !(s.sealedRunning.any fun e => meetsList e.flue (half d.flue))

/-- Messages between the two instances (their form is the model's, log 73): kind 0 asks, 1 grants, 2 declines. -/
def schedMsg (kind : Nat) (r : RingId) (p : W32) : List Byte := natLe kind 1 ++ natLe r.val 2 ++ natLe p.toNat 4

/-- Takes one message of the peer: a question is answered, an answer noted (R290). -/
def State.takeMsg (inst : Nat) (s : State) (m : List Byte) : State :=
  let r : RingId := Fin.ofNat 65536 (field m 1 2)
  let p : W32 := BitVec.ofNat 32 (field m 3 4)
  let u := (r, p)
  if byteAt m 0 = 0 then
    let yes := match s.slotOf r p with
      | some d => s.halfFree inst (s.planned d)
      | none => false
    { s with fw := s.fw.send (portKey (schedComp inst) (schedComp (1 - inst))) (schedMsg (if yes then 1 else 2) r p) }
  else { s with fw := { s.fw with
      asked := s.fw.asked.filter fun x => x != u, lent := if byteAt m 0 = 1 then s.fw.lent ++ [u] else s.fw.lent } }

/-- At its activation an instance repeats failed sends, takes the messages of its peer in order, and forgets what it asked for
descriptors that await admission no more (R280, R290). -/
def State.readMail (s : State) (inst : Nat) : State :=
  let k := portKey (schedComp (1 - inst)) (schedComp inst)
  let waits (u : RingId × W32) : Bool := match s.slotOf u.1 u.2 with
    | some d => d.awaits
    | none => false
  let fw := s.fw.resend (schedComp inst)
  let ms := tget fw.ports k []
  ms.foldl (State.takeMsg inst) { s with fw := { fw with
    ports := tput fw.ports k [], asked := fw.asked.filter waits, lent := fw.lent.filter waits } }

/-- Asks the peer for what a descriptor takes in its half, once (R290). -/
def State.askPeer (s : State) (inst : Nat) (r : RingId) (d : Slot) : State :=
  if s.needsPeer inst d && !s.fw.asked.contains (r, d.idx) && !s.fw.lent.contains (r, d.idx) then
    let fw := s.fw.send (portKey (schedComp inst) (schedComp (1 - inst))) (schedMsg 0 r d.idx)
    { s with fw := { fw with asked := fw.asked ++ [(r, d.idx)] } }
  else s

/-- The peer's half has been granted, where it is needed. -/
def State.peerAgrees (s : State) (inst : Nat) (r : RingId) (d : Slot) : Bool := !s.needsPeer inst d || s.fw.lent.contains (r, d.idx)

/-- A waiting round of a descriptor; the sixteenth is logged (0x2003) by the instance that acts. -/
def State.countRound (s : State) (inst : Nat) (r : RingId) (d : Slot) : State :=
  let s := s.updSlot r d.idx fun e => { e with rounds := e.rounds + 1 }
  if d.rounds + 1 = 16 then
    s.logEntry (schedComp (if s.overtaken inst then 1 - inst else inst)) 0x2003 1 (some (s.ringHost r)) r.val d.idx.toNat
  else s

/-- Takes the waiting Sealed descriptors in the order of R287 and admits those that R230 and the deficit permit,
and that no work which enters the queues again goes ahead of (R337). -/
def State.admitRings (inst : Nat) : Nat → List RingId → State → State
  | 0, _, s => s
  | n + 1, rs, s =>
    match s.pick rs with
    | none => s
    | some r =>
      let rest := rs.filter fun x => x != r
      match (s.ctxOf r).bind fun e => headSealed e.2 with
      | none => State.admitRings inst n rest s
      | some d =>
        let x := s.planned d
        if s.peerAgrees inst r x && s.admissible r x && !s.heldBack x && !s.yields r x && decide (0 < s.deficit (s.ringHost r)) && !s.held then
          State.admitRings inst n rest (s.letIn r x)
        else State.admitRings inst n rest ((s.countRound inst r d).askPeer inst r x)

/-! ### SCHEDULING_ROUND -/

/-- Sets whether the peer acts for an instance. -/
def State.setOver (s : State) (inst : Nat) (b : Bool) : State :=
  { s with sched := if inst = 0 then { s.sched with overA := b } else { s.sched with overB := b } }

/-- A running instance takes its work back at its first round (R303, 0x2002). -/
def State.giveBack (s : State) (inst : Nat) : State :=
  if s.overtaken inst && s.compUp (schedComp inst) then
    (s.setOver inst false).logEntry (schedComp inst) 0x2002 1 none inst s.clk.fclk
  else s

/-- The rounds of an instance take place: SCHED runs in BANKED (R284), by the instance or its peer. -/
def State.roundRuns (s : State) (inst : Nat) : Bool :=
  s.ctl.stage == .banked && (s.compUp (schedComp inst) || (s.overtaken inst && s.compUp (schedComp (1 - inst))))

/-- One round (R280, R284, R285, R289, R290). -/
def State.round (s : State) (inst f : Nat) : State :=
  let s := (s.atFclk f).giveBack inst
  let s := ((s.roundCtxs inst f).refreshTokens inst).readMail inst
  State.admitRings inst 192 (s.sealedRings inst) s

/-- SCHEDULING_ROUND (R284). -/
def execSchedulingRound (inst : Fin 2) (f : Nat) (s : State) : Res :=
  if s.roundRuns inst.val then .next (s.round inst.val f) else .next s

/-! ### SEALED_REFUSAL_START -/

/-- A refusal with DUR 256 whose ring has no earlier descriptor without a written record (R227). -/
def State.refusalReady (s : State) (r : RingId) (p : W32) : Bool :=
  match s.slotsOf r with
  | [] => false
  | d :: _ => d.idx == p && d.refusal && d.phase == .checked && d.dur == 256

/-- The start of a refusal with DUR 256: the later of the cycle after its pre-check's end and the cycle after the record of
the descriptor before it (R227). -/
def State.refusalStart (s : State) (r : RingId) (p : W32) : Nat :=
  max (((s.slotOf r p).map (·.readyAt)).getD 0) (((s.ctxOf r).map fun e => e.2.recordAt).getD 0) + 1

/-- SEALED_REFUSAL_START (R227, R290); none while dispatch is held (R344, 15 PTU_GCTL.HOLD). -/
def execSealedRefusalStart (r : RingId) (p : W32) (s : State) : Res :=
  onPclk s fun _ =>
  if s.refusalReady r p && !s.held then
    let c := s.refusalStart r p
    .next ((((s.atPclk c).updHost (s.ringHost r) fun x => { x with deficit := x.deficit - 256 }).updCtx r fun e =>
      { e with lastStart := s.clk.fclk }).updSlot r p fun d => { d with phase := .ran, start := c, doneAt := some c })
  else .next s

end Sys2Proof.Machine
end

