-- ==== Sys2Proof/Machine/Run.lean ====
section
/-! DEFINITION. The run of a started descriptor: the effect of its opcode on its destinations (Table 00-5), FENCE and
SIGNAL (R261, R262), and the rows of Table 00-5, one definition each. -/

namespace Sys2Proof.Machine

/-! ### The collector (R272)

The slice queues hold 64 records each, and the merge buffer 256, of which 24 are kept for Sealed records. A record that waits in its
ring's reorder slots for one of a lower index lies in neither. -/

/-- The records of a context that may be written next, in order. -/
def Ctx.ready (c : Ctx) : List Slot := c.slots.takeWhile fun d => d.phase == .recorded

/-- Records in the merge buffer. -/
def State.merged (s : State) : Nat := (s.allSlots.filter fun e => e.2.phase == .recorded && e.2.queue.isNone).length

/-- The merge buffer has room for n more records of a class. -/
def State.mergeRoom (s : State) (sealed : Bool) (n : Nat) : Bool := decide (s.merged + n ≤ if sealed then 256 else 256 - 24)

/-- The slice that retires a descriptor: the first that serves its plan (log 66). -/
def Slot.lead (d : Slot) : Nat := d.slices.headD 0

/-- Records in the queue of slice n. -/
def State.queued (s : State) (n : Nat) : Nat := (s.allSlots.filter fun e => e.2.phase == .recorded && e.2.queue == some n).length

/-- Every descriptor of ring r before index p has its record in the collector. -/
def State.recordsBefore (s : State) (r : RingId) (p : W32) : Bool := (s.before r p).all fun e => e.phase == .recorded

/-- The records of some descriptors of ring r, oldest first, can be taken: they wait in their reorder slots for earlier ones, or the
merge buffer has room, or the queue of each one's slice has. -/
def State.retires (s : State) (r : RingId) (ds : List Slot) : Bool :=
  (ds.any fun d => !(s.before r d.idx).all fun e => e.phase == .recorded || ds.any fun x => x.idx == e.idx) ||
    s.mergeRoom (ds.any fun d => dSealed d.bytes) ds.length ||
    (List.range 24).all fun n => decide (s.queued n + (ds.filter fun d => d.lead == n).length ≤ 64)

/-- The records that wait and have no earlier one of their ring to wait for enter the merge buffer while it has room, Sealed ones
first. -/
def State.drainQueues (s : State) : State :=
  let ws := s.ctxs.flatMap fun e => (e.2.ready.filter fun d => d.queue.isSome).map fun d => (e.2.ring, d)
  ((ws.filter fun w => dSealed w.2.bytes) ++ ws.filter fun w => !dSealed w.2.bytes).foldl (fun s w =>
    if s.mergeRoom (dSealed w.2.bytes) 1 then s.updSlot w.1 w.2.idx fun x => { x with queue := none } else s) s

/-- The record of descriptor d enters the collector: it waits in its reorder slot or its slice's queue, and goes on as far as there is
room. -/
def State.enterCollector (s : State) (r : RingId) (d : Slot) : State :=
  (s.updSlot r d.idx fun _ => { d with phase := .recorded, queue := some (if s.recordsBefore r d.idx then d.lead else 24) }).drainQueues

/-! ### The end of a run -/

/-- A member of a chain after one that did not complete: FLUSHED; in the Sealed class it does not start (R266, R267). -/
def Slot.flushedAt (e : Slot) (sealed : Bool) (c : Nat) : Slot :=
  { e with phase := if sealed then .checked else .ran, status := stFlushed, detail := 0, dur := if sealed then 0 else e.dur, doneAt := some c }

/-- The later members of a chain are FLUSHED when an earlier one does not complete (R266, R267); a FLOOD among them gives up its
shares (R242). -/
def State.flushLater (s : State) (r : RingId) (d : Slot) : State :=
  let later (e : Slot) : Bool := e.chain == d.chain && (e.idx - d.idx).toNat != 0 && decide ((e.idx - d.idx).toNat < 16)
  if d.chain.isNone then s
  else
    let s := ((s.slotsOf r).filter later).foldl (fun s e => s.dropShares e) s
    let mark (e : Slot) : Slot := if later e then { e.flushedAt (dSealed d.bytes) s.clk.pclk with keyed := false } else e
    s.updCtx r fun c => { c with slots := c.slots.map mark }

/-- The run ends corrupt: its destinations are undefined, PCARD is poisoned for KEY_CORRUPT, no write is issued (R16, R160,
R266). -/
def State.endCorrupt (s : State) (r : RingId) (d : Slot) (st detail : W16) : State :=
  let vs := undefinedVals d
  let s := if st = stKeyCorrupt then s.poisonCard d else s
  -- where no write has been issued, no granule loses its poison (R380)
  let drained := s.writeVals r d s.clk.free (vs.map fun v => (v.1, v.2.filter fun x => d.sent.contains x.1))
  let s := { (s.writeVals r d s.clk.free vs).useFree (freeNeeded vs) with poison := if d.sent.isEmpty then s.poison else drained.poison }
  let s := (s.updSlot r d.idx fun e =>
    { e with phase := .ran, status := st, detail := detail, corrupt := some st, doneAt := some s.clk.pclk }).freeUnit r d.idx
  if dSealed d.bytes then s else s.flushLater r d

/-- The run ends: its values are written, its writes are issued, its counts are kept (R134). Its units are released with its
last write (R155); the drain of a Sealed descriptor, and of a FLOOD, begins in its published cycle (R111, R240); blocks that passes have
written are on their way already (R110). R34 defines a destination only with the record; the model gives it its values here (DESIGN CHOICE, log 63). -/
def State.endRun (s : State) (r : RingId) (d : Slot) (e : Effect) : State :=
  let f := s.clk.free + effectFree
  let s' := if dLink d.bytes && d.chain.isSome then (d.ops.filter fun o => decide (o.slot < 4)).foldl (fun s o => s.keepSource r o d.chains) s
    else s
  let s' := (s'.writeVals r d f e.vals).useFree (effectFree + freeNeeded e.vals)
  let ws := s.writeReqs r d e
  let s' := s'.touchOps r (d.readOps ++ d.writeOps)
  let s' := (d.keeps.foldl (fun s o => s.keepPools r d o) s').updSlot r d.idx fun x =>
    { x with phase := .ran, fills := e.fills, drops := e.drops, dups := e.dups
             doneAt := if ws.isEmpty && !s.outstanding r d.idx then some s.clk.pclk else none }
  ws.foldl State.request (if ws.isEmpty && !s.outstanding r d.idx then s'.freeUnit r d.idx
    else (s'.startDrains r d).notBefore r d (s.coreSpan d).2)

/-- No pass and no exchange of the descriptor is in flight: the drain of a block begins when the pass that writes it has ended
(R110). -/
def State.passesEnded (s : State) (r : RingId) (d : Slot) : Bool :=
  (s.slices.all fun e => e.2.passes.all fun x => x.user != some (r, d.idx)) &&
    s.flue.exch.all fun x => x.user != (r, d.idx)

/-- The host pages of a descriptor that its movers have not found translated yet, and whose translation has left the cache or is lost
(R36, R329). -/
def State.lostPages (s : State) (r : RingId) (d : Slot) : List XReq :=
  ((d.ops.flatMap fun o => o.pages.map fun e => (⟨s.ringHost r, e.1.pas, e.2⟩ : XReq)).filter s.unresolved).filter fun x =>
    !d.found.contains x

/-- The pages that the movers of a descriptor find translated now, beside those that they have found before. -/
def State.findPages (s : State) (r : RingId) (d : Slot) : State :=
  let xs := (d.ops.flatMap fun o => o.pages.map fun e => (⟨s.ringHost r, e.1.pas, e.2⟩ : XReq)).filter fun x => !s.unresolved x
  s.updSlot r d.idx fun e => { e with found := e.found ++ xs.filter fun x => !e.found.contains x }

/-- A read of descriptor p of ring r has no response yet. -/
def State.reads (s : State) (r : RingId) (p : W32) : Bool := s.ports.reqs.any fun q => q.r == r && q.p == p && !q.wr

/-- A bound descriptor whose reads and passes have ended, and the wipes of the pools that it leaves data in; every Flue plane of a crossing plan is there, and no stack that it
needs is orphaned (R338). -/
def State.runWaits (s : State) (op : Op) (r : RingId) (d : Slot) : Bool :=
  d.phase == .started && d.bound && opOf d.bytes == some op && !s.reads r d.idx && s.earlierRan r d && !s.needsOrphan d &&
    s.passesEnded r d && !s.awaitsWipe r d

/-- The run has all that it needs: no page is to be translated again. -/
def State.runnable (s : State) (op : Op) (r : RingId) (d : Slot) : Bool := s.runWaits op r d && (s.lostPages r d).isEmpty

/-- The tile units of a TILEPROG's slices are zeroed when it ends (R177); a slice's issue gap counts from its last row (R376). -/
def State.clearTiles (s : State) (ns : List Nat) (u : RingId × W32) : State :=
  let c := s.clk.pclk
  ns.foldl (fun s n => { s with slices := tupd s.slices n {} fun v => { v with tu := {}, issued := some (c, some u) } }) s

/-- Runs a started descriptor of opcode `op` whose reads have returned. The share units of a FLOOD's slices (R242) and the tile
units of a TILEPROG's are zeroed. -/
def State.runSlot (s : State) (op : Op) (r : RingId) (d : Slot) : State :=
  let s' := match d.corrupt with
    | some st => s.endCorrupt r d st d.detail
    | none =>
      let e := s.effectFor op r d
      if e.keyBad then s.endCorrupt r d stKeyCorrupt 0xA008 else s.endRun r d e
  match op with
  | .flood => (s'.wipeShares d.slices).updSlot r d.idx fun e => { e with keyed := false }
  | .tileprog => s'.clearTiles d.slices (r, d.idx)
  | _ => s'

/-- The row of an opcode. -/
def runOp (op : Op) (r : RingId) (p : W32) (s : State) : Res :=
  onPclk s fun _ =>
  match s.slotOf r p with
  | none => .next s
  | some d =>
    if s.runnable op r d then .next (s.runSlot op r d).bindWaiting
    -- a mover that finds a translation evicted requests it again (R36)
    else if s.runWaits op r d then .next ((s.findPages r d).requestPages (s.lostPages r d))
    else .next s

/-- COPY (R112). -/
def execCopy (r : RingId) (p : W32) (s : State) : Res := runOp .copy r p s
/-- FILL (R113). -/
def execFill (r : RingId) (p : W32) (s : State) : Res := runOp .fill r p s
/-- TRANSPOSE (R115). -/
def execTranspose (r : RingId) (p : W32) (s : State) : Res := runOp .transpose r p s
/-- BITREV (R117). -/
def execBitrev (r : RingId) (p : W32) (s : State) : Res := runOp .bitrev r p s
/-- AUTOMORPH (R118). -/
def execAutomorph (r : RingId) (p : W32) (s : State) : Res := runOp .automorph r p s
/-- NEGROT (R119). -/
def execNegrot (r : RingId) (p : W32) (s : State) : Res := runOp .negrot r p s
/-- PATTERN (R124). -/
def execPattern (r : RingId) (p : W32) (s : State) : Res := runOp .pattern r p s
/-- GATHER (R132). -/
def execGather (r : RingId) (p : W32) (s : State) : Res := runOp .gather r p s
/-- SCATTER (R133). -/
def execScatter (r : RingId) (p : W32) (s : State) : Res := runOp .scatter r p s
/-- WINDOW (R140). -/
def execWindow (r : RingId) (p : W32) (s : State) : Res := runOp .window r p s
/-- RELAYOUT (R114). -/
def execRelayout (r : RingId) (p : W32) (s : State) : Res := runOp .relayout r p s
/-- BASECONV (R152, R154). -/
def execBaseconv (r : RingId) (p : W32) (s : State) : Res := runOp .baseconv r p s
/-- RESCALE (R156). -/
def execRescale (r : RingId) (p : W32) (s : State) : Res := runOp .rescale r p s
/-- KSIP (R161 to R163). -/
def execKsip (r : RingId) (p : W32) (s : State) : Res := runOp .ksip r p s
/-- DIGITS (R151). -/
def execDigits (r : RingId) (p : W32) (s : State) : Res := runOp .digits r p s
/-- LUTPOLY (R120). -/
def execLutpoly (r : RingId) (p : W32) (s : State) : Res := runOp .lutpoly r p s
/-- EXTRACT (R122). -/
def execExtract (r : RingId) (p : W32) (s : State) : Res := runOp .extract r p s
/-- CONVERT (R213). -/
def execConvert (r : RingId) (p : W32) (s : State) : Res := runOp .convert r p s
/-- FLOOD (R237). -/
def execFlood (r : RingId) (p : W32) (s : State) : Res := runOp .flood r p s

/-- TILEPROG (R178, R180): the tile units of its slices are left zeroed, with every shape entry empty (R177). -/
def execTileprog (r : RingId) (p : W32) (s : State) : Res := runOp .tileprog r p s

/-! ### FENCE and SIGNAL -/

/-- Parameters of FENCE and SIGNAL (Table 11-4). -/
def dSync (d : List Byte) : Nat := byteAt d 85
def dValue (d : List Byte) : W64 := BitVec.ofNat 64 (field d 88 8)

/-- The counter that a FENCE names has reached its VALUE (R262). -/
def State.fenceOpen (s : State) (r : RingId) (d : Slot) : Bool :=
  decide ((dValue d.bytes).toNat ≤ (s.syncCounter (s.ringHost r) (dSync d.bytes)).toNat)

/-- A descriptor that passed its pre-check and whose earlier ones have started. -/
def State.fenceReady (s : State) (r : RingId) (d : Slot) : Bool :=
  d.isFence && d.phase == .checked && d.status == stDone && (s.before r d.idx).all fun e => e.phase.begun && !e.isFence

/-- A FENCE ends: its counter has reached VALUE, and its record has room in the collector (R262, R272). -/
def State.fenceRecords (s : State) (r : RingId) (d : Slot) : Bool := s.fenceOpen r d && s.retires r [d]

/-- FENCE (R262): it completes at once, or waits. -/
def execFence (r : RingId) (p : W32) (s : State) : Res :=
  onPclk s fun _ =>
  match s.slotOf r p with
  | none => .next s
  | some d =>
    if s.fenceReady r d && !s.held then
      .next (if s.fenceRecords r d then s.enterCollector r d else s.updSlot r p fun e => { e with phase := .waiting })
    else .next s

/-- FENCE_SATISFIED (R262): the counter of a waiting FENCE has reached VALUE, and its record enters the collector. -/
def execFenceSatisfied (r : RingId) (p : W32) (s : State) : Res :=
  onPclk s fun _ =>
  match s.slotOf r p with
  | none => .next s
  | some d =>
    if d.isFence && d.phase == .waiting && s.fenceRecords r d then .next (s.enterCollector r d) else .next s

/-- The new value of a SIGNAL's counter (R261). -/
def signalValue (d : List Byte) (old : W64) : W64 := if bit (byteAt d 84) 0 then old + dValue d else dValue d

/-- The 8 bytes that a SIGNAL writes to WADDR: VALUE; undefined ones where it races or its page has been invalidated (R38, R51). -/
def State.signalBytes (s : State) (d : Slot) : List Byte :=
  if d.races.isEmpty && !d.sigStale then natLe (dValue d.bytes).toNat 8 else s.freeBytes (memKey 26 d.idx.toNat) 8

/-- The translation of a SIGNAL's write has been used (R35, R345). -/
def State.touchSignal (s : State) (r : RingId) (d : Slot) : State :=
  if sigLoc d.bytes = 0xFF then s.touchPage (s.sigReq r d) else s

/-- The write of VALUE to WADDR (R261): its place, and the request that carries it (item 11). -/
def State.signalWrite (s : State) (r : RingId) (d : Slot) : State :=
  match s.sigPlace r d with
  | none => s
  | some at_ =>
    if sigWr d.bytes then
      (((s.touchSignal r d).writeBytes at_.1 at_.2 (s.signalBytes d)).updSlot r d.idx fun e => { e with sigAt := some at_ }).request
        { port := Fin.ofNat 25 at_.1, master := s.fetcher r, hf := s.ringHost r, sealed := dSealed d.bytes, tag := none, wr := true, r := r, p := d.idx, item := 11
          addr := at_.2, len := 8, issued := s.clk.pclk, overdue := false }
    else s

/-- A SIGNAL starts when every earlier record of its ring has been written (R261). -/
def State.signalWaits (s : State) (r : RingId) (d : Slot) : Bool :=
  d.isSignal && d.phase == .checked && d.status == stDone && (s.before r d.idx).isEmpty

/-- The translation of a SIGNAL's write has left the cache (R36). -/
def State.signalLost (s : State) (r : RingId) (d : Slot) : Bool :=
  sigWr d.bytes && sigLoc d.bytes == 0xFF && s.unresolved (s.sigReq r d)

def State.signalReady (s : State) (r : RingId) (d : Slot) : Bool := s.signalWaits r d && !s.signalLost r d && !s.signalOrphan d

/-- SIGNAL (R261). -/
def execSignal (r : RingId) (p : W32) (s : State) : Res :=
  onPclk s fun _ =>
  match s.slotOf r p with
  | none => .next s
  | some d =>
    if s.signalReady r d && !s.held then
      let k := dSync d.bytes
      let h := s.ringHost r
      let x := { d with
        phase := .ran, start := s.clk.pclk, races := s.racesInto r d
        doneAt := if sigWr d.bytes && (s.sigPlace r d).isSome then none else some s.clk.pclk }
      let s' := ((s.markRaces r d).setSync h k (signalValue d.bytes (s.syncCounter h k))).updCtx r fun c => { c with lastStart := s.clk.fclk }
      .next ((s'.updSlot r p fun _ => x).signalWrite r x)
    else if s.signalWaits r d && s.signalLost r d && !s.held then .next (s.requestPage (s.sigReq r d))
    else .next s

end Sys2Proof.Machine
end

