-- ==== Sys2Proof/Machine/Fault.lean ====
section
/-! DEFINITION. What the fault rows share (14): aborting a descriptor or chain (R332), the hard-fault windows (R336),
fencing a slice, a plane or a Stoke quarter (R337 to R340), the wipe of a slice. -/

namespace Sys2Proof.Machine

/-! ### Aborting -/

/-- Causes of 0x6001 (R347). -/
def causeWord : Nat := 1
def causeResidue : Nat := 2
def causePattern : Nat := 3
def causeHung : Nat := 4
def causeStarve : Nat := 5
def causeFence : Nat := 6

/-- The requests of a descriptor are abandoned, for a fence or not: those with a tag still hold it, the others are not issued. -/
def State.abandon (s : State) (r : RingId) (p : W32) (fence : Bool) : State :=
  let qs := s.ports.reqs.filterMap fun q =>
    if q.r == r && q.p == p then (if q.tag.isNone then none else some (q.abandoned fence)) else some q
  { s with ports := { s.ports with reqs := qs } }

/-- The exchanges of a descriptor are dropped with their flits, whose credits are whole again (R78); the ports that they held are free
from now on (R88). -/
def State.dropExchanges (s : State) (r : RingId) (p : W32) : State :=
  let xs := s.flue.exch.filter fun x => x.user == (r, p)
  let s := xs.foldl (fun s x => s.freePorts (distinctBelow 24 (x.spec.slices.filterMap s.server)) s.clk.pclk) s
  let gone (f : Flit) : Bool := xs.any fun x => x.x == f.xid
  let s : State := { s with flue := { s.flue with
      exch := s.flue.exch.filter fun x => x.user != (r, p)
      waits := s.flue.waits.filter fun w => w != (r, p)
      buffer := s.flue.buffer.filter fun f => !gone f
      spent := (s.flue.buffer.filter gone).foldl (fun t f => tput t (4 * f.dst + f.plane) (tget t (4 * f.dst + f.plane) 0 - 1)) s.flue.spent } }
  s.holdPlane

/-- The residents of the chain that pools with a given test keep are lost: no member reads them before they are rebuilt
(R267). -/
def State.loseKept (s : State) (lost : Pool → Bool) : State :=
  let gone := s.slices.flatMap fun e => (e.2.pools.map (·.2)).filter fun v => v.kept.isSome && lost v
  { s with ctxs := s.ctxs.map fun (e : Nat × Ctx) => (e.1, { e.2 with
      resident := e.2.resident.filter fun x => !gone.any fun v => match v.user with
        | some u => u.1 == e.2.ring && x.chain == some u.2 && v.kept == some (x.stack, x.addr)
        | none => false }) }

/-- The pools of a chain are empty again, and stay with it (R18). -/
def State.emptyPools (s : State) (f : Pool → Bool) : State :=
  { s with slices := s.slices.map fun (e : Nat × Slice) => (e.1, { e.2 with pools := e.2.pools.map fun (k : Nat × Pool) =>
      ((k.1, if f k.2 then { k.2 with role := if k.2.role = .wipe then .wipe else .free, ready := false, kept := none, holds := none, drains := []
                                      data := if k.2.role = .wipe then k.2.data else [] } else k.2) : Nat × Pool) }) }

/-- Descriptor d belongs to an Open chain whose first record has been written: it runs again alone, on what the chain holds. -/
def State.partly (s : State) (r : RingId) (d : Slot) : Bool :=
  !dSealed d.bytes && d.chain.isSome && !(s.slotsOf r).any fun e => some e.idx == d.chain

/-- The pools, passes, exchanges and shares of an aborted attempt are discarded: those of an Open chain whole, those of a
Sealed descriptor, or of one whose chain has written its first record, but for the resident operands of its chain (R332, R267, R242). A
chain's pools stay allocated to it (R18). -/
def State.discard (s : State) (r : RingId) (d : Slot) : State :=
  let stays := dSealed d.bytes || s.partly r d
  let mine (v : Pool) : Bool := v.user == some (r, d.holder) && (v.kept.isNone || !stays)
  let s := (s.dropShares d).freeUnit r d.idx
  let s := if stays then s else s.loseKept fun v => v.user == some (r, d.holder)
  let s := (s.dropPasses r d.idx).emptyPools mine
  (if d.chain.isSome then s else s.freePoolsThat mine).dropExchanges r d.idx

/-- Work of a descriptor that a fault can still abort: started, and its run not complete. -/
def Slot.running (d : Slot) : Bool := d.phase == .started || (d.phase == .ran && d.doneAt.isNone)

/-- Only the 8-byte write of a SIGNAL is repeated (R334); when its page has left the cache, as soon as it is translated again (R36). -/
def State.repeatSignal (s : State) (r : RingId) (p : W32) : State :=
  match s.slotOf r p with
  | some d =>
    if !(d.isSignal && d.running) then s
    else if s.signalLost r d then (s.abandon r p false).requestPage (s.sigReq r d)
    else (s.abandon r p false).signalWrite r d
  | none => s

/-- The descriptors that fail with descriptor d: its Open chain, or itself (R332, R267). -/
def State.abortSet (s : State) (r : RingId) (d : Slot) : List Slot :=
  if s.partly r d then [d] else (s.unit r d).filter fun e => e.phase.active

/-- A descriptor without what its attempt met: corrupt data, or in an Open chain another's (R332, R266). -/
def Slot.afresh (d : Slot) : Slot :=
  if d.corrupt.isSome || (!dSealed d.bytes && d.chain.isSome && d.status == stFlushed) then { d with corrupt := none, status := stDone, detail := 0 }
  else d

/-- Aborts descriptors of ring r for a cause, attributed to a unit that is hard-faulted or to none: 0x6001 is written for
their host function, and HEALTH is told (R332, R333). -/
def State.abortAll (s : State) (r : RingId) (ds : List Slot) (cause : Nat) (unit : Option Nat) : State :=
  let s := ds.foldl (fun s e =>
    ((s.abandon r e.idx (cause == causeFence)).discard r e).updSlot r e.idx fun x =>
      let y := if s.partly r e then x else x.afresh
      { y with
        phase := .aborted, bound := false, keyed := false, cause := cause, unit := unit, doneAt := none, queue := none, found := []
        dur := if x.opc = .flood ∧ !dSealed x.bytes then s.publishedDur x (s.planOf .flood x) else x.dur }) s
  (s.logEntry .health 0x6001 1 (some (s.ringHost r)) r.val cause).bindWaiting

/-- Aborts descriptor d, with its Open chain; a SIGNAL repeats its write (R334). -/
def State.abort (s : State) (r : RingId) (d : Slot) (cause : Nat) (unit : Option Nat) : State :=
  if d.isSignal then s.repeatSignal r d.idx else s.abortAll r (s.abortSet r d) cause unit

/-- Aborts the named descriptor when it is running; otherwise the fault changes nothing for it (R346). -/
def State.abortNamed (s : State) (r : RingId) (p : W32) (cause : Nat) (unit : Option Nat) : State :=
  match s.slotOf r p with
  | none => s
  | some d => if d.running then s.abort r d cause unit else s

/-! ### Hard faults (Table 14-2) -/

/-- Kinds of event: 0 Rick word in a pool, 1 Rick word at one place, 2 other slice word, 3 residue, 4 direct lane,
5 plane, 6 Stoke quarter, 8, 9, 10 corrected word of a slice, plane, quarter. -/
def Hard.recent (x : Hard) (f : Nat) : Bool := x.kind == 1 || decide (f ≤ x.fclk + 1200000000)

/-- A second such event within one second, or at any time for kind 1. -/
def State.repeated (s : State) (kind place f : Nat) : Bool :=
  s.hl.hist.any fun x => x.kind == kind && x.place == place && x.recent f

/-- Notes an event. -/
def State.noteHard (s : State) (kind place f : Nat) : State :=
  { s with hl := { s.hl with hist := s.hl.hist.filter (fun x => x.recent f) ++ [{ kind := kind, place := place, fclk := f }] } }

/-- Unit codes of 0x6002 (R347). -/
def unitSlice (n : Nat) : Nat := n
def unitPlane (p : Nat) : Nat := 0x20 + p
def unitQuarter (q : Nat) : Nat := 0x30 + q
def unitStack (m : Nat) : Nat := 0x40 + m

/-! ### Fencing -/

/-- A wiped slice: pools, tile file and program memory, pattern store and share units (R337, R242). -/
def Slice.wiped (v : Slice) : Slice :=
  { v.noShares with
    pools := [], passes := [], ends := [], tu := {}, pstore := [], pstoreHf := none, unit := none, cbuf := [], issued := none }

/-- The Flue without exchanges: its reassembly buffers are zero and every credit is back (R308). -/
def Flue.emptied (v : Flue) : Flue := { v with exch := [], held := 0, buffer := [], spent := [], returns := [], waits := [] }

/-- The live slices wiped, before tests read their memories (R243). -/
def State.wipeLive (s : State) : State :=
  { s with slices := s.slices.map fun (e : Nat × Slice) => (e.1, if e.2.fenced then e.2 else e.2.wiped) }

/-- The offline self-test begins, once no started descriptor is without a record: the memories are wiped first (R243,
R344). -/
def State.beginOffline (s : State) : State :=
  if s.ctl.ost.isSome && !s.ctl.ostRun && !(s.allSlots.any fun e => e.2.phase.begun) then
    { s.wipeLive with ctl := { s.ctl with ostRun := true } }
  else s

/-- The word that a crash dump holds in place of each word of a share register or of an expander (R244). -/
def dumpWord : W64 := 0x5A5A_5A5A_5A5A_5A5A

/-- What a crash dump of a slice writes for its share registers, 4 words each, and its 24 expanders, 25 words each (R244). -/
def Slice.dumpShares (_ : Slice) : List W64 := List.replicate (2 * 4 + 24 * 25) dumpWord

/-- The orphaned stacks. -/
def State.orphans (s : State) : List Nat := (List.range s.nslices).filter s.orphaned

/-- An orphaned unit is logged with severity 4 and cause 7 and reported over the management port (R338). -/
def State.reportOrphan (s : State) (code : Nat) : State := (s.logEntry .health 0x6002 4 none code 7).emit (.fatal code)

/-- The bytes of the ERRORS record (Table 13-11). -/
def errorsPayload (t : LedgerTotals) : List Byte := (List.range 60).flatMap fun k => natLe (tget t.errors k 0) 4

/-- A hard fence of a unit is logged, counted by the Ledger at word k, and persisted within 1 s (R326, R347). -/
def State.recordFence (s : State) (code cause k : Nat) : State :=
  let s := (s.logEntry .health 0x6002 3 none code cause).ledgerError k 1
  s.ledgerHold 3 (errorsPayload s.led.totals)

/-- A FLOOD whose shares lay in a slice that is wiped asks for them again (R236, R242). -/
def rekey (n : Nat) (d : Slot) : Slot :=
  if d.phase = .checked ∧ d.keyed ∧ d.slices.contains n then { d with phase := .waitKey, keyed := false } else d

/-- Nothing of an Open unit has left the issue queues, and no share of it has been delivered. -/
def State.unstarted (s : State) (r : RingId) (d : Slot) : Bool :=
  !dSealed d.bytes && (s.unit r d).all fun e => e.phase == .started && !e.bound && e.opc != .flood

/-- A unit that waited in issue queues is planned again for the slices that are live: it keeps its place in their queues, or
waits in its context, not started, when one is full (R337). -/
def State.requeue (s : State) (r : RingId) (p : W32) : State :=
  match (s.slotOf r p).filter fun d => d.phase == .started with
  | none => s
  | some d =>
    let ds := (s.unit r d).map s.planned
    if s.roomFor r ds && !ds.any s.needsOrphan then ds.foldl (fun s e => s.updSlot r e.idx fun _ => e) s
    else ds.foldl (fun s e => s.updSlot r e.idx fun x => { x with phase := .checked, slices := [], flue := [], spaces := [] }) s

/-- What a started descriptor has still to do needs an orphaned stack, all of a fenced Flue, or a fenced Stoke: its run, or, when that
is complete, the write of its cipher card (R338). -/
def State.stranded (s : State) (d : Slot) : Bool :=
  if d.isSignal then d.running && s.signalOrphan d
  else if d.running then s.needsOrphan d
  else d.phase == .ran && (s.liveQuarters.isEmpty || (d.dcard.isSome && d.status == stDone && s.orphaned (dcardPtr d.bytes).stack))

/-- The started descriptors that need what is orphaned are aborted, and not replayed (R338). -/
def State.dropOrphaned (s : State) : State :=
  (s.allSlots.filter fun e => s.stranded e.2).foldl (fun (s : State) e => match s.slotOf e.1 e.2.idx with
    | some d => if s.stranded d then s.abortAll e.1 (s.abortSet e.1 d) causeFence none else s
    | none => s) s

/-- The FLOODs that have their key and have not started, with slice n among those that hold its shares, lose them everywhere: they ask
for their key again (R236, R242). -/
def State.rekeyOn (s : State) (n : Nat) : State :=
  let s := s.wipeShares ((s.allSlots.filter fun e => e.2.phase == .checked && e.2.keyed && e.2.slices.contains n).flatMap (·.2.slices))
  { s with ctxs := s.ctxs.map fun (e : Nat × Ctx) => (e.1, { e.2 with slots := e.2.slots.map (rekey n) }) }

/-- Slice n is wiped and out of service: what its pools kept for chains is lost, and SCHED sets TK[n] (R337, R242, R267, R289). -/
def State.takeOut (s : State) (n cause : Nat) (testing : Bool) : State :=
  let s := (s.loseKept fun v => ((tget s.slices n {}).pools.map (·.2)).contains v).rekeyOn n
  let s : State := { s with
    slices := tupd s.slices n {} fun v => { v.wiped with fenced := true, testing := testing, cause := cause, refused := false } }
  if s.ctl.stage = .banked then { s with sched := { s.sched with tk := tput s.sched.tk n (s.tkOf n) } } else s

/-- R337 for slice n: what waits in its issue queue is planned again without it, work on it and what needs a stack that is orphaned now
(R338) is aborted, it is wiped, its stack passes to its buddy, SCHED sets TK[n]. -/
def State.isolate (s : State) (n cause : Nat) (testing : Bool) : State :=
  let old := s.orphans
  let on := s.allSlots.filter fun e => e.2.running && e.2.slices.contains n
  let waiting := on.filter fun e => s.unstarted e.1 e.2
  let hit := on.filter fun e => !s.unstarted e.1 e.2
  let s : State := { s with slices := tupd s.slices n {} fun v => { v with fenced := true } }
  let s := (waiting.foldl (fun s e => s.requeue e.1 e.2.idx) s).bindWaiting
  let s := hit.foldl (fun s e => s.abortNamed e.1 e.2.idx causeFence none) s
  let s := (s.dropOrphaned.takeOut n cause testing).globalEvent evFence
  let new := s.orphans.filter fun m => !old.contains m
  if new.isEmpty then s else (new.foldl (fun (s : State) m => s.reportOrphan (unitStack m)) s).globalEvent evOrphan

/-- A test of slice t is abandoned: the slice returns to service at once (R342, R303). -/
def State.dropTest (s : State) (t : SliceId) (h : HF) (running : Bool) : State :=
  let s : State := { s with ctl := { s.ctl with ist := some (t, h, false) } }
  if running && (tget s.slices t.val {}).testing then
    { s with slices := tupd s.slices t.val {} fun v => { v.wiped with fenced := false, testing := false, cause := 0, drain := false } }
  else { s with slices := tupd s.slices t.val {} fun v => { v with drain := false } }

/-- The test of a slice whose buddy is slice n, or of slice n itself before its fence, is abandoned when n hard-faults
(R342). -/
def State.abandonTest (s : State) (n : Nat) : State :=
  match s.ctl.ist with
  | some (t, h, run) => if s.buddy t.val = n || (t.val == n && !run) then s.dropTest t h run else s
  | none => s

/-- Fences slice n as a hard fault (R337, R338). A fence of a slice already fenced for a test turns it into a hard fence
(R362); one already hard-fenced stays as it is. -/
def State.hardFence (s : State) (n cause : Nat) : State :=
  let v := tget s.slices n {}
  if v.fenced && !v.testing then s
  else if v.fenced then
    ({ s with slices := tupd s.slices n {} fun v => { v with testing := false, cause := cause, refused := false } } : State).recordFence
      (unitSlice n) cause (18 + n)
  else ((s.abandonTest n).recordFence (unitSlice n) cause (18 + n)).isolate n cause false

/-- A test fence would orphan a stack (R338). -/
def State.wouldOrphan (s : State) (n : Nat) : Bool :=
  let t := { s with slices := tupd s.slices n {} fun v => { v with fenced := true } }
  t.orphans.any fun m => !s.orphaned m

/-- Fences slice n for a test (R342 step 3, R362). A fence is complete when it is made, or refused by R338, which the rules do not say of
the second: the W1S bit reads 0 either way (DESIGN CHOICE, log 99). -/
def State.testFence (s : State) (n : Nat) : State :=
  if (tget s.slices n {}).fenced then s
  else if s.wouldOrphan n then { s with slices := tupd s.slices n {} fun v => { v with refused := true } }
  else s.isolate n 0 true

/-- Returns a test-fenced slice to service after a wipe (R342 step 5, R362). -/
def State.returnSlice (s : State) (n : Nat) : State :=
  let v := tget s.slices n {}
  if v.testing && v.cause == 0 then
    let s : State := { s with slices := tupd s.slices n {} fun v => { v.wiped with fenced := false, testing := false, drain := false, refused := false } }
    if s.ctl.stage = .banked then { s with sched := { s.sched with tk := tput s.sched.tk n (s.tkOf n) } } else s
  else s

/-- Fences the planes of a mask (R339, R338): descriptors with an exchange running are aborted, and with the last plane those that
need the Flue. -/
def State.fencePlanes (s : State) (mask : BitVec 4) (cause : Nat) : State :=
  let new := onesOf 4 (mask &&& ~~~ s.flue.fenced).toNat
  if new.isEmpty then s
  else
    let all := s.flue.fenced ||| mask
    let s := s.flue.exch.foldl (fun s x => s.abortNamed x.user.1 x.user.2 causeFence none) s
    let s : State := { s with flue := { s.flue with fenced := all } }
    let s := (new.foldl (fun s p => s.recordFence (unitPlane p) cause (42 + p)) s.dropOrphaned).globalEvent evFence
    if all = 15 then (s.reportOrphan 0x60).globalEvent evOrphan else s

/-- Fences the Stoke quarters of a mask (R340): the rings whose quarter changes pass to live quarters, which fetch again what has not
started; with the last quarter every ring is orphaned (R338). -/
def State.fenceQuarters (s : State) (mask : BitVec 4) (cause : Nat) : State :=
  let new := onesOf 4 (mask &&& ~~~ s.hl.qfenced).toNat
  if new.isEmpty then s
  else
    let old := s
    let all := s.hl.qfenced ||| mask
    let s : State := { s with hl := { s.hl with qfenced := all } }
    let moved := (s.rings.map fun (e : Nat × Ring) => (Fin.ofNat 65536 e.1 : RingId)).filter fun r =>
      (s.quarterOf r).isSome && s.quarterOf r != old.quarterOf r
    let s := (moved.foldl State.refetch s).dropOrphaned
    let s := (new.foldl (fun s q => s.recordFence (unitQuarter q) cause (46 + q)) s).globalEvent evFence
    if all = 15 then (s.reportOrphan 0x70).globalEvent evOrphan else s

/-- Fences a hard-faulted unit, coded as R347 codes it. -/
def State.fenceUnit (s : State) (code cause : Nat) : State :=
  if code < 0x20 then s.hardFence code cause
  else if code < 0x30 then s.fencePlanes (BitVec.ofNat 4 (2 ^ (code - 0x20))) cause
  else s.fenceQuarters (BitVec.ofNat 4 (2 ^ (code - 0x30))) cause

/-- The cause of 0x6002 for a fence that follows a replay cause (R347). -/
def fenceCause (replay : Nat) : Nat := if replay = causePattern then 1 else replay

/-- HEALTH fences a hard-faulted unit; while it does not run, the fence is due when it does again (R336, R346). -/
def State.healthFence (s : State) (code cause : Nat) : State :=
  if s.compRuns .health then s.fenceUnit code cause
  else { s with hl := { s.hl with due := s.hl.due ++ [(code, cause)] } }

/-- HEALTH runs again: it fences what is due (R336, R346). -/
def State.settleDue (s : State) : State :=
  if s.compRuns .health then s.hl.due.foldl (fun s e => s.fenceUnit e.1 e.2) { s with hl := { s.hl with due := [] } } else s

/-- A descriptor that a fence has aborted: another fault found on it changes nothing (R346). -/
def State.fenceAborted (s : State) (r : RingId) (p : W32) : Bool :=
  (s.slotOf r p).any fun d => d.phase == .aborted && d.cause == causeFence

end Sys2Proof.Machine
end

