-- ==== Sys2Proof/Machine/Commit.lean ====
section
/-! DEFINITION. The end of a descriptor: its destination cipher card and its record (R272, R219, R231, R271), the
collector (R273, R254, R276), events (R274, R275, R357). -/

namespace Sys2Proof.Machine

/-! ### Records -/

/-- A 32-bit field that saturates. -/
def sat32 (n : Nat) : Nat := min n 0xFFFF_FFFF

/-- The bytes of a record (Table 11-6). A record written while its host function is frozen carries HOST_FROZEN, with the
status that it would otherwise have carried in DETAIL (R276). -/
def recordBytes (d : Slot) (log2size : Nat) (frozen : Bool) : List Byte :=
  let open_ := !dSealed d.bytes
  natLe (if frozen then stHostFrozen else d.status).toNat 2 ++ natLe (dOpcode d.bytes) 1 ++
    natLe ((phaseBit d.idx log2size).toNat + 2 * d.late.toNat + 4 * (dSealed d.bytes).toNat + 8 * (dLink d.bytes).toNat) 1 ++
    natLe (dCookie d.bytes) 4 ++ natLe d.idx.toNat 4 ++ natLe (sat32 d.dur) 4 ++
    natLe (if open_ then sat32 d.fills else 0) 4 ++ natLe (if open_ then sat32 d.drops else 0) 4 ++
    natLe (if open_ then sat32 d.dups else 0) 4 ++ natLe (if frozen then d.status else d.detail).toNat 2 ++ natLe 0 2

/-- A descriptor whose run and writes are complete. -/
def State.complete (s : State) (r : RingId) (d : Slot) : Bool :=
  d.phase == .ran && d.doneAt.isSome && !s.outstanding r d.idx

/-- Stoke writes the destination cipher card, after every other write (R42, R272); it is passed on in the chain
otherwise (R265). Only a descriptor that completed writes it; it is undefined where it races (R51). -/
def State.writeCard (s : State) (d : Slot) : State :=
  match d.dcard with
  | some c =>
    let p := dcardPtr d.bytes
    if d.status = stDone then
      s.writeBytes p.stack p.addr (if d.races.any p.range.meets then s.freeBytes (memKey p.stack p.addr) 64 else c.bytes)
    else s
  | none => s

/-- The descriptor is the last of its chain (R263). -/
def Slot.endsChain (d : Slot) : Bool :=
  match d.chain with
  | none => false
  | some f => !dLink d.bytes || decide (15 ≤ (d.idx - f).toNat)

/-- A chain ends: its resident operands with their pools, and what its members are rebuilt from, are released (R18, R264,
R267). -/
def State.endChain (s : State) (r : RingId) (chain : Option W32) : State :=
  match chain with
  | none => s
  | some f => (s.freePoolsThat fun v => v.user == some (r, f)).updCtx r fun c => { c with
      resident := c.resident.filter fun x => x.chain != chain, done := c.done.filter fun x => x.chain != chain }

/-- Puts the record of a descriptor into its reorder slot, or drops it on a ring that writes no more records (R254), and
releases what it holds. -/
def State.recordSlot (s : State) (r : RingId) (d : Slot) : State :=
  let s := (s.dropShares d).releaseUnits r d
  if (s.ring r).stopped then
    let s := ((s.dropCkpt r d.idx).unpin r d.idx).updCtx r fun c => { c with slots := c.slots.filter fun e => e.idx != d.idx }
    if d.endsChain then s.endChain r d.chain else s
  else s.enterCollector r { d with keyed := false }

/-- Bytes moved and busy cycles reach the Ledger's counts (Table 13-11). -/
def State.countWork (s : State) (d : Slot) : State :=
  let t := s.led.totals
  let busy := match d.doneAt with | some e => e - d.start | none => 0
  let act := d.slices.foldl (fun x n => tcount x n 64 busy) t.active
  let byt := (List.range 24).foldl (fun x n => let b := s.bytesOn d n; if b = 0 then x else tcount x n 94 b) t.bytes
  { s with led := { s.led with totals := { t with active := act, bytes := byt } } }

/-- DUR of an Open record: the cycles from its start to its completion (R271), and not less than the published count for a
FLOOD, whose record is issued no earlier (R240). -/
def openDur (d : Slot) : Nat :=
  let n := match d.doneAt with | some e => e - d.start | none => 0
  if d.opc = .flood then max d.dur n else n

/-- An Open FLOOD's record is issued no earlier than start + DUR (R240). -/
def floodTime (d : Slot) (c : Nat) : Bool := d.opc != .flood || d.status == stFlushed || decide (d.start + d.dur ≤ c)

/-- One descriptor of a unit commits. -/
def State.commitOne (s : State) (r : RingId) (d : Slot) : State :=
  let s := (s.writeCard d).countWork d
  let flushed := d.status == stFlushed
  s.recordSlot r { d with dur := if flushed then 0 else openDur d
                          fills := if flushed then 0 else d.fills, drops := if flushed then 0 else d.drops
                          dups := if flushed then 0 else d.dups }

/-- Whether COMMIT takes place: an unpadded refusal whose earlier descriptors have started, or an Open unit whose every member is
complete, each with room in the collector (R266, R272). A member that has run again alone commits beside those whose records wait. -/
def State.commits (s : State) (r : RingId) (d : Slot) (c : Nat) : Bool :=
  if d.unpadded then ((s.before r d.idx).all fun e => e.phase.begun) && s.retires r [d]
  else !dSealed d.bytes && s.retires r (s.unit r d) && (s.unit r d).all fun e => e.phase == .recorded || (s.complete r e && floodTime e c)

/-- COMMIT (R272). -/
def execCommit (r : RingId) (p : W32) (c : Nat) (s : State) : Res :=
  onPclk s fun _ =>
  match s.slotOf r p with
  | none => .next s
  | some d =>
    let s := s.atPclk c
    if s.commits r d c then
      if d.unpadded then .next (s.recordSlot r { d with dur := 0 }).bindWaiting
      else .next (((s.unit r d).filter fun e => e.phase != .recorded).foldl (fun s e => s.commitOne r e) s).bindWaiting
    else .next s

/-! ### SEALED_RECORD_CYCLE -/

/-- The k of R231: the smallest k ≥ 1 with the run complete by start + k × DUR. -/
def recordK (d : Slot) (done : Nat) : Nat := max 1 (ceilDiv (done - d.start) d.dur)

/-- The record cycle of a Sealed descriptor (R217, R231). -/
def Slot.recordCycle (d : Slot) (done : Nat) : Nat := d.start + recordK d done * d.dur

/-- A Sealed descriptor in its record cycle c. -/
def State.recordDue (s : State) (r : RingId) (d : Slot) (c : Nat) : Bool :=
  dSealed d.bytes && s.complete r d && match d.doneAt with
    | none => false
    | some e => c == d.recordCycle e

/-- The later members of a Sealed chain are FLUSHED, unpadded, when a descriptor did not complete (R267). -/
def State.sealedFlush (s : State) (r : RingId) (d : Slot) : State :=
  if d.status = stDone ∨ d.chain.isNone then s
  else (s.flushLater r d).updCtx r fun c => { c with members := c.members.map fun m =>
    if m.idx == d.idx then { m with failed := true } else m }

/-- The record of a Sealed descriptor: the published DUR, its status, LATE, counts of 0 (R219, R231). The Flue ports that it has held are
free from now on (R89). -/
def State.sealedRecord (s : State) (r : RingId) (d : Slot) (done : Nat) : State :=
  let s := if d.status = stDone then (s.writeCard d).countWork d else s
  let s := (s.freePorts d.flue s.clk.pclk).recordSlot r { d with late := decide (2 ≤ recordK d done) }
  (s.updCtx r fun c => { c with recordAt := max c.recordAt s.clk.pclk }).sealedFlush r d

/-- SEALED_RECORD_CYCLE (R217, R226, R231). -/
def execSealedRecordCycle (r : RingId) (p : W32) (c : Nat) (s : State) : Res :=
  onPclk s fun _ =>
  match s.slotOf r p with
  | none => .next s
  | some d =>
    let s := s.atPclk c
    if s.recordDue r d c then .next (s.sealedRecord r d (d.doneAt.getD 0)).bindWaiting else .next s

/-! ### COLLECTOR_WRITE -/

/-- A Sealed record at the head of another ring, whose place is known, goes ahead of ring r's Open one (R272). -/
def State.sealedFirst (s : State) (r : RingId) : Bool :=
  s.ctxs.any fun e => e.2.ring != r && !(s.ring e.2.ring).stopped && !s.ringGone e.2.ring &&
    match e.2.ready with
    | [] => false
    | d :: _ => dSealed d.bytes && match s.ringLoc e.2.ring ((s.ringEntry e.2.ring).recAddr d.idx) with
      | .here _ _ _ => true
      | _ => false

/-- The records that the next write of a ring carries: the oldest one, and the one after it when both lie in one 64-byte
granule (R273); none while the oldest waits in a slice queue, or behind another ring's Sealed record (R272). -/
def State.nextRecords (s : State) (r : RingId) : List Slot :=
  let held (d : Slot) : Bool := d.queue.isSome || (!dSealed d.bytes && s.sealedFirst r)
  match ((s.ctxOf r).map fun e => e.2.ready).getD [] with
  | d :: e :: _ => if held d then [] else if d.idx.toNat % 2 = 0 ∧ e.queue = none then [d, e] else [d]
  | [d] => if held d then [] else [d]
  | [] => []

/-- A written record signals at once: EVT, or a status other than DONE (R274). -/
def urgent (frozen : Bool) (d : Slot) : Bool := dEvt d.bytes || d.status != stDone || frozen

/-- What the write of records does beside the bytes: DONE_I, the reorder slots, pins and flood checkpoints, telemetry, the ring's event
(R36, R236, R252, R274). A flush ends with the ring's last record (R277). -/
def State.recordsWritten (s : State) (r : RingId) (ds : List Slot) (m : Nat) : State :=
  let h := s.ringHost r
  let frozen := (s.host h).freezing
  let e := s.ringEntry r
  let s := (ds.foldl (fun s d => (s.dropCkpt r d.idx).unpin r d.idx) s).updCtx r fun c => { c with
    slots := c.slots.drop ds.length, recordAt := max c.recordAt s.clk.pclk
    done := c.done ++ ds.filter fun d => dSealed d.bytes && d.chain.isSome }
  let s := ((ds.filter Slot.endsChain).foldl (fun s d => s.endChain r d.chain) s).drainQueues.beginOffline
  let s := s.updRing r fun x => { x with
    doneI := x.doneI + BitVec.ofNat 32 ds.length, unsig := x.unsig + ds.length
    flushing := x.flushing && x.doneI + BitVec.ofNat 32 ds.length != x.pi
    oldest := if x.unsig = 0 then some m else x.oldest }
  let s := (s.teleHost h 0 ds.length).teleHost h 6 (ds.filter (·.late)).length
  if ds.any (urgent frozen) || (e.ecnt != 0 && decide (e.ecnt ≤ (s.ring r).unsig)) then s.ringSignal r else s

/-- A completion-ring write fails: the ring enters ERROR, no further record is written, and descriptors that have not
started are dropped (R254). -/
def State.completionFailed (s : State) (r : RingId) (cause : Nat) : State :=
  let s := ((s.ringError r cause).dropFetches r).updRing r fun x => { x with pend := false, flushing := false }
  s.keepSlots r fun d => d.phase.active

/-- What an Open descriptor has written to host pages that have been invalidated or remapped since is undefined when its record makes
its destinations defined (R34, R38). -/
def State.spoil (s : State) (d : Slot) : State :=
  let stale := d.ops.filter fun o => decide (4 ≤ o.slot) && !o.res && o.xl.any (·.stale)
  let s := stale.foldl (fun (s : State) o =>
    { s.putElems o ((List.range o.card.count).map fun k => (k, s.elem o k)) with poison := s.poison }) s
  match d.sigAt with
  | some a => if d.isSignal && sigWr d.bytes && d.sigStale then
      { s with mem := writeMems s.mem (memKey a.1 a.2) (s.freeBytes (memKey a.1 a.2) 8) } else s
  | none => s

/-- The write of the next records at nclk count m; `ok` is false when the stack controller refuses it. It fails where no grant of the
host function reaches (R31), and none is made on an orphaned stack (R338). -/
def State.collect (s : State) (r : RingId) (ok : Bool) (m : Nat) : State :=
  match if s.ringGone r then [] else s.nextRecords r with
  | [] => s
  | d :: ds =>
    let e := s.ringEntry r
    match s.ringLoc r (e.recAddr d.idx) with
    | .needs x => s.requestPage x
    | .absent x => (s.completionFailed r 2).clearAbsent [x]
    | .denied => s.completionFailed r 2
    | .here sp a w =>
      if !w then s.completionFailed r 2
      else if !ok then s.completionFailed r (if e.loc = 0xFF then 2 else 3)
      else
        let frozen := (s.host (s.ringHost r)).freezing
        let s := ((d :: ds).foldl State.spoil s).touchRing r (e.recAddr d.idx) 32
        (s.writeBytes sp a ((d :: ds).flatMap fun x => recordBytes x e.log2size frozen)).recordsWritten r (d :: ds) m

/-- COLLECTOR_WRITE (R273, R254). -/
def execCollectorWrite (r : RingId) (ok : Bool) (m : Nat) (s : State) : Res :=
  if (s.ring r).stopped || s.ctl.inReset then .next s else .next ((s.atNclk m).collect r ok m).bindWaiting

/-! ### Events -/

/-- The age trigger of a ring has come (R274). -/
def State.ageDue (s : State) (r : RingId) (m : Nat) : Bool :=
  match (s.ring r).oldest with
  | none => false
  | some t => (s.ringEntry r).etime != 0 && decide (t + 1024 * (s.ringEntry r).etime ≤ m)

/-- EVENT_AGE_TRIGGER (R274). -/
def execEventAgeTrigger (r : RingId) (m : Nat) (s : State) : Res :=
  if s.ageDue r m then .next ((s.atNclk m).ringSignal r) else .next (s.atNclk m)

/-- The vector may send its message at nclk count m (R357). -/
def EvVec.due (v : EvVec) (m : Nat) : Bool :=
  v.pend && !v.mask && match v.last with
    | none => true
    | some t => decide (t + 1024 * v.holdoff.toNat ≤ m)

/-- One message: a posted 4-byte write of DATA to ADDR; PEND clears (R357). -/
def State.sendMessage (s : State) (h : HF) (v m : Nat) : State :=
  let e := (s.host h).vec v
  (s.updHost h fun x => x.updVec v fun e => { e with pend := false, last := some m }).emit
    (.message h v (e.addr ++ (0 : BitVec 2)) e.data)

/-- EVENT_MESSAGE (R275, R357). -/
def execEventMessage (h : HF) (v : Fin 64) (m : Nat) (s : State) : Res :=
  if ((s.host h).vec v.val).due m && s.ctl.stage != .reset && !s.ctl.inReset then .next ((s.atNclk m).sendMessage h v.val m)
  else .next (s.atNclk m)

end Sys2Proof.Machine
end

