-- ==== Sys2Proof/Machine/Ports.lean ====
section
/-! DEFINITION. What arrives at the memory ports: responses of the stacks and of the host port (R93 to R99, R160, R266,
R331, R367), translations (R35, R36, R345) and invalidations (R37, R38). -/

namespace Sys2Proof.Machine

/-! ### Counters of errors -/

/-- A corrected word: kinds 0 Rick, 1 Kiln, 2 Flue, 3 stack ports, 4 tile files, 5 pattern stores, 6 Bellows, in the order
of Table 13-11 and of page 1 (Table 14-7). -/
def State.countCorrected (s : State) (kind : Nat) : State := (s.teleGlobal (2 + kind) 1).ledgerError kind 1

/-- An uncorrectable word of one of these kinds reaches the Ledger. -/
def State.countUncorrectable (s : State) (kind : Nat) : State := s.ledgerError (7 + kind) 1

/-- HSn_UE of an uncorrectable word (Table 15-25). -/
def ueWord (unit row bank pool : Nat) : W64 :=
  BitVec.ofNat 64 (2 ^ 63 + unit * 2 ^ 48 + row * 2 ^ 32 + bank * 2 ^ 24 + pool * 2 ^ 16)

/-- An uncorrectable word of slice n: UECNT and HSn_UE (Table 15-25). -/
def State.sliceUe (s : State) (n : Nat) (ue : W64) : State :=
  { s with slices := tupd s.slices n {} fun v => { v with uecnt := sat 8 (v.uecnt + 1), ue := ue } }

/-- HEALTH fences a hard-faulted unit (R336). -/
def State.fenceIf (s : State) (hard : Bool) (code cause : Nat) : State :=
  if hard then s.healthFence code (fenceCause cause) else s

/-- A fault of a unit, hard or not: the named descriptor is aborted; where none is, HEALTH fences a hard-faulted unit at once.
A SIGNAL only repeats its write (R334). -/
def State.strike (s : State) (hard : Bool) (code cause : Nat) (r : RingId) (p : W32) : State :=
  match s.slotOf r p with
  | some d =>
    if d.isSignal then (s.repeatSignal r p).fenceIf hard code cause
    else if d.running then s.abort r d cause (if hard then some code else none)
    else s.fenceIf hard code cause
  | none => s.fenceIf hard code cause

/-- An event attributed to a unit: it is noted, and a second one within the window hard-faults the unit (Table 14-2). -/
def State.attributed (s : State) (kind place code cause f : Nat) (r : RingId) (p : W32) : State :=
  (s.noteHard kind place f).strike (s.repeated kind place f) code cause r p

/-- An uncorrectable word on the direct lane of slice n (Table 14-1). -/
def State.laneUe (s : State) (n f : Nat) (r : RingId) (p : W32) : State :=
  ((s.countUncorrectable 3).sliceUe n (ueWord 6 0 0 0)).attributed 4 n (unitSlice n) causeWord f r p

/-- An uncorrectable word on a bypass input or on the host port path: no unit (Table 14-1). -/
def State.pathUe (s : State) (r : RingId) (p : W32) : State := (s.countUncorrectable 3).abortNamed r p causeWord none

/-- A corrected word of a unit (kind 8 a slice, 9 a plane, 10 a quarter): more than 4096 within one second hard-fault the
unit (Table 14-2). -/
def State.correctedUnit (s : State) (kind place code : Nat) : State :=
  let f := s.clk.fclk
  let s := s.noteHard kind place f
  if 4096 < (s.hl.hist.filter fun x => x.kind == kind && x.place == place && x.recent f).length then s.healthFence code 3 else s

/-- A corrected word on the direct lane of slice n. -/
def State.laneCorrected (s : State) (n : Nat) : State := s.correctedUnit 8 n (unitSlice n)

/-! ### Responses -/

/-- The outstanding request that a response answers (R93). -/
def State.answered (s : State) (port : PortId) (m : Nat) (tag : Fin 512) (wr : Bool) : Option Req :=
  s.ports.reqs.find? fun q => q.port == port && q.master == m && q.tag == some tag && q.wr == wr && q.item != itemFetch

/-- The request with a tag is done: the tag may pass to the next one that waits (R93). -/
def State.retire (s : State) (q : Req) (tag : Fin 512) : State :=
  let done (x : Req) : Bool := x.master == q.master && x.wr == q.wr && x.tag == some tag
  { s with ports := ({ s.ports with reqs := s.ports.reqs.filter fun x => !done x } : Ports).accept s.clk.pclk }

/-- A granule that a read returned with poison ends the descriptor: SOURCE_CORRUPT, or KEY_CORRUPT for a key (R99, R160);
requests not yet issued are dropped (R271), and its passes stop (R135). The first one met sets the DETAIL (R269). -/
def State.readPoison (s : State) (q : Req) : State :=
  match s.slotOf q.r q.p with
  | none => s
  | some d =>
    let st := if d.opc = .ksip ∧ q.item = 8 then stKeyCorrupt else stSourceCorrupt
    let s := s.updSlot q.r q.p fun e => if e.corrupt.isSome then e else
      { e with corrupt := some st, detail := BitVec.ofNat 16 (0xA000 + q.item) }
    ({ s with ports := { s.ports with reqs := s.ports.reqs.filter fun x => !(x.r == q.r && x.p == q.p && x.tag.isNone) } } : State).dropPasses q.r q.p

/-- Bytes written over a buffer from place i on. -/
def spliceAt (l : List Byte) (i : Nat) (bs : List Byte) : List Byte :=
  (l ++ List.replicate (i - l.length) 0).take i ++ bs ++ l.drop (i + bs.length)

/-- The place in the constant buffer of byte i of a streamed table: halves take their turns through all waves, the first of a wave in the
one after the last of the wave before (DESIGN CHOICE, log 99: R150 says only that the buffer works as two halves). Of the halves asked for,
the latest that carries this part of the table is the one that comes. -/
def Slot.bufferAt (d : Slot) (i : Nat) : Nat :=
  let H := d.tableHalves
  if H = 1 then i
  else
    let h := i / 20480
    let seq := d.halves - 1 - (d.halves - 1 + H - h) % H
    seq % 2 * 20480 + i % 20480

/-- The words of a constant table that a read returns go by the broadcast into the constant buffers of the descriptor's slices, in table
order; a streamed table takes the two halves in turn (R150). -/
def State.broadcast (s : State) (q : Req) : State :=
  match s.slotOf q.r q.p with
  | none => s
  | some d =>
    if q.item == 8 && d.opc.hasTable then
      let bs := s.readBytes q.port.val q.addr q.len
      let at_ := d.bufferAt (q.addr - locAddr (locOf d.bytes 88))
      let take (v : Slice) : Slice := if v.unit = some (q.r, q.p) then { v with cbuf := spliceAt v.cbuf at_ bs } else v
      d.slices.foldl (fun s n => { s with slices := tupd s.slices n {} take }) s
    else s

/-- Stoke refills a half of the constant buffers as soon as the slices have finished with it: the model has them do so when the half after
it has come (R150; DESIGN CHOICE, log 99). -/
def State.refill (s : State) (q : Req) : State :=
  match s.slotOf q.r q.p with
  | none => s
  | some d =>
    if q.item == 8 && d.opc.hasTable && d.phase == .started && d.corrupt.isNone && decide (1 < d.tableHalves) &&
        decide (d.halves < s.tableReads d * d.tableHalves) && !(s.ports.reqs.any fun x => x.r == q.r && x.p == q.p && x.item == 8) then
      (s.halfReqs q.r d d.halves).foldl State.request (s.updSlot q.r q.p fun e => { e with halves := d.halves + 1 })
    else s

/-- The pattern stores of a PATTERN's slices take its entries from the images captured at pre-check, one per cycle, once the mover has
read them; where another PATTERN uses the slots, they follow pass by pass (R71, R72). -/
def State.loadStores (s : State) (q : Req) : State :=
  match s.slotOf q.r q.p with
  | none => s
  | some d =>
    let n := q.master
    if q.item == 9 && d.opc == .pattern && d.phase == .started &&
        !(s.ports.reqs.any fun x => x.r == q.r && x.p == q.p && x.item == 9 && x.master == n) then
      let load (v : Slice) : Slice :=
        if s.storeBusy q.r d then v else v.loadStore (s.ringHost q.r) (tget d.aux ((s.servedOf (ppSlices d.image) n).headD n) [])
      { s with slices := tupd s.slices n {} fun v => { load v with storeAt := s.clk.pclk } }
    else s

/-- A write of a descriptor has been acknowledged: the drains that it ends, and with the last one the descriptor's, whose units are
released (R54, R95, R155, R271). -/
def State.ackWrites (s : State) (q : Req) : State :=
  match s.slotOf q.r q.p with
  | none => s
  | some d =>
    if d.phase = .ran ∧ d.doneAt = none ∧ !s.outstanding q.r q.p then
      (((s.updSlot q.r q.p fun d => { d with doneAt := some s.clk.pclk }).freeUnit q.r q.p).endDrains q.r d).bindWaiting
    else s.endBlockDrains q.r d

/-- An uncorrectable word in a response that no descriptor takes any more is counted, and attributed to the slice of the direct lane
(R329); not one to work that a fence has aborted (R346). -/
def State.strayUe (s : State) (q : Req) : State :=
  let n := q.port.val
  if q.item = itemFenced then s
  else if n < 24 ∧ q.master = n then
    let hard := s.repeated 4 n s.clk.fclk
    (((s.countUncorrectable 3).sliceUe n (ueWord 6 0 0 0)).noteHard 4 n s.clk.fclk).fenceIf hard (unitSlice n) causeWord
  else s.countUncorrectable 3

/-- What a response does to the descriptor of its request, before its tag passes on; that of an aborted attempt has no descriptor. -/
def State.answer (s : State) (q : Req) (ecc : Ecc) (bad : Bool) : State :=
  if q.stray then (if ecc = .uncorrectable then s.strayUe q else s)
  else if ecc = .uncorrectable then
    if q.port.val < 24 ∧ q.master = q.port.val then s.laneUe q.port.val s.clk.fclk q.r q.p else s.pathUe q.r q.p
  else if q.wr then s
  else if bad then s.readPoison q
  else s.broadcast q

/-- A response: the correction that it carries is counted, its descriptor takes it, its tag passes on, and the last write of a
descriptor is acknowledged. -/
def State.respond (s : State) (q : Req) (tag : Fin 512) (ecc : Ecc) (bad : Bool) : State :=
  let s := if ecc = .corrected then
      let s := ({ s with ports := { s.ports with corr := tcount s.ports.corr q.port.val 32 1 } } : State).countCorrected 3
      if q.port.val < 24 ∧ q.master = q.port.val then s.laneCorrected q.port.val else s
    else s
  let s := (s.answer q ecc bad).retire q tag
  if ecc = .uncorrectable ∨ q.stray = true then s else if q.wr then s.ackWrites q else (s.refill q).loadStores q

/-- STACK_RESPONSE (R93 to R95, R99, R380). -/
def execStackResponse (port : SliceId) (m : Nat) (tag : Fin 512) (wr : Bool) (ecc : Ecc) (s : State) : Res :=
  onPclk s fun _ =>
  onSlice s port fun _ =>
    match s.answered (Fin.ofNat 25 port.val) m tag wr with
    | none => .next s
    | some q => .next ((s.reachGrant m wr tag).respond q tag ecc (s.poisoned port.val q.addr q.len))

/-- HOST_COMPLETION (R93, R367): a read's error status counts as a poisoned granule. -/
def execHostCompletion (m : Nat) (tag : Fin 512) (wr : Bool) (ecc : Ecc) (err : Bool) (s : State) : Res :=
  onPclk s fun _ =>
  match s.answered 24 m tag wr with
  | none => .next s
  | some q => .next ((s.reachGrant m wr tag).respond q tag ecc err)

/-! ### Translations -/

/-- The Sealed descriptors whose pre-checked pages an entry serves (R36). -/
def State.pinners (s : State) (e : TEntry) : List (RingId × W32) :=
  (s.allSlots.filter fun x => x.2.pinned && s.ringHost x.1 == e.hf && (s.slotPages x.1 x.2).any fun y => e.covers y).map fun x => (x.1, x.2.idx)

/-- Enters a translation: in one of the 128 entries of its host function, or in the shared 2048 (R35, R345). One that a
Sealed descriptor pins takes one of the 128, and an unpinned one moves to the shared entries for it. A lost entry gives way to it. -/
def State.enter (s : State) (e : TEntry) : State :=
  let gone (t : TEntry) : Bool := t.lost && t.hf == e.hf && t.pasid == e.pasid && decide (e.iova ≤ t.iova) && decide (t.iova < e.iova + e.size)
  let s : State := { s with xl := { s.xl with cache := s.xl.cache.filter fun t => !gone t } }
  { s with xl :=
      if s.xl.own e.hf < 128 ∨ !e.pins.isEmpty then
        ({ s.xl with cache := s.xl.cache ++ [{ e with shared := false }] } : Xlate).trim e.hf 1
      else { s.xl with cache := s.xl.roomShared e.hf ++ [{ e with shared := true }] } }

/-- A free slot goes to a waiting host function in round-robin order (R345); telemetry counts the pclk cycles that the request has
waited (Table 14-7). -/
def State.grantXlate (s : State) : State :=
  let can := s.xl.waiting.filter fun x => s.xl.mayIssue x.hf
  match can.foldl (fun (best : Option XReq) x => match best with
      | none => some x
      | some b => if after 16 s.xl.last x.hf.val < after 16 s.xl.last b.hf.val then some x else some b) none with
  | none => s
  | some x =>
    let t := ((s.xl.since.find? fun e => e.1 == x).map (·.2)).getD s.clk.pclk
    let s := s.teleHost x.hf 9 (s.clk.pclk - t)
    ({ s with xl := { s.xl with
      reqs := s.xl.reqs ++ [x], waiting := s.xl.waiting.erase x, since := s.xl.since.filter fun e => e.1 != x
      last := x.hf.val } } : State).emit (.xlReq x.hf x.pasid x.iova)

/-- The SIGNALs whose write waits for its page go on with it; one whose page has no translation any more has nothing to write (R334,
R36, R38). -/
def State.resumeSignals (s : State) : State :=
  let waits (e : RingId × Slot) : Bool :=
    e.2.isSignal && e.2.phase == .ran && e.2.doneAt.isNone && sigWr e.2.bytes && !s.outstanding e.1 e.2.idx && !s.signalLost e.1 e.2
  (s.allSlots.filter waits).foldl (fun s e =>
    if (s.sigPlace e.1 e.2).isSome then s.signalWrite e.1 e.2
    else (s.clearAbsent [s.sigReq e.1 e.2]).updSlot e.1 e.2.idx fun d => { d with doneAt := some s.clk.pclk }) s

/-- An answered translation request (R36). An answer other than the one on which an Open descriptor in flight runs shows
that its page was remapped: its data is undefined (R38). -/
def State.translated (s : State) (x : XReq) (res : Option (Nat × W64 × Bool)) : State :=
  let s : State := { s with xl := { s.xl with reqs := s.xl.reqs.erase x } }
  let s : State := match res with
    | none => ({ s with xl := { s.xl with absent := s.xl.absent ++ [x] } } : State).markStale x 4096
    | some (size, phys, wr) =>
      let n := max size 4096
      let e : TEntry := { hf := x.hf, pasid := x.pasid, iova := x.iova / n * n, size := n, phys := phys.toNat / n * n, write := wr
                          shared := false, pins := [] }
      (s.enter { e with pins := s.pinners e }).markMaps fun h m =>
        h == e.hf && m.pas == e.pasid && decide (e.iova ≤ m.iova) && decide (m.iova < e.iova + e.size) &&
          m.phys != e.phys + (m.iova - e.iova)
  s.resumeSignals.grantXlate

/-- TRANSLATION_COMPLETION (R35, R36, R345). -/
def execTranslationCompletion (h : HF) (pasid : Option (BitVec 20)) (iova : W64) (res : Option (Nat × W64 × Bool)) (s : State) :
    Res :=
  onPclk s fun _ =>
  let x : XReq := ⟨h, pasid, iova.toNat⟩
  if s.xl.reqs.contains x then .next (s.translated x res) else .next s

/-- INVALIDATION_REQUEST (R37, R38). -/
def execInvalidationRequest (h : HF) (pasid : Option (BitVec 20)) (iova : W64) (size : Nat) (s : State) : Res :=
  onPclk s fun _ =>
  let x : XReq := ⟨h, pasid, iova.toNat⟩
  if (s.xl.cache.any fun e => e.meets x size && !e.pins.isEmpty) then
    .next { s with xl := { s.xl with invals := s.xl.invals ++ [(x, size)] } }
  else
    .next ((s.dropEntries x size).emit (.invDone h iova.toNat))

end Sys2Proof.Machine
end

