-- ==== Sys2Proof/Machine/Access.lean ====
section
/-! DEFINITION. Who reaches which part of the register window (Table 15-1, R350 to R352, R363), and the ring table entry
rules that firmware and the fallback registers apply (R248, R249). -/

namespace Sys2Proof.Machine

/-- The areas of Table 15-1. -/
inductive Area where
  | ident
  /-- The global page, but for the two registers below: status, the Damper, the sensors. -/
  | global
  /-- PTU_GCTL. -/
  | gctl
  /-- PTU_STOKE. -/
  | stoke
  | host (m : HF)
  | doorbell (m : HF)
  | slice (n : Nat)
  | flue
  | bellows
  | mailbox
  | reserved
  deriving DecidableEq, Repr

/-- The area of an offset, and the offset in it. -/
def areaOf (off : Nat) : Area × Nat :=
  if off < 0x1000 then (.ident, off)
  else if off < 0x2000 then (if off < 0x1008 then .gctl else if 0x1020 ≤ off ∧ off < 0x1028 then .stoke else .global, off - 0x1000)
  else if 0x1_0000 ≤ off ∧ off < 0x2_0000 then (.host (Fin.ofNat 16 (off / 0x1000)), off % 0x1000)
  else if 0x10_0000 ≤ off ∧ off < 0x11_0000 then (.doorbell (Fin.ofNat 16 (off / 0x1000)), off % 0x1000)
  else if 0x20_0000 ≤ off ∧ off < 0x38_0000 then (.slice (off / 0x1_0000 - 0x20), off % 0x1_0000)
  else if 0x40_0000 ≤ off ∧ off < 0x41_0000 then (.flue, off - 0x40_0000)
  else if 0x50_0000 ≤ off ∧ off < 0x60_0000 then (.bellows, off - 0x50_0000)
  else if 0x60_0000 ≤ off ∧ off < 0x60_1000 then (.mailbox, off - 0x60_0000)
  else (.reserved, off)

/-- The register file answers with register contents: not before the first stage (R306), and not while the PTU is held in
reset (R370, R373). -/
def State.windowUp (s : State) : Bool := s.ctl.stage != .reset && !s.ctl.inReset

/-- BW_LOCK.LOCKED (R363). -/
def State.bwLocked (s : State) : Bool := !(s.part.lc == .green || s.part.lc == .ret)

/-- The code range of a component: its first address and its length (Table 12-1). -/
def codeRange : Comp → Nat × Nat
  | .boot => (0x0000_0000, 0x1_0000)
  | .kernel => (0x1000_0000, 0x4_0000)
  | .schedA => (0x1004_0000, 0x6_0000)
  | .schedB => (0x1004_0000, 0x6_0000)
  | .admin => (0x100A_0000, 0x4_0000)
  | .log => (0x100E_0000, 0x1_0000)
  | .ledger => (0x100F_0000, 0x2_0000)
  | .health => (0x1011_0000, 0x3_0000)
  | .keys => (0x1014_0000, 0x1_0000)
  | .test => (0x1015_0000, 0x7_0000)

/-- The data range of a component; KERNEL's holds those of its four instances (Table 12-1). -/
def dataRange : Comp → Nat × Nat
  | .boot => (0x2000_0000, 0)
  | .kernel => (0x2000_0000, 0x2_0000)
  | .schedA => (0x2002_0000, 0x3_0000)
  | .schedB => (0x2005_0000, 0x3_0000)
  | .admin => (0x2008_0000, 0x2_0000)
  | .log => (0x200A_0000, 0x1_0000)
  | .ledger => (0x200B_0000, 0x1_0000)
  | .health => (0x200C_0000, 0x1_0000)
  | .keys => (0x200D_0000, 0x8000)
  | .test => (0x200D_8000, 0x1_8000)

/-- The partitions of Table 12-1. -/
def allComps : List Comp := [.boot, .kernel, .schedA, .schedB, .admin, .log, .ledger, .health, .keys, .test]

/-- An address of the Bellows lies in a range. -/
def inSpan (g : Nat × Nat) (a : Nat) : Bool := decide (g.1 ≤ a) && decide (a < g.1 + g.2)

/-- Component c owns an address of the Bellows (R279). -/
def owns (c : Comp) (a : Nat) : Bool := inSpan (codeRange c) a || inSpan (dataRange c) a

/-- The device windows of a partition (Table 12-1, R279): of the global page PTU_GCTL and PTU_STOKE are the scheduling registers of Stoke,
and the status, fencing and Damper registers are HEALTH's (log 9). -/
def fwReaches (c : Comp) (a : Area) : Bool :=
  match a with
  | .ident => false
  | .global => c == .health
  | .gctl => c == .health || c == .schedA || c == .schedB
  | .stoke => c == .health || c == .schedA || c == .schedB
  | .host _ => c == .admin
  | .doorbell _ => false
  | .slice n => c == .health || c == .test || (c == .schedA && decide (n < 12)) || (c == .schedB && decide (12 ≤ n))
  | .flue => c == .health
  | .bellows => c == .kernel
  | .mailbox => c == .keys || c == .boot
  | .reserved => false

/-- The windows that a partition writes: of a slice window and of QFREQ, which are fencing, a SCHED instance only reads (R362, R340). -/
def fwWrites (c : Comp) (a : Area) : Bool :=
  fwReaches c a && match a with
    | .slice _ => c == .health || c == .test
    | .stoke => c == .health
    | _ => true

/-- The stage serves a requester's accesses to an area: in QUENCHED those to the identity and stage registers, beside firmware's own
while its cores still run (Table 13-1, R314). -/
def State.stageServes (s : State) (who : Who) (a : Area) : Bool :=
  s.ctl.stage != .quenched || a == .ident || match who with
    | .fw _ => true
    | _ => false

/-- Reads that Table 15-1 permits, and the stage serves. -/
def State.mayRead (s : State) (who : Who) (a : Area) : Bool :=
  s.stageServes who a && match who with
  | .fw c => fwReaches c a
  | .host h =>
    match a with
    | .ident => true
    | .global => true
    | .gctl => true
    | .stoke => true
    | .host m => m == h
    | .slice _ => s.ctl.manager == some h
    | .flue => s.ctl.manager == some h
    | .bellows => s.ctl.manager == some h
    | _ => false
  | .mgmt =>
    match a with
    | .ident => true
    | .global => true
    | .gctl => true
    | .stoke => true
    | .slice _ => true
    | .flue => true
    | .bellows => true
    | _ => false

/-- Writes that Table 15-1 permits, and the stage serves; of the partitions that reach a slice window only HEALTH and TEST write there (R362). -/
def State.mayWrite (s : State) (who : Who) (a : Area) : Bool :=
  s.stageServes who a && match who with
  | .fw c => fwWrites c a
  | .host h =>
    match a with
    | .host m => m == h
    | .doorbell m => m == h
    | .bellows => s.ctl.manager == some h && !s.bwLocked
    | _ => false
  | .mgmt => a == .bellows && !s.bwLocked

/-- A write reaches a register of an area. -/
def State.writes (s : State) (who : Who) (a : Area) : Bool := s.windowUp && s.mayWrite who a

/-! ### Ring table entries -/

/-- A range on a stack lies in a grant of the host function and clear of the hearthstone region. -/
def State.ringPlace (s : State) (h : HF) (loc base len : Nat) : Bool :=
  s.inGrant h loc base len && !meetsHearthstone loc base len

/-- An entry keeps the rules of Table 11-1 and R249 for a ring of host function h. -/
def State.entryOk (s : State) (h : HF) (e : RingEntry) : Bool :=
  !e.rsv && decide (6 ≤ e.log2size) && decide (e.log2size ≤ 16) && e.hf == h.val && e.dbase % 4096 == 0 && e.cbase % 4096 == 0 &&
    (e.loc == 0xFF ||
      (decide (e.loc < s.nslices) && decide (e.dbase < 2 ^ 40) && decide (e.cbase < 2 ^ 40) && !e.pv &&
        s.ringPlace h e.loc e.dbase (128 * e.size) && s.ringPlace h e.loc e.cbase (32 * e.size)))

/-- Enables a ring at an index, with the entry that serves it (R250, R309). -/
def State.enableRing (s : State) (r : RingId) (image : List Byte) (start : W32) : State :=
  s.updRing r fun x => { x with
    st := .enabled, cause := 0, pi := start, doneI := start, fetch := start, pend := false, flushing := false, unsig := 0, oldest := none
    image := image, waitSince := none }

end Sys2Proof.Machine
end

