-- ==== Sys2Proof/Machine/Fallback.lean ====
section
/-! DEFINITION. Fallback service (R309 to R311, R359) and the fallback scheduler (R310). -/

namespace Sys2Proof.Machine

/-- The fallback ring of a host function (13, Fallback service). -/
def fbRing (h : HF) : RingId := Fin.ofNat 65536 (h.val * 4096)

/-- FBCTL and FBENT take writes until entry to BANKED (R359). -/
def State.fbWritable (s : State) : Bool := s.ctl.stage == .tinder || s.ctl.stage == .kindling

/-- The entry image in FBENT0 to FBENT3. -/
def HostFn.fbImage (x : HostFn) : List Byte := (List.range 4).flatMap fun k => natLe (tget x.fbent k 0).toNat 8

/-- The checks of an entry image (R309): the rules of the ring table, PRIO = 0, and host memory or the fallback grant. -/
def State.fbImageOk (s : State) (h : HF) (e : RingEntry) : Bool :=
  s.entryOk h e && e.prio == 0 && (e.loc == 0xFF || e.loc == 0)

/-- What an accepted FBCTL write with EN = 1 does (R309, R359). -/
def State.fbEnable (s : State) (h : HF) (start : W32) : State :=
  let r := fbRing h
  let b := (s.host h).fbImage
  if (s.ring r).st = .disabled && s.fbImageOk h (parseRingEntry b) then s.enableRing r b start
  else s.updHost h fun x => { x with fbErr := true }

/-- FBCTL_ENABLE (R309, R359). -/
def execFbctlEnable (tag page : HF) (start : W32) (s : State) : Res :=
  if s.writes (.host tag) (.host page) && s.fbWritable then .next (s.fbEnable page start) else .next s

/-- Fetching from a fallback ring stops; what has not started returns to the ring (R311, R359). -/
def State.fbStop (s : State) (h : HF) : State :=
  if (s.ring (fbRing h)).st = .disabled then s
  else (s.updHost h fun x => { x with fbStop := true }).returnUnstarted (fbRing h)

/-- FBCTL_DISABLE (R359). -/
def execFbctlDisable (tag page : HF) (s : State) : Res :=
  if s.writes (.host tag) (.host page) && s.fbWritable then .next (s.fbStop page) else .next s

/-- No descriptor of a ring stays in its context. -/
def State.drained (s : State) (r : RingId) : Bool := (s.slotsOf r).isEmpty && s.inFlight r == 0

/-- FBSTAT keeps the indices of the ring from entry to BANKED on (R311). -/
def State.fbKeepNow (s : State) (h : HF) : State :=
  let x := s.ring (fbRing h)
  s.updHost h fun y => { y with fbKeep := some (x.pi, x.doneI, x.fetch) }

/-- A stopped fallback ring becomes DISABLED (R359, R311). -/
def State.fbDisabled (s : State) (h : HF) : State :=
  let s := (s.dropCtx (fbRing h)).updRing (fbRing h) fun x => { x with st := .disabled, cause := 0, pend := false, waitSince := none }
  let s := s.updHost h fun x => { x with fbStop := false }
  if s.ctl.fbAct then s else s.fbKeepNow h

/-- FALLBACK_DISABLED (R359): the started descriptor has written its record. -/
def execFallbackDisabled (h : HF) (s : State) : Res :=
  if (s.host h).fbStop && s.drained (fbRing h) then .next (s.fbDisabled h) else .next s

/-- The upper word of FBSTAT: PI and DONE_I (Table 15-22). -/
def State.fbUpper (s : State) (h : HF) : W64 :=
  match (s.host h).fbKeep with
  | some (pi, doneI, _) => doneI ++ pi
  | none => (s.ring (fbRing h)).doneI ++ (s.ring (fbRing h)).pi

/-- The lower word of FBSTAT: the fetch position, ERR and STATE. -/
def State.fbLower (s : State) (h : HF) : W64 :=
  let x := s.host h
  let r := s.ring (fbRing h)
  let (fetch, st) := match x.fbKeep with
    | some (_, _, f) => (f, 0)
    | none => (r.fetch, r.st.code)
  fetch ++ (BitVec.ofNat 32 (4 * x.fbErr.toNat + st))

/-! ### The fallback scheduler (R310) -/

/-- The oldest descriptor of a fallback ring that may start now: it passed its pre-check. SIGNAL has its own row. -/
def State.fbStartable (s : State) (r : RingId) : Option Slot :=
  if s.held || s.edge.fbStopped then none
  else ((s.slotsOf r).find? fun d => !d.phase.begun).filter fun d =>
    d.phase == .checked && d.status == stDone && !d.isSignal && s.unitsOk (s.planned d) && s.orderOk r d

/-- A fallback ring from which one descriptor can be fetched: it has a doorbell, and nothing fetched. -/
def State.fbFetchable (s : State) (r : RingId) : Bool :=
  (s.ring r).pend && s.fetchable r && s.drained r && decide (s.nextFetch r ≠ (s.ring r).pi)

/-- Host function h has work for the fallback scheduler. -/
def State.fbWork (s : State) (h : HF) : Bool :=
  (s.fbStartable (fbRing h)).isSome || s.fbFetchable (fbRing h)

/-- The host function that the fallback scheduler serves next: the first after the last one served. -/
def State.fbNext (s : State) : Option HF :=
  ((List.range 16).map fun i => (Fin.ofNat 16 (s.sched.fbLast + 1 + i) : HF)).find? s.fbWork

/-- Serves host function h: starts its descriptor, or binds its ring to CXh and fetches one. -/
def State.fbServe (s : State) (h : HF) : State :=
  let r := fbRing h
  let s := { s with sched := { s.sched with fbLast := h.val } }
  match s.fbStartable r with
  | some d => (s.startSlot r d).bindWaiting
  | none =>
    let s := if (s.ctxOf r).isNone then s.bind h.val r else s
    s.issueFetch r 1

/-- FALLBACK_SCHEDULE (R310). -/
def execFallbackSchedule (s : State) : Res :=
  onPclk s fun _ =>
  if s.ctl.fbAct && s.fbWritable then
    match s.fbNext with
    | none => .next s
    | some h => .next (s.fbServe h)
  else .next s

end Sys2Proof.Machine
end

