-- ==== Sys2Proof/Machine/HostLife.lean ====
section
/-! DEFINITION. The life of a host function: the freeze and the grace wipe (R276, R299, R300), function-level reset (R360,
R371), the flush of rings (R277), leases (R299). -/

namespace Sys2Proof.Machine

/-- fclk counts per millisecond (R299). -/
def msFclk : Nat := 1200000

/-- 100 ms in fclk counts (R292). -/
def busyAfter : Nat := 100 * msFclk

/-! ### Leases -/

/-- Renews the lease of an active session (R291, R299). -/
def State.renew (s : State) (h : HF) : State :=
  if (s.host h).session = .active then s.updHost h fun x => { x with deadline := s.clk.fclk + x.lease * msFclk } else s

/-- Freezes a host function (R276, R299): its session is in grace from now on. -/
def State.freeze (s : State) (h : HF) : State :=
  (s.updHost h fun x => { x with
    session := if x.session = .active then .frozen else x.session
    frozenAt := if x.session = .active then some s.clk.fclk else x.frozenAt
    graceNow := if x.session = .active then x.grace else x.graceNow }).freezeRings h

/-- The deadline of an active session has passed (R299). -/
def State.leaseOver (s : State) (h : HF) (f : Nat) : Bool := (s.host h).session == .active && decide ((s.host h).deadline ≤ f)

/-- LEASE_CHECK of one host function, logged as 0x3003. -/
def State.expire (s : State) (h : HF) (f : Nat) : State :=
  if s.leaseOver h f then (s.logEntry .admin 0x3003 2 (some h) (s.host h).lease (s.startedOf h)).freeze h else s

/-- ADMIN acts: it runs, and the part has reached KINDLING (R305, Table 13-1). -/
def State.adminRuns (s : State) : Bool := s.compRuns .admin && !s.ctl.inReset

/-- LEASE_CHECK (R299): while ADMIN does not run, deadlines do not pass. -/
def execLeaseCheck (f : Nat) (s : State) : Res :=
  let s := s.atFclk f
  if s.adminRuns then .next ((List.finRange 16).foldl (fun s h => s.expire h s.clk.fclk) s) else .next s

/-! ### The wipe at the end of grace (R300) -/

/-- The contexts of a host function are released, but for those whose started descriptors still run or whose FLUSHED ones are still
to be recorded. -/
def State.releaseCtxs (s : State) (h : HF) : State :=
  let s := (s.ctxs.filter fun e => s.ringHost e.2.ring == h).foldl (fun s e =>
    s.keepSlots e.2.ring fun d => d.unpadded || (e.2.kept.map (·.idx)).contains d.idx) s
  let rs := ((s.fetches.map (·.r)).filter fun r => s.ringHost r == h && !(s.ring r).flushing).eraseDups
  let s := rs.foldl State.dropFetches s
  { s with ctxs := s.ctxs.filter fun e => !(s.ringHost e.2.ring == h && e.2.slots.isEmpty) }

/-- The slices forget a host function: its key-stream state but for that of a FLOOD that runs on (R277), its pattern-store entries, and the pools bound to it, of which those of a
descriptor that still runs stay bound. -/
def State.wipeSlices (s : State) (h : HF) : State :=
  let s := s.wipeShares ((s.allSlots.filter fun e => e.2.keyed && !e.2.phase.begun && s.ringHost e.1 == h).flatMap (·.2.slices)).eraseDups
  { s with slices := s.slices.map fun (e : Nat × Slice) =>
      (e.1, { e.2 with
        pstore := if e.2.pstoreHf = some h then [] else e.2.pstore
        pstoreHf := if e.2.pstoreHf = some h then none else e.2.pstoreHf
        pools := e.2.pools.map fun (k : Nat × Pool) =>
          ((k.1, if k.2.hf ≠ some h then k.2 else if k.2.user = none then {} else { k.2 with data := [] }) : Nat × Pool) }) }

/-- The flood checkpoints of the descriptors of a host function that have not started (R236, R300). -/
def State.dropCkpts (s : State) (h : HF) : State :=
  let stays (c : Checkpoint) : Bool := s.ringHost c.r != h || ((s.slotOf c.r c.p).any fun d => d.phase.active)
  { s with emb := { s.emb with ckpts := s.emb.ckpts.filter stays } }

/-- STATE 0 in every chain table that a host function owns. -/
def State.unloadChains (s : State) (h : HF) : State :=
  (List.range 256).foldl (fun s c =>
    if (s.chain c).state = 1 ∧ (s.chain c).owner = h.val then s.hsWrite (chainAddr c + 8) [0] else s) s

/-- Every ring of a host function is DISABLED, with its entry zeroed. -/
def State.disableRings (s : State) (h : HF) : State :=
  let s := (s.ringsOf h).foldl (fun s r => s.updRing r fun x => { x with
    st := .disabled, cause := 0, pend := x.flushing && x.pend, waitSince := if x.flushing then x.waitSince else none
    fetch := if x.flushing then x.fetch else x.pi }) s
  ((List.range 256).filter fun b => tget s.blocks b (Fin.ofNat 16 (b / 16)) == h).foldl
    (fun s b => s.hsZero (0x100_0000 + 8192 * b) 8192) s

/-- The wipe of R300 but for its step on the admin rings. -/
def State.wipeHost (s : State) (h : HF) : State :=
  let s := (s.dropCkpts h).wipeSlices h
  let s : State := { s with sync := s.sync.filter fun e => e.1 / 256 != h.val }
  let s : State := { s with
    xl := { s.xl with
      cache := (s.xl.cache.filter fun e => e.hf != h || !e.pins.isEmpty).map fun e => if e.hf == h then { e with ending := true } else e
      absent := s.xl.absent.filter fun x => x.hf != h }
    keysets := s.keysets.filter fun k => k.2.2 != h }
  ((s.releaseCtxs h).unloadChains h).disableRings h

/-! ### Flushing (R277) -/

/-- Every descriptor that has been fetched and has not started is FLUSHED, and completes as one that ends without a start (R277,
R278). -/
def State.flushFetched (s : State) (r : RingId) : State :=
  let s := ((s.slotsOf r).filter fun d => !d.phase.begun).foldl (fun s d => s.release r d) s
  s.updCtx r fun c => { c with
    members := [], resident := c.resident.filter fun y => c.slots.any fun d => d.phase.begun && d.chain == y.chain
    slots := c.slots.map fun d => if d.phase.begun then d else d.flushed }

/-- A ring becomes DISABLED and its flush begins: what has been fetched and has not started is FLUSHED at once, what remains up to
PI as it is fetched (R277, R255; DEDUCED, log 39). -/
def State.flushRing (s : State) (r : RingId) : State :=
  let x := s.ring r
  if x.stopped then s.updRing r fun x => { x with st := .disabled, cause := 0, pend := false, waitSince := none }
  else ((s.dropFetches r).flushFetched r).updRing r fun x => { x with
    st := .disabled, cause := 0, flushing := x.doneI != x.pi, pend := x.fetch != x.pi
    waitSince := if x.fetch != x.pi && (s.ctxOf r).isNone then some s.clk.fclk else none }

/-- The rings of a host function that are not DISABLED. -/
def State.liveRings (s : State) (h : HF) : List RingId := (s.ringsOf h).filter fun r => (s.ring r).st != .disabled

/-- Flushes rings and disables them (R277). -/
def State.flushRings (s : State) (rs : List RingId) : State := rs.foldl State.flushRing s

/-! ### Function-level reset -/

/-- FLR_HF (R276, R310, R371): a second pulse before flr_done merges with the first. Before KINDLING only the fallback ring is stopped,
and the record that it still writes carries HOST_FROZEN. -/
def State.flr (s : State) (h : HF) : State :=
  let up := s.ctl.stage == .kindling || s.ctl.stage == .banked
  let s := if up then s.logEntry .admin 0x3004 2 (some h) 0 (s.startedOf h) else s
  let s := if s.fbWritable then s.fbStop h else s
  let s := if up then s.freeze h else s
  s.updHost h fun x => { x with flrBusy := true, freezing := x.freezing || s.ctl.stage == .tinder }

/-- FLR_HF. -/
def execFlrHf (h : HF) (f : Nat) (s : State) : Res :=
  let s := s.atFclk f
  if s.ctl.inReset || s.ctl.stage == .reset || (s.host h).flrBusy then .next s else .next (s.flr h)

/-- The registers of the set-up page that a function-level reset sets (R360). -/
def HostFn.flrReset (x : HostFn) : HostFn :=
  { x with
    vecs := x.vecs.map fun (e : Nat × EvVec) => (e.1, { e.2 with mask := true, pend := false })
    gevt := 0, gevten := 0, gvec := 0, areq := [], ovf := false, rspOut := x.rspIn, avec := none, fbent := [], flrBusy := false
    freezing := x.freezing && (x.session == .active || x.session == .frozen) }

/-- Every started descriptor of the host function has written its record, and in a lifecycle transition every one (R276, R322,
R371). -/
def State.flrReady (s : State) (h : HF) : Bool :=
  (s.host h).flrBusy && s.unfinishedOf h == 0 && (s.ctl.xfer.isNone || s.workDone)

/-- FLR_DONE (R360, R371). -/
def execFlrDone (h : HF) (s : State) : Res :=
  if s.flrReady h then .next ((s.updHost h HostFn.flrReset).emit (.flrDone h)) else .next s

end Sys2Proof.Machine
end

