-- ==== Sys2Proof/Machine/Admin.lean ====
section
/-! DEFINITION. The admin channel (R291 to R293): submission, taking a request, the common checks, responses. -/

namespace Sys2Proof.Machine

/-! ### Registers (R291, R358) -/

/-- The 64 staged bytes (Table 15-21). -/
def HostFn.staged (x : HostFn) : List Byte := (List.range 8).flatMap fun k => natLe (tget x.areq k 0).toNat 8

/-- Requests that ADMIN has not taken. -/
def HostFn.untaken (x : HostFn) : Nat := x.api - x.taken

/-- Responses that wait (Table 15-21). -/
def HostFn.rspw (x : HostFn) : Nat := x.rspIn - x.rspOut

/-- Address of request slot i and response slot i of a host function (Table 12-2). -/
def reqSlot (h : HF) (i : Nat) : Nat := h.val * 0x2000 + 64 * (i % 64)
def rspSlot (h : HF) (i : Nat) : Nat := h.val * 0x2000 + 0x1000 + 64 * (i % 64)

/-- A submission in KINDLING or BANKED (R291). -/
def State.submit (s : State) (h : HF) : State :=
  let x := s.host h
  let s :=
    if 64 ≤ x.untaken then s.updHost h fun x => { x with ovf := true }
    else (s.hsWrite (reqSlot h x.api) x.staged).updHost h fun x => { x with api := x.api + 1 }
  s.renew h

/-- A submission is not discarded: KINDLING or BANKED (13, Kindling; R314). -/
def State.submits (s : State) : Bool := s.ctl.stage == .kindling || s.ctl.stage == .banked

/-- ASUB (R291): in TINDER and QUENCHED a submission is discarded. -/
def execAsub (tag page : HF) (f : Nat) (s : State) : Res :=
  let s := s.atFclk f
  if s.writes (.host tag) (.host page) && s.submits then .next (s.submit page) else .next s

/-- Releases the oldest waiting response (R358). -/
def State.popResponse (s : State) (h : HF) : State :=
  s.updHost h fun x => if x.rspOut < x.rspIn then { x with rspOut := x.rspOut + 1 } else x

/-- APOP (R358). -/
def execApop (tag page : HF) (s : State) : Res :=
  if s.writes (.host tag) (.host page) then .next (s.popResponse page) else .next s

/-! ### Requests and responses (Table 12-5) -/

def rqType (q : List Byte) : Nat := byteAt q 0
def rqXf (q : List Byte) : Bool := bit (byteAt q 1) 0

/-- The header of a request is well formed (Table 12-5, R293); XF only where Table 12-7 gives it a meaning. -/
def headerOk (q : List Byte) (xf : Bool) : Bool :=
  bits (byteAt q 1) 1 7 == 0 && (xf || !rqXf q) && zeroAt q 4 4

/-- Every payload byte outside the fields `used` (offset, length) is 0. -/
def payloadOk (q : List Byte) (used : List (Nat × Nat)) : Bool :=
  (List.range 64).all fun i => decide (i < 8) || (used.any fun u => decide (u.1 ≤ i) && decide (i < u.1 + u.2)) || byteAt q i == 0

/-- The 64 bytes of a response. -/
def responseBytes (q : List Byte) (result : Nat) (payload : List Byte) : List Byte :=
  natLe (rqType q) 1 ++ [0x80] ++ (q.drop 2).take 2 ++ natLe result 2 ++ [0, 0] ++ padTo 56 payload

/-- Writes a response and signals AVEC (R292). -/
def State.respondTo (s : State) (h : HF) (q : List Byte) (result : Nat) (payload : List Byte) : State :=
  let s := (s.hsWrite (rspSlot h (s.host h).rspIn) (responseBytes q result payload)).updHost h fun x => { x with rspIn := x.rspIn + 1 }
  match (s.host h).avec with
  | some v => s.signalVec h v.val
  | none => s

/-- What ADMIN makes of a request: an answer with the state that goes with it, or a wait (R292). -/
inductive Served where
  | answer (s : State) (result : Nat) (payload : List Byte)
  | wait (s : State)

/-- An answer that changes nothing. -/
def refuse (s : State) (result : Nat) : Served := .answer s result []

/-- Applies what ADMIN made of request q of host function h, taken at fclk count f. -/
def settle (h : HF) (q : List Byte) (since : Nat) (x : Served) : State :=
  match x with
  | .answer s' result payload => (s'.updHost h fun x => { x with cur := none }).respondTo h q result payload
  | .wait s' => s'.updHost h fun x => { x with cur := some { req := q, since := since } }

/-- ADMIN can take a request from a host function: it serves one at a time, and none while 64 responses wait (R292, R358). -/
def HostFn.takeable (x : HostFn) : Bool := x.cur.isNone && decide (x.taken < x.api) && decide (x.rspw < 64)

/-- The host function that ADMIN serves next: the first that it can serve after the one that it served last (R292). -/
def State.adminNext (s : State) : Option HF :=
  ((List.range 16).map fun i => (Fin.ofNat 16 (s.fw.adminLast + 1 + i) : HF)).find? fun h => (s.host h).takeable

/-- The request that ADMIN takes next, when it is one of host function h. -/
def State.nextRequest (s : State) (h : HF) : Option (List Byte) :=
  if s.adminRuns && s.adminNext == some h then some (s.hsRead (reqSlot h (s.host h).taken) 64) else none

/-- Takes the next request of a host function out of its ring. -/
def State.take (s : State) (h : HF) : State :=
  { s with fw := { s.fw with adminLast := h.val } }.updHost h fun x => { x with taken := x.taken + 1 }

/-- Takes the next request of host function h when its TYPE is `ty` and it passes `also`, and serves it. -/
def State.takeRequest (s : State) (ty : Nat) (also : List Byte → Bool) (h : HF) (f : Nat) (serve : HF → List Byte → State → Served) :
    State :=
  let s := s.atFclk f
  match s.nextRequest h with
  | some q =>
    if rqType q = ty && also q then
      settle h q s.clk.fclk (serve h q (s.take h))
    else s
  | none => s

/-- The checks that every type but HELLO shares, in the order INVALID, NO_SESSION, DENIED (R293; log 20). -/
def checked (ok manager : Bool) (h : HF) (s : State) (k : Served) : Served :=
  if !ok then refuse s resInvalid
  else if (s.host h).session != .active then refuse s resNoSession
  else if manager && s.ctl.manager != some h then refuse s resDenied
  else k

/-! Fields of requests. -/
def rq8 (q : List Byte) (o : Nat) : Nat := byteAt q o
def rq16 (q : List Byte) (o : Nat) : Nat := field q o 2
def rq32 (q : List Byte) (o : Nat) : Nat := field q o 4
def rq64 (q : List Byte) (o : Nat) : Nat := field q o 8
def rqRing (q : List Byte) : RingId := Fin.ofNat 65536 (rq16 q 8)
def rqHost (q : List Byte) : HF := Fin.ofNat 16 (rq8 q 8)

/-- The grant that a GRANT_SET names. -/
def grantOf (q : List Byte) : Grant := { hf := rqHost q, stack := rq8 q 9, base := rq64 q 16, size := rq64 q 24 }

/-! ### Buffers in host memory (12, Buffers named by LOG_READ) -/

/-- The pages of an admin buffer of n bytes. -/
def State.bufferPages (s : State) (h : HF) (a n : Nat) : List XReq :=
  if n = 0 then [] else (pagesOf a (a + n - 1)).map fun p => ⟨h, (s.host h).pasid, p⟩

/-- Writes bytes to an admin buffer: they are written, or the buffer does not translate, or its pages are asked for. -/
def State.writeBuffer (s : State) (h : HF) (a : Nat) (bs : List Byte) (payload : List Byte) : Served :=
  let ps := s.bufferPages h a bs.length
  if (ps.any fun x => s.knownAbsent x.hf x.pasid x.iova && (s.translation x.hf x.pasid x.iova).isNone) then
    .answer (s.clearAbsent ps) resInvalid []
  else
    let needs := ps.filter fun x => (s.translation x.hf x.pasid x.iova).isNone
    if !needs.isEmpty then .wait (s.requestPages needs)
    else if (ps.any fun x => !((s.translation x.hf x.pasid x.iova).any fun t => t.write)) then refuse s resInvalid
    else
      let put (s' : State) (x : XReq) : State :=
        match s.translation x.hf x.pasid x.iova with
        | none => s'
        | some t =>
          let lo := max a x.iova
          s'.writeBytes 24 (t.phys + (lo - t.iova)) ((bs.drop (lo - a)).take (x.iova + 4096 - lo))
      .answer (ps.foldl put s) resOk payload

/-! ### Unknown types -/

/-- The types of Table 12-7. -/
def adminTypes : List Nat :=
  [0x01, 0x02, 0x03, 0x04, 0x05, 0x10, 0x11, 0x12, 0x13, 0x14, 0x20, 0x21, 0x22, 0x23, 0x30, 0x31, 0x38, 0x40, 0x41, 0x42, 0x43,
    0x44, 0x45, 0x46]

/-- ADMIN_INVALID_TYPE (R293). -/
def execAdminInvalidType (h : HF) (f : Nat) (s : State) : Res :=
  let s := s.atFclk f
  match s.nextRequest h with
  | some q =>
    if adminTypes.contains (rqType q) then .next s
    else .next ((s.take h).respondTo h q resInvalid [])
  | none => .next s

end Sys2Proof.Machine
end

