-- ==== Sys2Proof/Machine/AdminSession.lean ====
section
/-! DEFINITION. Sessions (R294, R297 to R301): HELLO, KEEPALIVE, GOODBYE, TIME_HINT, LEASE_SET, and the end of grace. -/

namespace Sys2Proof.Machine

/-! ### HELLO -/

/-- The running image's interface (Table 15-7). -/
def State.fmaj (s : State) : Nat := bits s.ctl.cap3.toNat 56 8
def State.fmin (s : State) : Nat := bits s.ctl.cap3.toNat 48 8

/-- PTU_CAP0 of a variant (R355). -/
def cap0 : Variant → W64
  | .ptu24S => 0x1844_9009
  | .ptu16S => 0x1044_600A
  | .ptu24 => 0x1844_9004

/-- Fields of a HELLO (Table 12-8). -/
def hAvec (q : List Byte) : Fin 64 := Fin.ofNat 64 (byteAt q 10)
def hLease (q : List Byte) : Nat := rq16 q 12
def hEpoch (q : List Byte) : W64 := BitVec.ofNat 64 (rq64 q 16)
def hPasid (q : List Byte) : Option (BitVec 20) := if bit (rq32 q 24) 31 then some (BitVec.ofNat 20 (rq32 q 24)) else none
/-- Driver interface, major × 256 + minor. -/
def hDriver (q : List Byte) : Nat := byteAt q 8 * 256 + byteAt q 9

/-- The fields are in range and the reserved bits are 0 (Table 12-8, R293). -/
def helloOk (q : List Byte) : Bool :=
  headerOk q true && payloadOk q [(8, 3), (12, 2), (16, 8), (24, 4)] && bits (byteAt q 10) 6 2 == 0 && bits (rq32 q 24) 20 11 == 0 &&
    decide (1 ≤ hLease q) && decide (hLease q ≤ 1000) && (rqXf q || rq64 q 16 == 0)

/-- A driver's interface is accepted (R297). -/
def State.versionOk (s : State) (q : List Byte) : Bool := byteAt q 8 == s.fmaj && decide (byteAt q 9 ≤ s.fmin)

/-- The payload of an accepted HELLO's response (Table 12-8). -/
def helloPayload (s : State) (h : HF) (q : List Byte) (resumed clean : Bool) (token : W64) : List Byte :=
  natLe s.fmaj 1 ++ natLe s.fmin 1 ++ natLe (resumed.toNat + 2 * clean.toNat + 4 * (s.ctl.manager == some h).toNat) 1 ++ [0] ++
    natLe (hLease q) 2 ++ [0, 0] ++ natLe token.toNat 8 ++ natLe (bits (cap0 s.part.variant).toNat 0 32) 4

/-- The session opens or resumes: lease, driver, AVEC, PASID and a new token (R292, R298, R299). -/
def State.openSession (s : State) (h : HF) (q : List Byte) (resumed clean : Bool) : Served :=
  let token : W64 := (Config.freeDraw s.clk.free).setWidth 64
  let s := s.useFree 1
  let s := s.updHost h fun x => { x with
    session := .active, lease := hLease q, deadline := s.clk.fclk + hLease q * msFclk, driver := hDriver q, epoch := token
    avec := some (hAvec q), pasid := hPasid q, frozenAt := none, freezing := false, tele := if resumed then x.tele else [] }
  let s := s.logEntry .admin 0x3001 1 (some h) (hDriver q) resumed.toNat
  .answer s resOk (helloPayload s h q resumed clean token)

/-- The rings of a resumed session become ENABLED where their freeze left them (R301). -/
def State.resumeRings (s : State) (h : HF) : State :=
  (s.ringsOf h).foldl (fun s r => s.updRing r fun x =>
    if x.st = .frozen then { x with st := .enabled, pend := x.fetch != x.pi, waitSince := if x.fetch != x.pi then some s.clk.fclk else none }
    else x) s

/-- Ends an active session as GOODBYE does (R294, R298). -/
def State.endSession (s : State) (h : HF) : State :=
  ((s.flushRings (s.liveRings h)).wipeHost h).updHost h fun x => { x with session := .none, lease := 0, frozenAt := none }

/-- The grace period of a frozen session is over (R300). -/
def State.graceOver (s : State) (h : HF) (f : Nat) : Bool :=
  let x := s.host h
  x.session == .frozen && match x.frozenAt with
    | some t => decide (t + x.graceNow * msFclk ≤ f)
    | none => false

/-- A session is frozen in its grace period; a lifecycle transition gives none (R300, R322). -/
def State.inGrace (s : State) (h : HF) (f : Nat) : Bool :=
  (s.host h).session == .frozen && (s.host h).frozenAt.isSome && !s.graceOver h f

/-- The requests of a host function that ADMIN has not taken. -/
def State.untakenRequests (s : State) (h : HF) : List (List Byte) :=
  (List.range (s.host h).untaken).map fun i => s.hsRead (reqSlot h ((s.host h).taken + i)) 64

/-- The answer to a request other than HELLO while there is no active session (R293). -/
def graceAnswer (q : List Byte) : Nat :=
  if adminTypes.contains (rqType q) && headerOk q (rqType q == 0x12 || rqType q == 0x20) then resNoSession else resInvalid

/-- The requests qs, which ADMIN has not taken, are answered, and every response is discarded (R300). -/
def State.flushAdmin (s : State) (h : HF) (qs : List (List Byte)) : State :=
  let s := match (s.host h).cur with
    | some w =>
      let s := (s.updHost h fun x => { x with cur := none }).respondTo h w.req resNoSession []
      if rqType w.req = 0x40 then { s with zeroing := s.zeroing.erase (grantOf w.req) } else s
    | none => s
  let s := qs.foldl (fun s q => s.respondTo h q (graceAnswer q) []) s
  s.updHost h fun x => { x with taken := x.taken + qs.length, rspOut := x.rspIn }

/-- The end of grace (R300, 0x3005), before which the requests qs are answered. -/
def State.endGrace (s : State) (h : HF) (qs : List (List Byte)) : State :=
  let s := s.logEntry .admin 0x3005 1 (some h) (s.host h).graceNow 0
  ((s.flushAdmin h qs).wipeHost h).updHost h fun x => { x with session := .none, lease := 0, frozenAt := none }

/-- A host epoch token can be drawn from Ember's DRBG through KEYS (R298). -/
def State.tokenReady (s : State) : Bool := s.compRuns .keys && !s.emb.isolated

/-- HELLO with an accepted version (R297, R298, R301): it waits while no token can be drawn. -/
def helloAccepted (h : HF) (q : List Byte) (s : State) : Served :=
  let x := s.host h
  if x.session = .frozen && rqXf q && s.inGrace h s.clk.fclk && hEpoch q != x.epoch then refuse s resInvalid
  else if !s.tokenReady then .wait s
  else if x.session = .active then (s.endSession h).openSession h q false true
  else if x.session = .frozen then
    if rqXf q && s.inGrace h s.clk.fclk then (s.resumeRings h).openSession h q true false
    else if s.graceOver h s.clk.fclk then (s.endGrace h []).openSession h q false true
    else (s.wipeHost h).openSession h q false true
  else s.openSession h q false (rqXf q)

/-- A refused HELLO (R297): SESSION reads 3 where there was no session. -/
def helloRefused (h : HF) (q : List Byte) (s : State) : Served :=
  let s := s.logEntry .admin 0x3002 2 (some h) (hDriver q) (s.fmaj * 256 + s.fmin)
  let s := s.updHost h fun x => { x with session := if x.session = .none then .refused else x.session }
  .answer s resRefused (natLe s.fmaj 1 ++ natLe s.fmin 1)

def serveHello (h : HF) (q : List Byte) (s : State) : Served :=
  if !helloOk q then refuse s resInvalid
  else if s.versionOk q then helloAccepted h q s
  else helloRefused h q s

/-- HELLO (R297, R298, R301). -/
def execHello (h : HF) (f : Nat) (s : State) : Res := .next (s.takeRequest 0x01 (fun _ => true) h f serveHello)

/-! ### KEEPALIVE, GOODBYE, TIME_HINT, LEASE_SET -/

def serveKeepalive (h : HF) (q : List Byte) (s : State) : Served :=
  checked (headerOk q false && payloadOk q []) false h s (.answer (s.renew h) resOk [])

/-- KEEPALIVE (R294). -/
def execKeepalive (h : HF) (f : Nat) (s : State) : Res := .next (s.takeRequest 0x02 (fun _ => true) h f serveKeepalive)

def serveGoodbye (h : HF) (q : List Byte) (s : State) : Served :=
  checked (headerOk q false && payloadOk q []) false h s
    (.answer (s.endSession h) resOk [])

/-- GOODBYE (R294, R277, R300). -/
def execGoodbye (h : HF) (f : Nat) (s : State) : Res := .next (s.takeRequest 0x03 (fun _ => true) h f serveGoodbye)

/-- Records a TIME_HINT (R325): the first one after a reset dates the records that LEDGER still holds. -/
def State.timeHint (s : State) (utc : Nat) : State :=
  let hint := (utc, s.clk.fclk)
  let s : State := if s.log.hint.isSome then s else
    { s with led := { s.led with held := s.led.held.map fun x => { x with date := utcAt hint x.fclk } } }
  { s with log := { s.log with hint := some hint } }.logEntry .admin 0x3008 0 none utc s.clk.fclk

def serveTimeHint (h : HF) (q : List Byte) (s : State) : Served :=
  checked (headerOk q false && payloadOk q [(8, 8)]) false h s (.answer (s.timeHint (rq64 q 8)) resOk [])

/-- TIME_HINT (R325). -/
def execTimeHint (h : HF) (f : Nat) (s : State) : Res := .next (s.takeRequest 0x04 (fun _ => true) h f serveTimeHint)

def serveLeaseSet (h : HF) (q : List Byte) (s : State) : Served :=
  checked (headerOk q false && payloadOk q [(8, 2)] && decide (1 ≤ rq16 q 8) && decide (rq16 q 8 ≤ 1000)) false h s
    (.answer (s.updHost h fun x => { x with lease := rq16 q 8, deadline := s.clk.fclk + rq16 q 8 * msFclk }) resOk [])

/-- LEASE_SET (R294). -/
def execLeaseSet (h : HF) (f : Nat) (s : State) : Res := .next (s.takeRequest 0x05 (fun _ => true) h f serveLeaseSet)

/-! ### GRACE_END -/

/-- GRACE_END (R300). A HELLO among the requests, and what follows it, is answered by its own row after the wipe, which leaves no
session (R293; DESIGN CHOICE, log 95). -/
def execGraceEnd (h : HF) (f : Nat) (s : State) : Res :=
  let s := s.atFclk f
  if s.adminRuns && s.graceOver h s.clk.fclk then
    .next (s.endGrace h ((s.untakenRequests h).takeWhile fun q => rqType q != 0x01))
  else .next s

end Sys2Proof.Machine
end

