-- ==== Sys2Proof/Machine/AdminRings.lean ====
section
/-! DEFINITION. Admin requests on rings, sync counters, chains, key sets, the log and telemetry (R45, R247 to R250, R277,
R294, R296, R302, R349). -/

namespace Sys2Proof.Machine

/-! ### Rings -/

/-- The entry of a ring in the ring table. -/
def State.tableEntryOf (s : State) (r : RingId) : List Byte := s.hsRead (ringTableAddr r) 32

/-- A request on a ring that the host function does not own is DENIED. -/
def owned (h : HF) (q : List Byte) (s : State) (k : Served) : Served :=
  if s.ringOwner (rqRing q) = h then k else refuse s resDenied

def serveRingSetup (h : HF) (q : List Byte) (s : State) : Served :=
  let r := rqRing q
  let b := (q.drop 32).take 32
  checked (headerOk q false && payloadOk q [(8, 2), (32, 32)]) false h s
    (owned h q s
      (if s.isFallback r then refuse s resBusy
       else if (s.ring r).st != .disabled || !s.entryOk h (parseRingEntry b) then refuse s resInvalid
       else .answer (s.hsWrite (ringTableAddr r) b) resOk []))

/-- RING_SETUP (R248, R249). In KINDLING the fallback ring is BUSY (13). -/
def execRingSetup (h : HF) (f : Nat) (s : State) : Res := .next (s.takeRequest 0x10 (fun _ => true) h f serveRingSetup)

def serveRingEnable (h : HF) (q : List Byte) (s : State) : Served :=
  let r := rqRing q
  let b := s.tableEntryOf r
  checked (headerOk q false && payloadOk q [(8, 2), (12, 4)]) false h s
    (owned h q s
      (if (s.ring r).st != .disabled || leNat b == 0 then refuse s resInvalid
       else if !s.drained r || (s.ring r).flushing then .wait s
       else .answer (s.enableRing r b (BitVec.ofNat 32 (rq32 q 12))) resOk []))

/-- RING_ENABLE (R250). A ring whose started descriptors still run, or whose flush goes on, from an earlier use waits for them (log
21). -/
def execRingEnable (h : HF) (f : Nat) (s : State) : Res := .next (s.takeRequest 0x11 (fun _ => true) h f serveRingEnable)

/-- Every descriptor that FLUSH = 0 waits for has its record, or on a ring that writes no more, has finished. -/
def State.disableReady (s : State) (r : RingId) : Bool :=
  let x := s.ring r
  if x.stopped then s.drained r else x.doneI == x.pi

/-- A ring becomes DISABLED. -/
def State.disableRing (s : State) (r : RingId) : State :=
  s.updRing r fun x => { x with st := .disabled, cause := 0, pend := false, waitSince := none }

def serveRingDisable (h : HF) (q : List Byte) (s : State) : Served :=
  let r := rqRing q
  checked (headerOk q true && payloadOk q [(8, 2)]) false h s
    (owned h q s
      (if (s.ring r).st = .disabled then .answer s resOk []
       else if rqXf q then .answer (s.flushRing r) resOk []
       else if s.disableReady r then .answer (s.disableRing r) resOk []
       else .wait s))

/-- RING_DISABLE (R250, R277, R292). -/
def execRingDisable (h : HF) (f : Nat) (s : State) : Res := .next (s.takeRequest 0x12 (fun _ => true) h f serveRingDisable)

/-- State, ERROR cause and indices of a ring (Table 12-7). -/
def ringInfo (x : Ring) : List Byte :=
  natLe x.st.code 1 ++ natLe x.cause 1 ++ [0, 0] ++ natLe x.pi.toNat 4 ++ natLe x.doneI.toNat 4 ++ natLe x.fetch.toNat 4

def serveRingQuery (h : HF) (q : List Byte) (s : State) : Served :=
  checked (headerOk q false && payloadOk q [(8, 2)]) false h s (owned h q s (.answer s resOk (ringInfo (s.ring (rqRing q)))))

/-- RING_QUERY (R294). -/
def execRingQuery (h : HF) (f : Nat) (s : State) : Res := .next (s.takeRequest 0x13 (fun _ => true) h f serveRingQuery)

/-! ### SYNC_RESET -/

/-- Zeroes counters of a host function. -/
def State.syncReset (s : State) (h : HF) (first n : Nat) : State :=
  { s with sync := s.sync.filter fun e => !(decide (h.val * 256 + first ≤ e.1) && decide (e.1 < h.val * 256 + first + n)) }

def serveSyncReset (h : HF) (q : List Byte) (s : State) : Served :=
  checked (headerOk q false && payloadOk q [(8, 2)] && decide (rq8 q 8 + rq8 q 9 ≤ 255)) false h s
    (.answer (s.syncReset h (rq8 q 8) (rq8 q 9 + 1)) resOk [])

/-- SYNC_RESET (R294). -/
def execSyncReset (h : HF) (f : Nat) (s : State) : Res := .next (s.takeRequest 0x14 (fun _ => true) h f serveSyncReset)

/-! ### Chains (R45) -/

/-- The fields of a chain header that firmware checks (Table 02-6): all but STATE and OWNER. -/
def chainHeaderOk (b : List Byte) : Bool :=
  decide (1 ≤ byteAt b 0) && decide (byteAt b 0 ≤ 64) && decide (byteAt b 1 ≤ 32) && decide (byteAt b 1 ≤ byteAt b 0) &&
    decide (10 ≤ byteAt b 2) && decide (byteAt b 2 ≤ 18) && zeroAt b 9 55

/-- The fields of modulus entry i (Table 02-7). -/
def modulusOk (hd : List Byte) (i : Nat) (b : List Byte) : Bool :=
  let q := field b 0 8
  q % 2 == 1 && decide (20 ≤ bitLen q) && decide (bitLen q ≤ 61) && field b 8 8 == (2 ^ 64 - invPow2 64 q) % 2 ^ 64 &&
    field b 16 8 == 2 ^ 128 % q && field b 24 16 == 2 ^ 128 / q && byteAt b 40 == bitLen q &&
    byteAt b 41 == (if i < byteAt hd 0 - byteAt hd 1 then 0 else 1) && zeroAt b 42 22

/-- A chain image of host function h at a location of R260; what a descriptor is still to define is undefined (R34). -/
def State.chainImage (s : State) (stack addr : Nat) : List Byte :=
  s.readSettled stack addr (64 + 64 * byteAt (s.readSettled stack addr 1) 0)

/-- The image lies in a grant of the host function and every field but STATE and OWNER is right. -/
def State.chainImageOk (s : State) (h : HF) (stack addr : Nat) : Bool :=
  let b := s.chainImage stack addr
  s.locOk h stack addr 64 && s.locOk h stack addr b.length && !s.poisoned stack addr b.length && chainHeaderOk b &&
    (List.range (byteAt b 0)).all fun i => modulusOk b i ((b.drop (64 + 64 * i)).take 64)

/-- The chains that a descriptor in flight names: one that has not been pre-checked names those of the cards and structures
that it points to (R45). -/
def State.chainsNamed (s : State) (d : Slot) : List Nat :=
  match opOf d.bytes with
  | none => []
  | some op => (if d.snapped then d else s.readTables op [] d).chains

/-- A descriptor in flight names chain c, or a resident chain uses it: one that keeps an operand made with c, or that rebuilds it when it
is lost (R45, R267). -/
def State.chainInUse (s : State) (c : Nat) : Bool :=
  (s.allSlots.any fun e => (s.chainsNamed e.2).contains c) || s.ctxs.any fun e =>
    (e.2.resident.any fun x => x.uses.contains c) || e.2.done.any fun d => !d.keeps.isEmpty && d.chains.contains c

/-- A host function may replace chain c: it is empty or its own, or the manager loads with GLOBAL (R45). -/
def State.mayLoad (s : State) (h : HF) (c : Nat) (glob : Bool) : Bool :=
  if glob then s.ctl.manager == some h else (s.chain c).state != 1 || (s.chain c).owner == h.val

/-- Writes a chain, with STATE 1 and its OWNER. -/
def State.loadChain (s : State) (c : Nat) (b : List Byte) (owner : Nat) : State :=
  s.hsWrite (chainAddr c) (setBytes (setBytes b 3 (natLe owner 1)) 8 [1])

def serveChainLoad (h : HF) (q : List Byte) (s : State) : Served :=
  let c := rq8 q 8
  let w := rq64 q 16
  let stack := bits w 40 5
  let addr := bits w 0 40
  checked (headerOk q true && payloadOk q [(8, 1), (16, 8)] && bits w 45 19 == 0) false h s
    (if !s.mayLoad h c (rqXf q) then refuse s resDenied
     else if !s.chainImageOk h stack addr then refuse s resInvalid
     else if s.chainInUse c then .wait s
     else .answer (s.loadChain c (s.chainImage stack addr) (if rqXf q then 0xFF else h.val)) resOk [])

/-- CHAIN_LOAD (R45). -/
def execChainLoad (h : HF) (f : Nat) (s : State) : Res := .next (s.takeRequest 0x20 (fun _ => true) h f serveChainLoad)

/-- A host function may unload chain c (R45). -/
def State.mayUnload (s : State) (h : HF) (c : Nat) : Bool :=
  (s.chain c).state != 1 || (s.chain c).owner == h.val || ((s.chain c).owner == 0xFF && s.ctl.manager == some h)

def serveChainUnload (h : HF) (q : List Byte) (s : State) : Served :=
  let c := rq8 q 8
  checked (headerOk q false && payloadOk q [(8, 1)]) false h s
    (if !s.mayUnload h c then refuse s resDenied
     else if s.chainInUse c then .wait s
     else .answer (s.hsWrite (chainAddr c + 8) [0]) resOk [])

/-- CHAIN_UNLOAD (R45). -/
def execChainUnload (h : HF) (f : Nat) (s : State) : Res := .next (s.takeRequest 0x21 (fun _ => true) h f serveChainUnload)

/-! ### Key sets (R296) -/

/-- The entry of a key-set identifier. -/
def State.keyset (s : State) (id : W32) : Option (W32 × W16 × HF) := s.keysets.find? fun k => k.1 == id

def serveKeysetRegister (h : HF) (q : List Byte) (s : State) : Served :=
  let id := BitVec.ofNat 32 (rq32 q 8)
  checked (headerOk q false && payloadOk q [(8, 6)] && decide (rq16 q 12 ≤ 255)) false h s
    (match s.keyset id with
     | some k =>
       if k.2.2 = h then
         .answer { s with keysets := s.keysets.map fun x => if x.1 = id then (id, BitVec.ofNat 16 (rq16 q 12), h) else x } resOk []
       else refuse s resDenied
     | none =>
       if 4096 ≤ s.keysets.length then refuse s resNoResource
       else .answer { s with keysets := s.keysets ++ [(id, BitVec.ofNat 16 (rq16 q 12), h)] } resOk [])

/-- KEYSET_REGISTER (R294, R296). -/
def execKeysetRegister (h : HF) (f : Nat) (s : State) : Res := .next (s.takeRequest 0x22 (fun _ => true) h f serveKeysetRegister)

def serveKeysetRelease (h : HF) (q : List Byte) (s : State) : Served :=
  let id := BitVec.ofNat 32 (rq32 q 8)
  checked (headerOk q false && payloadOk q [(8, 4)]) false h s
    (if ((s.keyset id).any fun k => k.2.2 == h) then .answer { s with keysets := s.keysets.filter fun k => k.1 != id } resOk []
     else refuse s resDenied)

/-- KEYSET_RELEASE (R294). -/
def execKeysetRelease (h : HF) (f : Nat) (s : State) : Res := .next (s.takeRequest 0x23 (fun _ => true) h f serveKeysetRelease)

/-! ### LOG_READ (R302) -/

/-- A log entry is in a host function's view. -/
def inView (h : HF) (b : List Byte) : Bool := bit (byteAt b 11) 0 || bits (byteAt b 10) 0 4 == h.val

/-- The oldest SEQ that the log ring still holds. -/
def Log.oldest (l : Log) : Nat := l.seq - logEntries

/-- Entries of a host function's view from SEQ n on, at most `max` of them, with their SEQ. -/
def State.logView (s : State) (h : HF) (n : Nat) : Nat → Nat → List (Nat × List Byte)
  | 0, _ => []
  | _, 0 => []
  | fuel + 1, max + 1 =>
    if s.log.seq ≤ n then []
    else
      let b := s.hsRead (logBase + 32 * (n % logEntries)) 32
      if inView h b then (n, b) :: s.logView h (n + 1) fuel max else s.logView h (n + 1) fuel (max + 1)

/-- LOST: entries of the view overwritten from SEQ `first` on. -/
def State.logLost (s : State) (h : HF) (first : Nat) : Nat :=
  (s.log.overwritten.filter fun e => decide (first ≤ e.1) && (e.2 == 16 || e.2 == h.val)).length

def serveLogRead (h : HF) (q : List Byte) (s : State) : Served :=
  let first := rq32 q 8
  let max := rq16 q 16
  let es := s.logView h (Nat.max first s.log.oldest) logEntries max
  let next := if es.length = max then (es.getLast?.map (·.1 + 1)).getD s.log.seq else s.log.seq
  checked (headerOk q false && payloadOk q [(8, 4), (16, 2), (24, 8)] && decide (1 ≤ max) && decide (max ≤ 4096)) false h s
    (s.writeBuffer h (rq64 q 24) (es.flatMap (·.2)) (natLe es.length 2 ++ [0, 0] ++ natLe next 4 ++ natLe (s.logLost h first) 4))

/-- LOG_READ (R302). -/
def execLogRead (h : HF) (f : Nat) (s : State) : Res := .next (s.takeRequest 0x30 (fun _ => true) h f serveLogRead)

/-! ### TELEMETRY_READ (R349) -/

/-- A bit for each number of a list. -/
def bitsOf (l : List Nat) : Nat := sumOf (l.map fun i => 2 ^ i)

/-- The fenced slices, and the orphaned stacks and cross-stack work. -/
def State.fencedMask (s : State) : Nat := bitsOf ((List.range s.nslices).filter fun n => (tget s.slices n {}).fenced)
def State.orphanMask (s : State) : Nat := bitsOf s.orphans
def State.xorph (s : State) : Bool := s.flue.fenced == 15

/-- The 4096 bytes of a page (Table 14-7). -/
def State.telemetryPage (s : State) (h : HF) (page : Nat) : List Byte :=
  if page = 0 then (List.range 512).flatMap fun k => natLe (tget (s.host h).tele k 0) 8
  else
    natLe s.fencedMask 4 ++ natLe (s.orphanMask + 2 ^ 31 * s.xorph.toNat) 4 ++ natLe s.flue.fenced.toNat 1 ++
      natLe s.hl.qfenced.toNat 1 ++ List.replicate 6 0 ++ (List.range 510).flatMap fun k => natLe (tget s.hl.tele (k + 2) 0) 8

def serveTelemetryRead (h : HF) (q : List Byte) (s : State) : Served :=
  checked (headerOk q false && payloadOk q [(8, 1), (24, 8)] && decide (rq8 q 8 ≤ 1)) false h s
    (s.writeBuffer h (rq64 q 24) (s.telemetryPage h (rq8 q 8)) [])

/-- TELEMETRY_READ (R349). -/
def execTelemetryRead (h : HF) (f : Nat) (s : State) : Res := .next (s.takeRequest 0x31 (fun _ => true) h f serveTelemetryRead)

end Sys2Proof.Machine
end

