-- ==== Sys2Proof/Machine/AdminManager.lean ====
section
/-! DEFINITION. The admin requests of the manager (R229, R247, R294, R295, R300): grants, block moves, scheduling,
reservations, grace, queries. -/

namespace Sys2Proof.Machine

/-- A host function number in range. -/
def hostOk (q : List Byte) (o : Nat) : Bool := decide (byteAt q o < 16)

/-! ### Grants -/

/-- Two grants share a byte. -/
def Grant.meets (a b : Grant) : Bool :=
  a.stack == b.stack && decide (a.base < b.base + b.size) && decide (b.base < a.base + a.size)

/-- The rules of R31 for a grant, and no overlap with another (Table 12-7). -/
def State.grantOk (s : State) (g : Grant) : Bool :=
  decide (0 < g.size) && g.base % 0x20_0000 == 0 && g.size % 0x20_0000 == 0 && decide (g.base + g.size ≤ s.part.capacity) && !meetsHearthstone g.stack g.base g.size &&
    !((s.grants ++ s.zeroing).any g.meets)

/-- The grants of a host function on a stack are at their limit of 64 (Table 12-2, Table 12-7). -/
def State.grantsFull (s : State) (g : Grant) : Bool :=
  decide (64 ≤ ((s.grants ++ s.zeroing).filter fun x => x.hf == g.hf && x.stack == g.stack).length)

/-- The ranges of a grant that other host functions have held since power-on (R295). -/
def State.foreignHeld (s : State) (g : Grant) : List (Nat × Nat) :=
  (s.heldBy.filter fun x => x.hf != g.hf && x.meets g).map fun x =>
    let lo := max x.base g.base
    (lo, min (x.base + x.size) (g.base + g.size) - lo)

/-- A grant takes effect, logged as 0x3007. -/
def State.applyGrant (s : State) (g : Grant) : State :=
  ({ s with grants := s.grants ++ [g], heldBy := if s.heldBy.contains g then s.heldBy else s.heldBy ++ [g] } : State).logEntry
    .admin 0x3007 1 (some g.hf) (g.stack * 2 ^ 40 + g.base) g.size

def serveGrantSet (h : HF) (q : List Byte) (s : State) : Served :=
  let g := grantOf q
  checked (headerOk q false && payloadOk q [(8, 2), (16, 16)] && hostOk q 8 && decide (g.stack < s.nslices)) true h s
    (if !s.grantOk g then refuse s resInvalid
     else if s.grantsFull g then refuse s resNoResource
     else if (s.foreignHeld g).isEmpty then .answer (s.applyGrant g) resOk []
     else .wait { s with zeroing := s.zeroing ++ [g] })

/-- GRANT_SET (R31, R295). -/
def execGrantSet (h : HF) (f : Nat) (s : State) : Res := .next (s.takeRequest 0x40 (fun _ => true) h f serveGrantSet)

/-- The zeroing of a grant is complete: every byte that another host function held is 0, and the grant takes effect. -/
def State.grantZeroed (s : State) (g : Grant) : State :=
  let z := s.foreignHeld g
  let s : State := { s with zeroing := s.zeroing.erase g }
  (z.foldl (fun (s : State) x => s.zeroRange g.stack x.1 x.2) s).applyGrant g

/-- GRANT_ZEROED (R295): the waiting GRANT_SET of host function h is answered. -/
def execGrantZeroed (h : HF) (f : Nat) (s : State) : Res :=
  let s := s.atFclk f
  match (s.host h).cur with
  | some w =>
    if s.adminRuns && rqType w.req == 0x40 && s.zeroing.contains (grantOf w.req) && decide (s.clk.fclk ≤ w.since + busyAfter) then
      .next (settle h w.req w.since (.answer (s.grantZeroed (grantOf w.req)) resOk []))
    else .next s
  | none => .next s

/-- A host function has a fetched or started descriptor (Table 12-7). -/
def State.hasWork (s : State) (h : HF) : Bool :=
  (s.allSlots.any fun e => s.ringHost e.1 == h) || s.fetches.any fun f => s.ringHost f.r == h

def serveGrantClear (h : HF) (q : List Byte) (s : State) : Served :=
  let g := rqHost q
  checked (headerOk q false && payloadOk q [(8, 2), (16, 8)] && hostOk q 8 && decide (rq8 q 9 < s.nslices)) true h s
    (match s.grants.find? fun x => x.hf == g && x.stack == rq8 q 9 && x.base == rq64 q 16 with
     | none => refuse s resInvalid
     | some x =>
       if s.hasWork g then refuse s resBusy
       else .answer (({ s with grants := s.grants.erase x } : State).logEntry .admin 0x3007 1 (some g) (x.stack * 2 ^ 40 + x.base) 0)
         resOk [])

/-- GRANT_CLEAR (R294, R295): the memory keeps its contents. -/
def execGrantClear (h : HF) (f : Nat) (s : State) : Res := .next (s.takeRequest 0x41 (fun _ => true) h f serveGrantClear)

/-! ### BLOCK_MOVE -/

/-- Every ring of a block is DISABLED, with no descriptor left (R247). -/
def State.blockIdle (s : State) (b : Nat) : Bool :=
  (s.rings.all fun e => e.1 / 256 != b || (e.2.st == .disabled && !e.2.flushing)) && s.ctxs.all fun e => e.2.ring.val / 256 != b || e.2.slots.isEmpty

def serveBlockMove (h : HF) (q : List Byte) (s : State) : Served :=
  checked (headerOk q false && payloadOk q [(8, 2)] && hostOk q 9) true h s
    (if s.blockIdle (rq8 q 8) then
       .answer { s with blocks := tput s.blocks (rq8 q 8) (Fin.ofNat 16 (rq8 q 9)) } resOk []
     else refuse s resBusy)

/-- BLOCK_MOVE (R247). -/
def execBlockMove (h : HF) (f : Nat) (s : State) : Res := .next (s.takeRequest 0x42 (fun _ => true) h f serveBlockMove)

/-! ### Scheduling -/

/-- Σ ⌈MINCTX/2⌉ with the MINCTX of host function g set to m (Table 12-7). -/
def State.minctxSum (s : State) (g : HF) (m : Nat) : Nat :=
  sumOf ((List.finRange 16).map fun h => ceilDiv (if h = g then m else (s.host h).minctx) 2)

def serveSchedSet (h : HF) (q : List Byte) (s : State) : Served :=
  let g := rqHost q
  checked (headerOk q false && payloadOk q [(8, 4)] && hostOk q 8 && decide (1 ≤ rq8 q 9) && decide (rq8 q 10 ≤ 16) &&
      decide (1 ≤ rq8 q 11) && decide (rq8 q 11 ≤ 192)) true h s
    (if 64 < s.minctxSum g (rq8 q 10) ∨ rq8 q 11 < rq8 q 10 then refuse s resInvalid
     else .answer (s.updHost g fun x => { x with wt := rq8 q 9, minctx := rq8 q 10, maxctx := rq8 q 11 }) resOk [])

/-- SCHED_SET (R284, R288). -/
def execSchedSet (h : HF) (f : Nat) (s : State) : Res := .next (s.takeRequest 0x43 (fun _ => true) h f serveSchedSet)

/-- The stacks of a SEALED_RESV. -/
def resvStacks (q : List Byte) : List Nat := onesOf 24 (field q 8 3)

/-- A number of shares: 0 to 2, or 0xFF to leave it. -/
def sharesOk (n : Nat) : Bool := decide (n ≤ 2) || n == 0xFF

/-- Shares of MSn after a request for n; a stack beside a fenced slice has at most one (R229). -/
def State.grantedShares (s : State) (m n : Nat) : Nat := if (tget s.slices m {}).fenced then min n 1 else n

/-- Started Sealed descriptors that hold a share of a memory. -/
def State.sharesHeld (s : State) (sp : Nat) : Nat := (s.sealedRunning.filter fun d => d.spaces.contains sp).length

/-- No started Sealed descriptor holds a share that the request removes. -/
def State.resvFree (s : State) (q : List Byte) : Bool :=
  (rq8 q 11 == 0xFF || (resvStacks q).all fun n => decide (s.sharesHeld n ≤ rq8 q 11)) &&
    (rq8 q 12 == 0xFF || decide (s.sharesHeld 24 ≤ rq8 q 12))

/-- Sets the reservations (R229). -/
def State.setResv (s : State) (q : List Byte) : State :=
  { s with sched := { s.sched with
      resv := if rq8 q 11 = 0xFF then s.sched.resv else
        (resvStacks q).foldl (fun t n => tput t n (s.grantedShares n (rq8 q 11))) s.sched.resv
      hresv := if rq8 q 12 = 0xFF then s.sched.hresv else rq8 q 12 } }

/-- In KINDLING some types are answered BUSY, before the manager's role is asked for (13). -/
def inBanked (ok manager : Bool) (h : HF) (s : State) (k : Served) : Served :=
  checked ok false h s
    (if s.ctl.stage != .banked then refuse s resBusy
     else if manager && s.ctl.manager != some h then refuse s resDenied
     else k)

def serveSealedResv (h : HF) (q : List Byte) (s : State) : Served :=
  inBanked (headerOk q false && payloadOk q [(8, 5)] && sharesOk (rq8 q 11) && sharesOk (rq8 q 12) &&
      (resvStacks q).all fun n => decide (n < s.nslices)) true h s
    (if s.resvFree q then .answer (s.setResv q) resOk [] else .wait s)

/-- SEALED_RESV (R229). -/
def execSealedResv (h : HF) (f : Nat) (s : State) : Res := .next (s.takeRequest 0x44 (fun _ => true) h f serveSealedResv)

/-! ### GRACE_SET and HOST_QUERY -/

def serveGraceSet (h : HF) (q : List Byte) (s : State) : Served :=
  checked (headerOk q false && payloadOk q [(8, 1), (12, 4)] && hostOk q 8 && decide (1000 ≤ rq32 q 12) &&
      decide (rq32 q 12 ≤ 3600000)) true h s
    (.answer (s.updHost (rqHost q) fun x => { x with grace := rq32 q 12 }) resOk [])

/-- GRACE_SET (R300). -/
def execGraceSet (h : HF) (f : Nat) (s : State) : Res := .next (s.takeRequest 0x45 (fun _ => true) h f serveGraceSet)

/-- Contexts bound to a host function's rings. -/
def State.boundCtxs (s : State) (h : HF) : Nat := (s.ctxs.filter fun e => s.ringHost e.2.ring == h).length

/-- The payload of a HOST_QUERY response (Table 12-7). -/
def State.hostInfo (s : State) (h : HF) : List Byte :=
  let x := s.host h
  natLe x.session.code 1 ++ natLe x.driver 2 ++ [0] ++ natLe x.lease 2 ++
    natLe (sat 8 (s.grants.filter fun g => g.hf == h).length) 1 ++ [0] ++ natLe (s.boundCtxs h) 4

def serveHostQuery (h : HF) (q : List Byte) (s : State) : Served :=
  checked (headerOk q false && payloadOk q [(8, 1)] && hostOk q 8) true h s (.answer s resOk (s.hostInfo (rqHost q)))

/-- HOST_QUERY (R294). -/
def execHostQuery (h : HF) (f : Nat) (s : State) : Res := .next (s.takeRequest 0x46 (fun _ => true) h f serveHostQuery)

end Sys2Proof.Machine
end

