-- ==== Sys2Proof/Machine/AdminTest.lean ====
section
/-! DEFINITION. TEST_REQUEST (R342 to R344): the in-service test, calibration, the offline self-test; and the end of waits
(R292). -/

namespace Sys2Proof.Machine

/-- The payload of a TEST_REQUEST response (Table 14-6). -/
def State.testInfo (s : State) (kind slice result items : Nat) : List Byte :=
  natLe kind 1 ++ natLe slice 1 ++ natLe result 1 ++ [0] ++ natLe items 4 ++ natLe s.fencedMask 4 ++ natLe s.flue.fenced.toNat 1

/-- Answers the TEST_REQUEST of host function h that waits, if it still does. -/
def State.answerTest (s : State) (h : HF) (kind slice result items : Nat) : State :=
  match (s.host h).cur with
  | some w => if rqType w.req = 0x38 then settle h w.req w.since (.answer s resOk (s.testInfo kind slice result items)) else s
  | none => s

/-- HEALTH and TEST both run. -/
def State.testersRun (s : State) : Bool := s.compRuns .health && s.compRuns .test && s.adminRuns

/-- The format of a TEST_REQUEST (Table 12-7). -/
def testReqOk (q : List Byte) (s : State) : Bool :=
  headerOk q false && payloadOk q [(8, 2)] && decide (1 ≤ rq8 q 8) && decide (rq8 q 8 ≤ 3) &&
    (if rq8 q 8 = 1 then decide (rq8 q 9 < s.nslices) else rq8 q 9 == 0)

/-! ### The in-service test (R342) -/

/-- Step 1: the request is refused; while a test runs, only one runs in the whole PTU. -/
def State.testRefused (s : State) (n : Nat) : Bool :=
  s.ctl.ist.isSome || s.ctl.ost.isSome || (tget s.slices n {}).fenced || (tget s.slices (s.buddy n) {}).fenced ||
    (tget s.slices ((n + s.nslices - 1) % s.nslices) {}).fenced

/-- Step 2: dispatch to the slice stops. -/
def State.beginTest (s : State) (n : Nat) (h : HF) : State :=
  ({ s with
    slices := tupd s.slices n {} fun v => { v with drain := true }
    ctl := { s.ctl with ist := some (Fin.ofNat 24 n, h, false) } } : State).logEntry .test 0x8001 1 none n 0

def serveInServiceTest (h : HF) (q : List Byte) (s : State) : Served :=
  inBanked (testReqOk q s) false h s
    (if s.testRefused (rq8 q 9) then refuse s resBusy
     else if s.testersRun then .wait (s.beginTest (rq8 q 9) h) else .wait s)

/-- IN_SERVICE_TEST (R342): a TEST_REQUEST of kind 1, or of a kind that is none. -/
def execInServiceTest (h : HF) (f : Nat) (s : State) : Res :=
  .next (s.takeRequest 0x38 (fun q => rq8 q 8 != 2 && rq8 q 8 != 3) h f serveInServiceTest)

/-- Every descriptor in the slice's issue queue has written its record. -/
def State.queueDrained (s : State) (n : Nat) : Bool := !(s.allSlots.any fun e => e.2.phase.begun && e.2.slices.contains n)

/-- Steps 3 and 4: the slice is fenced for the test and wiped. -/
def State.runTest (s : State) (t : SliceId) (h : HF) : State :=
  if (tget s.slices t.val {}).fenced || s.wouldOrphan t.val then s.dropTest t h false
  else
    let s := s.testFence t.val
    ({ s with ctl := { s.ctl with ist := some (t, h, true) } } : State).teleGlobal 14 1

/-- IN_SERVICE_TEST_RUN (R342). -/
def execInServiceTestRun (f : Nat) (s : State) : Res :=
  let s := s.atFclk f
  match s.ctl.ist with
  | some (t, h, false) =>
    if s.testersRun && (tget s.slices t.val {}).drain && s.queueDrained t.val then .next (s.runTest t h) else .next s
  | _ => .next s

/-- Steps 5 and 6 for a test that ran. -/
def State.endTest (s : State) (t : SliceId) (h : HF) (failed : Nat) : State :=
  let s :=
    if failed = 0 then (s.returnSlice t.val).logEntry .test 0x8001 1 none t.val 1
    else ((s.hardFence t.val 6).teleGlobal 15 1).logEntry .test 0x8001 1 none t.val 2
  let s : State := { s with
    ctl := { s.ctl with ist := none }, slices := tupd s.slices t.val {} fun v => { v with drain := false } }
  s.answerTest h 1 t.val (if failed = 0 then 0 else 1) failed

/-- The answer to a test that was abandoned. -/
def State.answerAbandoned (s : State) (t : SliceId) (h : HF) : State :=
  ({ s with ctl := { s.ctl with ist := none } } : State).answerTest h 1 t.val 2 0

/-- IN_SERVICE_TEST_END (R342). -/
def execInServiceTestEnd (failed : BitVec 3) (f : Nat) (s : State) : Res :=
  let s := s.atFclk f
  match s.ctl.ist with
  | some (t, h, true) => if s.testersRun then .next (s.endTest t h failed.toNat) else .next s
  | some (t, h, false) =>
    if s.adminRuns && !(tget s.slices t.val {}).drain then .next (s.answerAbandoned t h) else .next s
  | none => .next s

/-! ### Calibration (R343) -/

/-- The sensors of the part (Table 15-15). -/
def State.sensors (s : State) : List Nat := (List.range 28).filter fun t => decide (t < s.nslices) || decide (24 ≤ t)

def State.sensor (s : State) (t : Nat) : Sensor := tget s.dmp.ts t {}
def State.updSensor (s : State) (t : Nat) (f : Sensor → Sensor) : State := { s with dmp := { s.dmp with ts := tupd s.dmp.ts t {} f } }

/-- The neighbours of sensor t: the ones before and after it by number among those of the part (log 22). -/
def State.neighbours (s : State) (t : Nat) : List Nat :=
  let l := s.sensors
  let i := l.findIdx fun x => x == t
  [l.getD ((i + l.length - 1) % l.length) 0, l.getD ((i + 1) % l.length) 0]

/-- A reading lies more than 20 °C from both neighbours (R343). -/
def State.farReading (s : State) (t : Nat) (reading : Int) : Bool :=
  (s.neighbours t).all fun k => (s.sensor k).valid && decide (20 * 256 < (reading - (s.sensor k).temp).natAbs)

/-- Calibration passes to sensor t. -/
def State.calibrate (s : State) (t : Nat) : State := s.updSensor t fun x => { x with cal := true }

def serveCalibration (h : HF) (q : List Byte) (s : State) : Served :=
  inBanked (testReqOk q s) false h s
    (if s.testersRun && s.ctl.cal.isNone then
       .wait (({ s with ctl := { s.ctl with cal := some h } } : State).calibrate 0)
     else .wait s)

/-- CALIBRATION (R343): a TEST_REQUEST of kind 2. -/
def execCalibration (h : HF) (f : Nat) (s : State) : Res := .next (s.takeRequest 0x38 (fun q => rq8 q 8 == 2) h f serveCalibration)

/-- The failure of sensor t is logged (R343). Table 12-11 gives it no trace point: TP is free (log 92). -/
def State.logSensor (s : State) (t : Nat) : State :=
  (s.logEntry .test (Config.freeNat s.clk.free) 2 none t 0).useFree 1

/-- The calibration of sensor t has ended: the next one begins, or the request is answered. -/
def State.calibrated (s : State) (h : HF) (t : Nat) (pass : Bool) (reading : Int) : State :=
  let bad := !pass || s.farReading t reading
  let s := s.updSensor t fun x => { x with cal := false, subst := bad, temp := reading, valid := true }
  let s := if bad then s.logSensor t else s
  match s.sensors.find? fun k => decide (t < k) with
  | some k => s.calibrate k
  | none =>
    ({ s with ctl := { s.ctl with cal := none } } : State).answerTest h 2 0 ((s.sensors.any fun k => (s.sensor k).subst).toNat) 0

/-- SENSOR_CALIBRATION_END (R343). -/
def execSensorCalibrationEnd (t : Fin 28) (pass : Bool) (reading : Int) (s : State) : Res :=
  match s.ctl.cal with
  | some h => if (s.sensor t.val).cal && s.testersRun then .next (s.calibrated h t.val pass reading) else .next s
  | none => .next s

/-! ### The offline self-test (R344) -/

/-- A host function is idle: none of its rings has a fetched descriptor without a record; or it is frozen. -/
def State.idleOrFrozen (s : State) (h : HF) : Bool := (s.host h).session == .frozen || !s.hasWork h

def serveOfflineSelfTest (h : HF) (q : List Byte) (s : State) : Served :=
  inBanked (testReqOk q s) true h s
    (if s.ctl.ist.isSome || s.ctl.ost.isSome || !((List.finRange 16).all s.idleOrFrozen) then refuse s resBusy
     else if s.testersRun then .wait ({ s with ctl := { s.ctl with ost := some h } } : State).beginOffline
     else .wait s)

/-- OFFLINE_SELF_TEST (R344): a TEST_REQUEST of kind 3. -/
def execOfflineSelfTest (h : HF) (f : Nat) (s : State) : Res :=
  .next (s.takeRequest 0x38 (fun q => rq8 q 8 == 3) h f serveOfflineSelfTest)

/-- HSn_AGE after a reading (Table 15-25). -/
def Slice.age (v : Slice) (c : W16) : Slice :=
  let first := v.ageLatest == 0 && v.ageMax == 0 && v.ageMin == 0
  { v with
    ageLatest := c
    ageMax := if v.ageMax.toNat < c.toNat then c else v.ageMax
    ageMin := if first || decide (c.toNat < v.ageMin.toNat) then c else v.ageMin }

/-- Every slice is read. -/
def State.readAges (s : State) (counts : List W16) : State :=
  (List.range s.nslices).foldl (fun (s : State) n => { s with slices := tupd s.slices n {} fun v => v.age (counts.getD n 0) }) s

/-- The units that failed are fenced as hard faults (R344, R338); Ember stops issuing keys when its tests fail. -/
def State.fenceFailed (s : State) (slices : Nat) (planes : BitVec 4) (ember : Bool) : State :=
  let s := (onesOf s.nslices slices).foldl (fun s n => s.hardFence n 6) s
  let s := s.fencePlanes planes 6
  if ember then { s with emb := { s.emb with healthOk := false, keysOk := false } } else s

/-- ITEMS of the offline self-test (Table 14-6). -/
def offlineItems (rick kiln retort : Nat) (planes : BitVec 4) (ember : Bool) : Nat :=
  (decide (rick ≠ 0)).toNat + 2 * (decide (kiln ≠ 0)).toNat + 4 * (decide (retort ≠ 0)).toNat + 8 * (decide (planes ≠ 0)).toNat +
    16 * ember.toNat

/-- The end of the offline self-test, whose last item is a reading of the aging monitors (Table 13-4); it forms no Ledger record, as only
the readings at entry to BANKED and the periodic ones do (R324). -/
def State.endOffline (s : State) (h : HF) (rick kiln retort : Nat) (planes : BitVec 4) (ember : Bool) (counts : List W16) : State :=
  let items := offlineItems rick kiln retort planes ember
  let s := (s.readAges counts).wipeLive.fenceFailed (rick ||| kiln ||| retort) planes ember
  let s : State := { s with ctl := { s.ctl with ost := none, ostRun := false } }
  s.answerTest h 3 0 (if items = 0 then 0 else 1) items

/-- OFFLINE_SELF_TEST_END (R344). -/
def execOfflineSelfTestEnd (rickFail kilnFail retortFail : BitVec 24) (planes : BitVec 4) (rest : EmberAndAges) (f : Nat) (s : State) : Res :=
  let s := s.atFclk f
  match s.ctl.ost with
  | some h =>
    if s.testersRun && s.ctl.ostRun then
        .next (s.endOffline h rickFail.toNat kilnFail.toNat retortFail.toNat planes rest.emberFailed rest.ages)
      else .next s
  | none => .next s

/-! ### The end of a wait (R292) -/

/-- Serves a request of any type that waits. -/
def serveAny (h : HF) (q : List Byte) (s : State) : Served :=
  let t := rqType q
  if t = 0x01 then serveHello h q s
  else if t = 0x03 then serveGoodbye h q s
  else if t = 0x11 then serveRingEnable h q s
  else if t = 0x12 then serveRingDisable h q s
  else if t = 0x20 then serveChainLoad h q s
  else if t = 0x21 then serveChainUnload h q s
  else if t = 0x30 then serveLogRead h q s
  else if t = 0x31 then serveTelemetryRead h q s
  else if t = 0x44 then serveSealedResv h q s
  else if t = 0x38 ∧ rq8 q 8 = 1 then serveInServiceTest h q s
  else if t = 0x38 ∧ rq8 q 8 = 2 then serveCalibration h q s
  else if t = 0x38 then serveOfflineSelfTest h q s
  else .wait s

/-- The request of host function h has taken effect and waits for an event of its own: a test that runs, a calibration, the
zeroing of a grant. -/
def State.ownRow (s : State) (h : HF) (q : List Byte) : Bool :=
  (rqType q == 0x38 && ((s.ctl.ist.any fun i => i.2.1 == h) || s.ctl.ost == some h || s.ctl.cal == some h)) || rqType q == 0x40

/-- The request that waits can be served now: it is answered, or its test or calibration begins. -/
def State.waitOver (s : State) (h : HF) (w : Waiting) : Bool :=
  s.adminRuns && !s.ownRow h w.req && match serveAny h w.req s with
    | .answer _ _ _ => true
    | .wait t => t.ownRow h w.req

/-- ADMIN_WAIT_SATISFIED (R292): within 100 ms of taking the request, ADMIN applies it and answers, or begins the test or calibration
that it asks for. -/
def execAdminWaitSatisfied (h : HF) (f : Nat) (s : State) : Res :=
  let s := s.atFclk f
  match (s.host h).cur with
  | some w =>
    if s.waitOver h w && decide (s.clk.fclk ≤ w.since + busyAfter) then .next (settle h w.req w.since (serveAny h w.req s))
    else .next s
  | none => .next s

/-- A waiting request that has changed nothing for good: neither a test nor a calibration that runs. -/
def State.mayTimeOut (s : State) (h : HF) (q : List Byte) : Bool :=
  !(rqType q == 0x38 && ((s.ctl.ist.any fun i => i.2.1 == h && (i.2.2 || !(tget s.slices i.1.val {}).drain)) ||
    s.ctl.ost == some h || s.ctl.cal == some h))

/-- A request that timed out leaves everything as it was. -/
def State.undoWait (s : State) (h : HF) (q : List Byte) : State :=
  if rqType q = 0x40 then { s with zeroing := s.zeroing.erase (grantOf q) }
  else match s.ctl.ist with
    | some (t, g, false) =>
      if rqType q = 0x38 ∧ g = h then
        { s with ctl := { s.ctl with ist := none }, slices := tupd s.slices t.val {} fun v => { v with drain := false } }
      else s
    | _ => s

/-- ADMIN_BUSY_TIMEOUT (R292). -/
def execAdminBusyTimeout (h : HF) (f : Nat) (s : State) : Res :=
  let s := s.atFclk f
  match (s.host h).cur with
  | some w =>
    if s.adminRuns && s.mayTimeOut h w.req && decide (w.since + busyAfter ≤ s.clk.fclk) then
      .next (settle h w.req w.since (.answer (s.undoWait h w.req) resBusy []))
    else .next s
  | none => .next s

end Sys2Proof.Machine
end

