-- ==== Sys2Proof/Machine/LedgerRecords.lean ====
section
/-! DEFINITION. The Ledger's records (13, R323 to R328): their payloads, their persistence, and a shutdown notice that waits. -/

namespace Sys2Proof.Machine

/-! ### Payloads (Table 13-11) -/

/-- `n` fields of `w` bytes from a table of counters. -/
def fieldsOf (n w : Nat) (f : Nat → Nat) : List Byte := (List.range n).flatMap fun k => natLe (sat (8 * w) (f k)) w

def activePayload (t : LedgerTotals) : List Byte := fieldsOf 24 4 fun n => tget t.active n 0 / 2 ^ 32
def bytesPayload (t : LedgerTotals) : List Byte := fieldsOf 24 8 fun n => tget t.bytes n 0 / 2 ^ 30
def thermalPayload (t : LedgerTotals) : List Byte := fieldsOf 448 4 fun k => tget t.thermal k 0
def supplyPayload (t : LedgerTotals) : List Byte := fieldsOf 48 4 fun k => tget t.supply k 0

/-- POWERON: Ember's count, the stored count, SATURATED, STALE, RESTART. -/
def State.poweronPayload (s : State) : List Byte :=
  natLe s.part.powerOns 2 ++ natLe s.led.totals.powerOn 4 ++
    natLe ((decide (2048 ≤ s.part.powerOns)).toNat + 2 * s.led.stale.toNat + 4 * (s.led.st == .restarted).toNat) 1 ++ [0]

/-- LIFECYCLE. -/
def lifecyclePayload (a b : Lifecycle) (floor : Nat) : List Byte := natLe a.code 1 ++ natLe b.code 1 ++ natLe floor 1 ++ [0]

/-- Events of a FIRMWARE record. -/
def fwActivated : Nat := 1
def fwBooted : Nat := 2
def fwRefused : Nat := 3
def fwFloor : Nat := 4
def fwWatchdog : Nat := 5

/-- FIRMWARE: event, slot, SVN, BUILD, IFMAJ, IFMIN. -/
def firmwarePayload (event : Nat) (slotB : Bool) (x : FwSlot) : List Byte :=
  natLe event 1 ++ natLe slotB.toNat 1 ++ natLe x.svn 1 ++ [0] ++ natLe x.build 4 ++ natLe x.ifmaj 1 ++ natLe x.ifmin 1 ++ [0, 0]

/-- AGING: kind, then latest, minimum and maximum of each slice. -/
def agingPayload (kind : Nat) (f : Nat → Nat) : List Byte := natLe kind 1 ++ [0] ++ fieldsOf 72 2 f

/-- Types of Table 13-11. -/
def ledActive : Nat := 1
def ledBytes : Nat := 2
def ledErrors : Nat := 3
def ledThermal : Nat := 4
def ledSupply : Nat := 5
def ledPoweron : Nat := 6
def ledLifecycle : Nat := 7
def ledFirmware : Nat := 8
def ledAging : Nat := 9

/-! ### Persistence (R326) -/

/-- The bytes of a record: the header of Table 13-10 and the payload. -/
def ledgerBytes (ty seq date : Nat) (payload : List Byte) : List Byte :=
  natLe ty 1 ++ [1] ++ natLe payload.length 2 ++ natLe seq 4 ++ natLe date 8 ++ payload

/-- One record goes to the board controller. -/
def State.sendRecord (s : State) (ty date : Nat) (payload : List Byte) : State :=
  ({ s with led := { s.led with seq := s.led.seq + 1 } } : State).emit (.ledger (ledgerBytes ty s.led.seq date payload))

/-- The records that are held go out, oldest first. -/
def State.sendHeld (s : State) : State :=
  let s' := s.led.held.foldl (fun (s : State) x => s.sendRecord x.ty x.date x.payload) s
  { s' with led := { s'.led with held := [] } }

/-- Every record goes out: the held ones, the counts, and the summary of the aging readings since the previous persistence (R324,
R327). -/
def State.sendEvery (s : State) : State :=
  let s := s.sendHeld
  let d := s.dateNow
  let t := s.led.totals
  let s := (((((s.sendRecord ledActive d (activePayload t)).sendRecord ledBytes d (bytesPayload t)).sendRecord ledErrors d
    (errorsPayload t)).sendRecord ledThermal d (thermalPayload t)).sendRecord ledSupply d (supplyPayload t)).sendRecord ledPoweron d
    s.poweronPayload
  let s := if s.led.aging.isEmpty then s else s.sendRecord ledAging d (agingPayload 1 fun k => tget s.led.aging k 0)
  { s with led := { s.led with aging := [] } }

/-- The persistence of the interval (R326). -/
def State.sendAll (s : State) : State :=
  let s := s.sendEvery
  { s with led := { s.led with last := s.clk.fclk } }

/-- LEDGER persists: nothing before the restore or its timeout (R328). -/
def State.ledgerOpen (s : State) : Bool := s.compRuns .ledger && s.led.st != .awaited

/-- fclk counts per second. -/
def secFclk : Nat := 1200000000

/-- Persistence at count f: everything when the interval has passed, the held records otherwise (R326). -/
def State.persist (s : State) (f : Nat) : State :=
  if s.led.last + s.led.interval * secFclk ≤ f then s.sendAll else s.sendHeld

/-! ### A notice that waits (R327) -/

/-- LEDGER cannot answer a notice now, and will: it restarts, or its core is halted (R303, R364). -/
def State.ledgerAway (s : State) : Bool := s.firmwareUp && !s.compUp .ledger && (s.component .ledger).st != .stopped

/-- LEDGER runs again: a notice that waits is answered (R327). -/
def State.answerNotice (s : State) : State :=
  if s.led.notice then
    let s : State := { s with led := { s.led with notice := false } }
    (if s.ledgerOpen then s.sendEvery else s).emit (.mgmt "SHUTDOWN_NOTICE" 0 [])
  else s

end Sys2Proof.Machine
end

