-- ==== Sys2Proof/Machine/Firmware.lean ====
section
/-! DEFINITION. Restarts of the firmware (R303 to R305) and the Bellows window (R363, R364). -/

namespace Sys2Proof.Machine

/-! ### Cores -/

def State.core (s : State) (c : Nat) : Core := tget s.fw.cores c {}
def State.updCore (s : State) (c : Nat) (f : Core → Core) : State := { s with fw := { s.fw with cores := tupd s.fw.cores c {} f } }

/-- The partner of a core: BC0 and BC3, BC1 and BC2 (R303). -/
def partner (c : Nat) : Nat := 3 - c

/-- The components of a core but for KERNEL and BOOT (Table 12-1). -/
def compsOf (c : Nat) : List Comp :=
  ([Comp.schedA, .schedB, .admin, .log, .ledger, .health, .keys, .test]).filter fun k => k.core == c

/-! ### Deadlines while ADMIN is down (R299) -/

/-- ADMIN stops running: its outage begins. -/
def State.adminStops (s : State) : State :=
  if s.fw.adminDown.isNone then { s with fw := { s.fw with adminDown := some s.clk.fclk } } else s

/-- ADMIN runs again: every deadline is extended by the length of the outage. -/
def State.adminResumes (s : State) : State :=
  match s.fw.adminDown with
  | none => s
  | some t =>
    let s : State := { s with fw := { s.fw with adminDown := none } }
    { s with hosts := s.hosts.map fun (e : Nat × HostFn) => (e.1, { e.2 with deadline := e.2.deadline + (s.clk.fclk - t) }) }

/-! ### Faults -/

/-- The instance of a SCHED component. -/
def instOf (k : Comp) : Option Nat := if k = .schedA then some 0 else if k = .schedB then some 1 else none

/-- The peer takes over a SCHED instance (R303, 0x2001). -/
def State.takeOver (s : State) (k : Comp) : State :=
  match instOf k with
  | none => s
  | some i =>
    if s.overtaken i || !s.compUp (schedComp (1 - i)) then s
    else (s.setOver i true).logEntry (schedComp (1 - i)) 0x2001 2 none i s.clk.fclk

/-- Component k begins to restart. -/
def State.restart (s : State) (k : Comp) (cause : Nat) : State :=
  let s := s.updComponent k fun c => { c with st := if c.st = .stopped then .stopped else .restarting, cause := cause }
  let s := if k = .admin then s.adminStops else s
  s.takeOver k

/-- An in-service test is abandoned by a restart of BC3, and repeated later: its request waits as it did before the test began (R303,
R342, Table 12-12). -/
def State.loseTest (s : State) (core : Nat) : State :=
  if core = 3 then
    match s.ctl.ist with
    | some (t, h, run) => let s := s.dropTest t h run; { s with ctl := { s.ctl with ist := none } }
    | none => s
  else s

/-- The partner warm-resets a core: its components restart (R303, 0x1002). The program counter then is what firmware
makes it. -/
def State.warmReset (s : State) (core cause : Nat) : State :=
  let pc := (Config.freeWord s.clk.free).setWidth 32
  let s := (s.useFree 1).updCore core fun c => { c with pc := pc, part := Comp.kernel.code, missed := 0 }
  if s.firmwareUp then
    let s := s.logEntryOn (partner core) .kernel 0x1002 3 none core cause
    ((compsOf core).foldl (fun s k => s.restart k cause) s).loseTest core
  else s

/-- A component stays stopped, reported over the management port (R305). -/
def State.stopComp (s : State) (k : Comp) : State :=
  ((s.updComponent k fun c => { c with st := .stopped }).logEntryOn k.core .kernel 0x1001 4 none k.code (s.component k).cause).emit
    (.fatal k.code)

/-- Faults of a component within the last second. -/
def recentFaults (l : List Nat) (f : Nat) : List Nat := l.filter fun t => decide (f ≤ t + 1200000000)

/-- A fault of component k (R303, R305). -/
def State.compFault (s : State) (k : Comp) (cause : Nat) : State :=
  let f := s.clk.fclk
  let fs := recentFaults (s.component k).faults f ++ [f]
  let s := s.updComponent k fun c => { c with faults := fs, cause := cause }
  if (s.component k).again then (s.restart k cause).stopComp k
  else if 3 ≤ fs.length then (s.updComponent k fun c => { c with again := true }).warmReset k.core cause
  else s.restart k cause

/-- A fault of a component that acts; one of KERNEL is a core fault. -/
def State.faultOf (s : State) (k : Comp) (cause : Nat) : State :=
  if !s.firmwareUp || k == .boot then s
  else if k = .kernel then (if (s.core k.core).halted then s else s.warmReset k.core cause)
  else if s.compRuns k then s.compFault k cause
  else s

/-- What a read without effect does: one of a partition outside its device windows is a component fault of cause 1, any other
that Table 15-1 does not permit does nothing (R279, R303, R352). -/
def State.deniedRead (s : State) (who : Who) (a : Area) : State :=
  match who with
  | .fw c => if fwReaches c a then s else s.faultOf c 1
  | _ => s

/-- The same of a write. -/
def State.denied (s : State) (who : Who) (a : Area) : State :=
  match who with
  | .fw c => if fwWrites c a then s else s.faultOf c 1
  | _ => s

/-- COMPONENT_FAULT (R279, R303, R305). -/
def execComponentFault (k : Comp) (cause : Nat) (f : Nat) (s : State) : Res := .next ((s.atFclk f).faultOf k cause)

/-- ACTIVATION_DEADLINE (R303). -/
def execActivationDeadline (k : Comp) (f : Nat) (s : State) : Res := .next ((s.atFclk f).faultOf k 2)

/-- A heartbeat: the fourth missed in a row is a core fault (R303). -/
def State.beat (s : State) (core : Nat) (seen : Bool) : State :=
  if seen then s.updCore core fun c => { c with missed := 0 }
  else if (s.core core).missed = 3 then s.warmReset core 2
  else s.updCore core fun c => { c with missed := c.missed + 1 }

/-- HEARTBEAT (R303); a halted core is not watched (R364). -/
def execHeartbeat (core : Fin 4) (seen : Bool) (f : Nat) (s : State) : Res :=
  let s := s.atFclk f
  if s.firmwareUp && !(s.core core.val).halted then .next (s.beat core.val seen) else .next s

/-- CORE_FAULT (R303); a halted core is not watched (R364). -/
def execCoreFault (core : Fin 4) (cause : Nat) (f : Nat) (s : State) : Res :=
  let s := s.atFclk f
  if s.firmwareUp && !(s.core core.val).halted then .next (s.warmReset core.val cause) else .next s

/-- What waited for component k: HEALTH fences what is due (R346), LEDGER answers a notice (R327), and a SCHED instance takes over a
peer that does not run (R303, R305); LOG takes the entries sent to it, those too that k could not send before (R280). -/
def State.resumed (s : State) (k : Comp) : State :=
  if !s.compUp k then s
  else State.takeEntries <| match k with
    | .health => s.settleDue
    | .ledger => s.answerNotice
    | .schedA => if (s.component .schedB).st = .running then s else s.takeOver .schedB
    | .schedB => if (s.component .schedA).st = .running then s else s.takeOver .schedA
    | _ => s

/-- A component has rebuilt its state from the journal (R281, R303, 0x1001). -/
def State.restarted (s : State) (k : Comp) : State :=
  let s := s.updComponent k fun c => { c with st := .running }
  let s := (if k = .admin then s.adminResumes else s).resumed k
  s.logEntryOn k.core .kernel 0x1001 2 none k.code (s.component k).cause

/-- COMPONENT_RESTARTED (R281, R299, R303). -/
def execComponentRestarted (k : Comp) (f : Nat) (s : State) : Res :=
  let s := s.atFclk f
  if s.firmwareUp && (s.component k).st == .restarting then .next (s.restarted k) else .next s

/-! ### The Bellows window (R363, R364) -/

/-- An access to a Bellows register other than BW_LOCK that takes effect. -/
def State.bwOpen (s : State) (who : Who) : Bool :=
  s.windowUp && s.stageServes who .bellows && match who with
    | .fw c => c == .kernel
    | .mgmt => !s.bwLocked
    | .host h => s.ctl.manager == some h && !s.bwLocked

/-- The address of the next BW_DATA access. -/
def State.bwAddress (s : State) : Nat := s.fw.bwAddr.toNat * 8

/-- Addresses that BW_DATA writes: what the components own but for the ROM, the reserved code SRAM, and the message ports (Table 12-1). -/
def bwWritable (a : Nat) : Bool :=
  (allComps.any fun c => c != .boot && owns c a) || inSpan (0x101C_0000, 0x4_0000) a || inSpan (0x200F_0000, 0x1_0000) a

/-- The address advances by 8. -/
def State.bwAdvance (s : State) : State := { s with fw := { s.fw with bwAddr := s.fw.bwAddr + 1 } }

/-- BW_DATA_READ (R364). -/
def execBwDataRead (who : Who) (s : State) : Res := if s.bwOpen who then .next s.bwAdvance else .next (s.deniedRead who .bellows)

/-- A write of BW_DATA. -/
def State.bwWrite (s : State) (v : W64) : State :=
  let s' := if bwWritable s.bwAddress then s.writeBytes 25 s.bwAddress (natLe v.toNat 8) else s
  s'.bwAdvance

/-- BW_DATA_WRITE (R364). -/
def execBwDataWrite (who : Who) (v : W64) (s : State) : Res := if s.bwOpen who then .next (s.bwWrite v) else .next (s.denied who .bellows)

/-- Halts or releases a core; ADMIN does not run on a halted core (R299, R364). -/
def State.setHalt (s : State) (core : Nat) (on : Bool) : State :=
  let s := s.updCore core fun c => { c with halt := on, halted := on, run := !on && s.firmwareUp, missed := 0 }
  if !s.firmwareUp then s
  else if on then (if core = 0 then s.adminStops else s)
  else (compsOf core).foldl State.resumed (if core = 0 ∧ (s.component .admin).st = .running then s.adminResumes else s)

/-- HALT (R364). -/
def execHalt (who : Who) (core : Fin 4) (on : Bool) (s : State) : Res :=
  if s.bwOpen who then .next (s.setHalt core.val on) else .next (s.denied who .bellows)

/-- WRST (R303): a warm reset that no fault code explains is logged with cause 0. -/
def execWrst (who : Who) (core : Fin 4) (s : State) : Res :=
  if s.bwOpen who then .next (s.warmReset core.val 0) else .next (s.denied who .bellows)

/-- One instruction of a halted core moves its program counter, to a value that this manual does not give. -/
def State.stepCore (s : State) (core : Nat) : State :=
  let pc := (Config.freeWord s.clk.free).setWidth 32
  (s.useFree 1).updCore core fun c => { c with pc := pc }

/-- STEP (R364). -/
def execStep (who : Who) (core : Fin 4) (s : State) : Res :=
  if !s.bwOpen who then .next (s.denied who .bellows)
  else if (s.core core.val).halted then .next (s.stepCore core.val)
  else .next s

end Sys2Proof.Machine
end

