-- ==== Sys2Proof/Machine/Slices.lean ====
section
/-! DEFINITION. The events of a slice and of the Flue: a block filled by the mover (R55 to R57, R110), passes (R54, R59, R65 to
R67), exchanges with their flits and credits (R77 to R82, R86, R88 to R91), the end of a wipe (R58). -/

namespace Sys2Proof.Machine

/-- The descriptor that works in the pools bound to u: the oldest one of the unit that is bound and has not run. -/
def State.runner (s : State) (u : RingId × W32) : Option Slot :=
  (s.slotsOf u.1).find? fun d => d.holder == u.2 && d.phase == .started && d.bound

/-! ### MOVER_FILL_COMPLETE -/

/-- The block of slot j that the mover of slice n fills next: its place among the slice's blocks, its number and positions. -/
def State.nextBlock (s : State) (d : Slot) (j n : Nat) : Option (Nat × Nat × List Nat) :=
  let i := tget d.filled (8 * n + j) 0
  ((s.fillBlocks d (d.opD j) n)[i]?).map fun b => (i, b.1, b.2)

/-- A request for some positions of operand j by the mover of slice n is still to be answered. -/
def State.reading (s : State) (r : RingId) (d : Slot) (j n : Nat) (ks : List Nat) : Bool :=
  let o := d.opD j
  s.ports.reqs.any fun q => q.r == r && q.p == d.idx && q.item == j && q.master == n && !q.wr &&
    (o.card.pieces ks).any fun pc =>
      let a := o.place pc
      q.port.val == a.1 && decide (q.addr < a.2 + pc.len) && decide (a.2 < q.addr + q.len)

/-- The share whose block slice n fills is the one that it works: a tile program's shares come one after another (R10, R180). -/
def State.shareNow (s : State) (d : Slot) (n m : Nat) : Bool :=
  d.opc != .tileprog || (s.servedOf (piSlices d.image) n)[(tget s.slices n {}).tu.share]? == some m

/-- The fill of block b of slot j into pool k of slice n is complete: the descriptor is bound and reads the operand from memory,
the pool is bound to it and has no other role, a later limb slot follows on the same operand's, and every read of the block has
returned; PATTERN and TILEPROG bind a pool to each operand (R54, R110, R124, R180). -/
def State.fillDone (s : State) (n k : Nat) (r : RingId) (d : Slot) (j : Nat) (b : Nat × Nat × List Nat) : Bool :=
  let v := s.pool n k
  d.phase == .started && d.bound && d.corrupt.isNone && s.live n && (d.readOps.any fun o => o.slot == j) && s.nextBlock d j n == some b &&
    (match s.fillPool r d n b.2.1 j with
      | some m => m == k
      | none => true) && s.shareNow d n b.2.1 &&
    v.user == some (r, d.holder) && (v.role == .free || v.role == .moverFill || v.role == d.opc.fillRole) && v.kept.isNone &&
    (v.hf.isNone || v.hf == some (s.ringHost r)) &&
    (b.1 % d.perPool (d.opD j) == 0 || (v.ready && v.holds.map (·.1) == some j)) && !s.reading r d j n b.2.2

/-- Pool v after the fill of block b of slot j. -/
def State.filledPool (s : State) (r : RingId) (d : Slot) (j : Nat) (b : Nat × Nat × List Nat) (v : Pool) : Pool :=
  { v.write (s.blockWords r d (d.opD j) b.1 b.2.2) with
    role := d.opc.fillRole, hf := some (s.ringHost r), ready := true, stage := 0
    holds := if b.1 % d.perPool (d.opD j) = 0 then some (j, if d.opc.movesWhole then b.1 else b.2.1) else v.holds }

/-- No block of slice n is left to fill once that of slot j is complete. -/
def State.lastFill (s : State) (d : Slot) (j n : Nat) : Bool :=
  d.readOps.all fun o =>
    decide ((s.fillBlocks d o n).length ≤ tget d.filled (8 * n + o.slot) 0 + if o.slot = j then 1 else 0)

/-- The mover's role ends on every pool of its user with the slice's last fill (R54). -/
def State.endFills (s : State) (n : Nat) (u : RingId × W32) : State :=
  { s with slices := tupd s.slices n {} fun v => { v with pools := v.pools.map fun (k : Nat × Pool) =>
      ((k.1, if k.2.user = some u ∧ k.2.role = .moverFill then { k.2 with role := .free } else k.2) : Nat × Pool) } }

/-- The slice with the fill complete: an exchange may read the pool from the next cycle on (R82), and the mover's role passes to the
pool that it fills next (R54). -/
def State.fill (s : State) (n k : Nat) (r : RingId) (d : Slot) (j : Nat) (b : Nat × Nat × List Nat) : State :=
  let d' := { d with filled := tput d.filled (8 * n + j) (b.1 + 1) }
  let t := (s.updPool n k (s.filledPool r d j b)).updSlot r d.idx fun _ => d'
  let t : State := { t with slices := tupd t.slices n {} fun v => { v with ends := tput v.ends k (max (tget v.ends k 0) s.clk.pclk) } }
  if s.lastFill d j n then t.endFills n (r, d.holder) else t.startFills r d' n

/-- MOVER_FILL_COMPLETE (R55 to R57, R110). -/
def execMoverFillComplete (n : SliceId) (k : PoolId) (r : RingId) (p : W32) (j : Fin 6) (s : State) : Res :=
  onPclk s fun _ =>
  onSlice s n fun _ =>
    match s.slotOf r p with
    | none => .next s
    | some d =>
      match s.nextBlock d j.val n.val with
      | none => .next s
      | some b => if s.fillDone n.val k.val r d j.val b then .next (s.fill n.val k.val r d j.val b) else .next s

/-! ### Streams of the exchanges -/

/-- The slice whose pools hold a participant's streams, and the segments over its physical pools: the buddy's free pools for a
fenced slice (R91, R124). -/
def State.streamOf (s : State) (r : RingId) (d : Slot) (n : Nat) (own acting : List Seg) : Nat × List Seg :=
  let phys (v : Nat) : List Seg := own.map fun g => { g with pool := s.physPool r d v n g.pool }
  if s.live n then (n, phys n) else (s.buddy n, if d.opc = .pattern then phys (s.buddy n) else acting)
def State.sendOf (s : State) (r : RingId) (d : Slot) (e : ExchSpec) (n : Nat) : Nat × List Seg := s.streamOf r d n e.send e.fsend
def State.recvOf (s : State) (r : RingId) (d : Slot) (e : ExchSpec) (n : Nat) : Nat × List Seg := s.streamOf r d n e.recv e.frecv

/-- The descriptor of a running exchange, and its participants' streams. -/
def State.exchSlot (s : State) (y : Exch) : Slot := (s.slotOf y.user.1 y.user.2).getD default
def State.sends (s : State) (y : Exch) (n : Nat) : Nat × List Seg := s.sendOf y.user.1 (s.exchSlot y) y.spec n
def State.recvs (s : State) (y : Exch) (n : Nat) : Nat × List Seg := s.recvOf y.user.1 (s.exchSlot y) y.spec n

/-- The pools of a participant's stream, each with the place of its segment's first word and its number of words. -/
def streamPools (x : Nat × List Seg) : List ((Nat × Nat) × Nat × Nat) :=
  (x.2.foldl (fun (acc : Nat × List ((Nat × Nat) × Nat × Nat)) g =>
    (acc.1 + 128 * g.count, acc.2 ++ [((x.1, g.pool), acc.1, 128 * g.count)])) (0, [])).2

/-- Words that the exchange brings to slice m. -/
def State.wordsTo (s : State) (e : ExchSpec) (m : Nat) : Nat := sumOf (((s.xfers e).filter fun t => t.dst == m).map Xfer.words)

/-- Words of m's receive stream that lie in its pools: all that has been sent to it, up to the first that a flit still carries. -/
def State.landed (s : State) (y : Exch) (m : Nat) : Nat :=
  let sent := sumOf ((s.xfers y.spec).map fun t => if t.dst = m then min t.words ((y.sent - t.beat) * s.beatWords) else 0)
  (s.flue.buffer.filter fun f => f.xid == y.x && f.role == m).foldl (fun a f => min a f.first) sent

/-- A segment of m's receive stream holds all that it takes (R81). -/
def State.segDone (s : State) (y : Exch) (m : Nat) (g : (Nat × Nat) × Nat × Nat) : Bool :=
  decide (min (g.2.1 + g.2.2) (s.wordsTo y.spec m) ≤ s.landed y m)

/-- The role of a pool when a pass has released it: the Flue's while an exchange still sends from it or fills it (R54). -/
def State.restRole (s : State) (n k : Nat) : Role :=
  if s.flue.exch.any fun y => y.spec.slices.any fun m =>
      (decide (y.sent < y.beats) && (streamPools (s.sends y m)).any fun g => g.1 == (n, k)) ||
        (streamPools (s.recvs y m)).any fun g => g.1 == (n, k) && !s.segDone y m g
    then .flue else .free

/-! ### The Flue at work -/

/-- The word at place i of a stream. -/
def State.streamWord (s : State) (x : Nat × List Seg) (i : Nat) : W64 :=
  match streamAt x.2 i with
  | some a => tget (s.pool x.1 a.1).data (128 * a.2.1 + a.2.2) 0
  | none => 0

/-- Word i that slice n sends in an exchange: of its send pools, or of the waves of a BASECONV (R79, R153, R154). -/
def State.sentWord (s : State) (y : Exch) (n i : Nat) : W64 :=
  let d := s.exchSlot y
  if d.opc = .baseconv then
    match (s.waveStream d (!y.spec.send.isEmpty) n)[i]? with
    | none => 0
    | some k => BitVec.ofNat 64 (if y.spec.send.isEmpty then s.waveOut y.user.1 d k else s.waveIn y.user.1 d k)
  else s.streamWord (s.sends y n) i

/-- The flits of a transfer in beat b, one on each live plane that has words: words 16i to 16i + 15 of the beat on the i-th (R77,
R90). -/
def State.flitsOf (s : State) (y : Exch) (b k : Nat) (t : Xfer) : List Flit :=
  let at_ := (b - t.beat) * s.beatWords
  if b < t.beat then []
  else s.livePlanes.zipIdx.filterMap fun pl =>
    let w := at_ + 16 * pl.2
    if w < t.words then some
      { plane := pl.1, xid := y.x, src := s.serve t.src, hf := y.hf, last := decide (t.words ≤ w + 16), dst := s.serve t.dst, role := t.dst
        first := t.into + w, sent := k
        words := (List.range (min 16 (t.words - w))).map fun i => s.sentWord y t.src (t.out + w + i) }
    else none

/-- Credits of a plane at a port that are spent (R86). -/
def State.spentAt (s : State) (f : Flit) : Nat := tget s.flue.spent (4 * f.dst + f.plane) 0

/-- The send pools of an exchange leave the Flue's role with its last beat. -/
def State.endSends (s : State) (y : Exch) : State :=
  (y.spec.slices.flatMap fun n => (streamPools (s.sends y n)).map (·.1)).foldl (fun s g =>
    s.updPool g.1 g.2 fun v => if v.role = .flue then { v with role := .free } else v) s

/-- In cycle k the exchange sends its next beat, when every flit of it has a credit, and spends the credits (R80, R81, R86). -/
def State.sendBeat (k : Nat) (s : State) (y : Exch) : State :=
  let fs := (s.xfers y.spec).flatMap (s.flitsOf y y.sent k)
  if y.sent < y.beats ∧ y.start + y.sent ≤ k ∧ (fs.all fun f => decide (s.spentAt f < 512)) = true then
    let t := { s with flue := { s.flue with
      exch := s.flue.exch.map fun z => if z.x = y.x then { z with sent := y.sent + 1 } else z
      buffer := s.flue.buffer ++ fs
      spent := fs.foldl (fun c f => tput c (4 * f.dst + f.plane) (tget c (4 * f.dst + f.plane) 0 + 1)) s.flue.spent } }
    if y.sent + 1 = y.beats then t.endSends y else t
  else s

/-- Writes one word of m's receive stream into its pool (R79). -/
def State.landWord (y : Exch) (m : Nat) (s : State) (w : Nat × W64) : State :=
  let x := s.recvs y m
  match streamAt x.2 w.1 with
  | some a => s.updPool x.1 a.1 fun v => { v with
      data := tset 0 v.data (128 * a.2.1 + a.2.2) w.2, hf := some y.hf, ready := false, stage := 3
      role := if v.role = .free then .flue else v.role }
  | none => s

/-- The flits for slice m that have reached its reassembly buffer by cycle k: a beat does 23 cycles after it was sent, so that a row of
two beats is written within 24 cycles of the first (R79, R81; log 71). -/
def State.arrived (s : State) (y : Exch) (m k : Nat) : List Flit :=
  s.flue.buffer.filter fun f => f.xid == y.x && f.role == m && decide (f.sent + 23 ≤ k)

/-- Words of m's receive stream that are written by cycle k: whole rows, and the last row once every word is there (R79); of a row that
takes longer to fill, the words that were sent 24 cycles ago, on its filled banks (R81; log 71). -/
def State.landTo (s : State) (y : Exch) (m k : Nat) (fs : List Flit) : Nat :=
  let upTo (gs : List Flit) : Nat := maxOf (gs.map fun f => f.first + f.words.length)
  let e := upTo fs
  max (if e = s.wordsTo y.spec m then e else e / 128 * 128) (upTo (fs.filter fun f => decide (f.sent + 24 ≤ k)))

/-- What has arrived for slice m by cycle k enters its pools row by row; the credits of the flits whose last word is written are on
their way back for 24 cycles (R79, R81, R86). `back` is the cycle in which they set out. -/
def State.land (k back : Nat) (y : Exch) (s : State) (m : Nat) : State :=
  let fs := s.arrived y m k
  let lim := s.landTo y m k fs
  let s := (fs.flatMap fun f => f.words.zipIdx.filterMap fun w => if f.first + w.2 < lim then some (f.first + w.2, w.1) else none).foldl
    (State.landWord y m) s
  let gone := fs.filter fun f => decide (f.first + f.words.length ≤ lim)
  { s with flue := { s.flue with
      buffer := s.flue.buffer.filter fun f => !gone.contains f
      returns := s.flue.returns ++ gone.map fun f => (back + 24, 4 * f.dst + f.plane) } }

/-- A flit has arrived for a pool that is bound to another host function (R78). -/
def State.strayed (s : State) (k : Nat) (y : Exch) : Bool :=
  y.spec.slices.any fun m => (s.arrived y m k).any fun f =>
    match streamAt (s.recvs y m).2 f.first with
    | some a => ((s.pool (s.recvs y m).1 a.1).user.map fun u => s.ringHost u.1) != some f.hf
    | none => false

/-- The role of a receive pool that is complete: the Retort reads that of a BASECONV's exchange-in (R54, R153). -/
def State.landRole (s : State) (y : Exch) : Role :=
  if (s.exchSlot y).opc = .baseconv ∧ !y.spec.send.isEmpty then .retort else .free

/-- The receive pools of an exchange that are complete in cycle k may be read from the next cycle on (R79, R81, R82). -/
def State.endRecvs (k : Nat) (s : State) (y : Exch) : State :=
  let t := s
  (y.spec.slices.flatMap fun m => ((streamPools (s.recvs y m)).filter (t.segDone y m)).map (·.1)).foldl (fun s g =>
    if (s.pool g.1 g.2).role = .flue then
      { s with slices := tupd s.slices g.1 {} fun v =>
        { v.updPool g.2 fun q => { q with role := t.landRole y, ready := true } with ends := tput v.ends g.2 k } }
    else s) s

/-- In cycle k what has arrived for an exchange lands; a stray flit aborts the exchange and its descriptor (R78). -/
def State.landAll (k back : Nat) (s : State) (y : Exch) : State :=
  if s.strayed k y then s.abortNamed y.user.1 y.user.2 causeWord none
  else (y.spec.slices.foldl (State.land k back y) s).endRecvs back y

/-- Credits that are back by cycle k (R86). -/
def Flue.takeCredits (v : Flue) (k : Nat) : Flue :=
  { v with
    spent := (v.returns.filter fun c => decide (c.1 ≤ k)).foldl (fun t c => tput t c.2 (tget t c.2 0 - 1)) v.spent
    returns := v.returns.filter fun c => decide (k < c.1) }

/-- One cycle of the Flue: credits come back, flits land, beats are sent. -/
def State.flueCycle (s : State) (k : Nat) : State :=
  let s := { s with flue := { s.flue.takeCredits k with now := k + 1 } }
  let s := s.flue.exch.foldl (State.landAll k k) s
  s.flue.exch.foldl (State.sendBeat k) s

/-- Nothing moves in the Flue. -/
def Flue.idle (v : Flue) : Bool := v.buffer.isEmpty && v.returns.isEmpty && v.exch.all fun y => y.sent == y.beats

/-- The Flue has run up to cycle c. -/
def State.flueTo (s : State) (c : Nat) : State :=
  if s.flue.idle then { s with flue := { s.flue with now := max s.flue.now (c + 1) } }
  else (List.range (c + 1 - s.flue.now)).foldl (fun t i => t.flueCycle (s.flue.now + i)) s

/-- A pool of slice n that a pass has read is released seven cycles after the last row is issued (R65). -/
def State.releaseSource (c n : Nat) (s : State) (k : Nat) : State :=
  let v := tget s.slices n {}
  if (v.pool k).role = .passSource ∧ (v.passes.all fun x => x.src.val != k || decide (x.start + x.rows + 6 ≤ c)) = true
  then
    let last := maxOf ((v.passes.filter fun x => x.src.val == k).map fun x => x.start + x.rows + 6)
    let s := s.updPool n k fun p => { p with role := s.restRole n k }
    let s := { s with slices := tupd s.slices n {} fun w => { w with frees := tput w.frees k last } }
    -- the mover goes on with what it has left to fill (R54)
    match (v.pool k).user.bind fun u => (s.runner u).map fun d => (u.1, d) with
    | some e => s.startFills e.1 e.2 n
    | none => s
  else s

/-- The slices and the Flue have run up to cycle c of pclk. -/
def State.toPclk (s : State) (c : Nat) : State :=
  let s := s.atPclk c
  let s := (s.slices.map (·.1)).foldl (fun s n => (List.range 6).foldl (State.releaseSource c n) s) s
  s.flueTo c

/-! ### Passes -/

/-- The cycle from which a pass may read pool k: the one after the latest pass or exchange that wrote it ended (R67, R82). -/
def Slice.readableAt (v : Slice) (k : Nat) : Nat :=
  match v.ends.find? fun e => e.1 == k with
  | none => 0
  | some e => e.2 + 1

/-- Row counts that a generator permits (Table 03-6, R70). -/
def genRowsOk (g : Gen) (first rows : Nat) : Bool :=
  match g with
  | .auto n _ _ _ => decide (128 * rows = 2 ^ n)
  | .nrot n _ => decide (128 * rows = 2 ^ n)
  | .brev n => decide (128 * rows = 2 ^ n)
  | .brevInv n => decide (128 * rows = 2 ^ n)
  | .pattern e0 => decide (e0 + rows ≤ 1024)
  | .index _ _ => true
  | .lanes _ _ _ g => genRowsOk g first rows
  | _ => decide (first + issuedRows g rows ≤ 1024)

/-- A free pool that a unit has or may take, other than pool k: the lowest-numbered one (R54; DESIGN CHOICE, log 94: the rule says only
"a free pool"). -/
def Slice.spare (v : Slice) (u : Option (RingId × W32)) (k : Nat) : Option PoolId :=
  (List.finRange 6).find? fun i =>
    i.val != k && (v.pool i.val).role == .free && (v.pool i.val).kept.isNone && ((v.pool i.val).user.isNone || (v.pool i.val).user == u)

/-- The pool that a pass from src to dst writes: dst, or a free pool when it is the one read, from where a second pass goes back
(R54). -/
def Slice.target (v : Slice) (src dst : PoolId) : Option PoolId :=
  if src = dst then v.spare (v.pool src.val).user src.val else some dst

/-- A pass may write pool k for the user of pool a. -/
def Slice.writable (v : Slice) (a : Pool) (k : Nat) : Bool :=
  let b := v.pool k
  ((b.role == .free && (b.user.isNone || b.user == a.user) && b.kept.isNone) || (b.role == .passDest && b.user == a.user)) &&
    (b.hf.isNone || b.hf == a.hf)

/-- The stage of its plan at which the source pool of a pass must stand (Table 05-3): a fill for the first passes, aligned rows for the
turner, received or turned rows for a place pass. -/
def State.stageOk (s : State) (d : Slot) (st : Nat) : Gen → Bool
  | .turner => st == 1
  | .place l _ _ => st == if s.exchanged d (s.movePart d l true).1 then 3 else if d.turned then 2 else 0
  | .seq => true
  | .sorted _ => true
  | .pattern _ => true
  | .lanes _ _ _ g => s.stageOk d st g
  | .index _ _ => d.sealedIndex || st == 0
  | _ => st == 0

/-- What stands in a pool after a pass whose source stands at stage st; the blocks of a WINDOW alternate between two (R141). -/
def stageAfter (st : Nat) : Gen → Nat
  | .seq => st
  | .gather _ _ => 1
  | .align _ _ => 1
  | .turner => 2
  | .lanes _ _ _ g => stageAfter st g
  | .index _ at_ => 4 + at_ / 1024 % 2
  | _ => 4

/-- The stack whose words a pass leaves in its destination pool, of a turn (R116). -/
def shareAfter (l : Option Nat) : Gen → Option Nat
  | .align l _ => some l
  | .turner => l
  | .lanes _ _ _ g => shareAfter l g
  | _ => none

/-- A pass writes the pool that its plan has for its words: blocks of a WINDOW in two pools in turn (R141), the sums of an Open MODADD in
the pool that was wiped for them (R136). -/
def Slot.targetOk (d : Slot) (p : Pool) : Gen → Bool
  | .index _ at_ =>
    if d.opc = .window then decide (at_ = 0) || p.stage != 4 + (at_ / 1024 + 1) % 2
    else d.opc != .scatter || d.sealedIndex || ixPolicy d.bytes != 2 || p.data.isEmpty
  | _ => true

/-- The moduli under which a pass negates words, where its generator does so from the command's operands: those of the limb whose rows
it reads, or of the binding (R59, R118, R119, R122, R124). -/
def State.passModuli (s : State) (n k : Nat) (d : Slot) (first : Nat) (g : Gen) : Option (Nat × Nat) :=
  let cc := d.scard.getD (parseCipher [])
  let limbs := (d.opD 0).card.dims.getD 1 1
  let one := (s.modulus cc.chain 0, s.modulus cc.chain 0)
  match coreGen g with
  | .pattern _ => some (s.bound (binding d.bytes) (d.opD 0).card.ty [])
  | .auto _ _ _ _ => some (s.limbModuli cc (s.passLimb n k d first % limbs))
  | .nrot _ _ => some (s.limbModuli cc (s.passLimb n k d first % limbs))
  | .extract _ => some one
  | .gather l _ => if d.opc = .extract then some one else if d.opc.pairs then some (s.limbModuli cc (l / 2 % limbs)) else none
  | _ => none

/-- The element type and the moduli that a PASS_START carries are those of the descriptor's elements (R59). -/
def State.lanesOk (s : State) (n k : Nat) (d : Slot) (first : Nat) (g : Gen) (ty : Byte) (q0 q1 : W64) : Bool :=
  (d.ops.any fun o => o.card.ty == ty.toNat) && match s.passModuli n k d first g with
    | some q => ty.toNat == (d.opD 0).card.ty &&
        (!isResidue ty.toNat || (q0.toNat == q.1 && (ty.toNat != tyU32P || q1.toNat == q.2)))
    | none => true

/-- Rows of pool k of slice n that hold complete limb slots (R110). -/
def State.filledRows (s : State) (n k : Nat) (d : Slot) : Nat :=
  match (s.pool n k).holds with
  | some (j, b) =>
    let o := d.opD j
    if d.opc.byLimb then
      min (d.perPool o) (tget d.filled (8 * n + j) 0 - ((s.fillBlocks d o n).map (·.1)).idxOf b) * (d.blockLen o / 128)
    else 1024
  | none => 1024

/-- The row after the last one that a pass reads of a block that the mover has filled. -/
def State.readTo (s : State) (n : Nat) (d : Slot) (first rows : Nat) (g : Gen) : Nat :=
  match coreGen g with
  | .extract _ => ((((s.fillBlocks d (d.opD 0) n).map (·.1)).idxOf 1) % d.perPool (d.opD 0) + 1) * (d.degree / 128)
  | .gather _ _ => d.limbUnit / 128
  | .index _ _ => 0
  | g => first + issuedRows g rows

/-- The first cycle of step i of a Sealed pattern program, from that of its core: a LOCAL step takes its rows and 40 cycles, an EXCHANGE
2071 beats and 24 cycles (R225). -/
def Slot.stepOffset (d : Slot) (i : Nat) : Nat :=
  sumOf ((List.range i).map fun j => let st := ppStep d.image j; if byteAt st 0 = 1 then field st 6 2 + 40 else 2095)

/-- What a pass needs beside its pools: of a PATTERN the images that the mover has read, one entry per cycle, up to the one of its first
row, and in the Sealed class its step's cycle (R71, R225); of a sort its keys; of an Open SCATTER the target map (R136). -/
def State.unitReady (s : State) (n : Nat) (r : RingId) (d : Slot) (src dst rows : Nat) (g : Gen) (c : Nat) : Bool :=
  let v := tget s.slices n {}
  match coreGen g with
  | .pattern e0 =>
    let step := ((s.localRole r d n src dst e0 rows).bind d.nextStep).getD 0
    !(s.ports.reqs.any fun q => q.r == r && q.p == d.idx && q.item == 9 && q.master == n) && decide (v.storeAt + e0 + 1 ≤ c) &&
      (!dSealed d.bytes || decide ((s.coreSpan d).1 + d.stepOffset step ≤ c))
  | .sorted kp => decide (v.readableAt kp ≤ c)
  | .index _ _ => !d.maps || v.tmap.isEmpty
  | _ => true

/-- A pass of descriptor d of ring r from pool src to pool dst may issue its first row in cycle c: the plan has it at this stage, its
pools are the descriptor's, the rows that it reads are complete, and the slice issues no other rows; a Sealed one, and a FLOOD's, no earlier
than its core begins (R54, R67, R109 to R111, R240). Between two limb slots the mover leaves a pool to a pass over those that it has filled. -/
def State.passReady (s : State) (n : SliceId) (r : RingId) (d : Slot) (src dst : PoolId) (g : Gen) (first rows : Nat) (ty : Byte)
    (q0 q1 : W64) (c : Nat) : Bool :=
  let v := s.slice n
  let a := v.pool src.val
  a.ready && a.user == some (r, d.holder) && (a.role == .free || a.role == .moverFill || a.role == .passSource || a.role == d.opc.fillRole) &&
    !v.fenced &&
    d.corrupt.isNone &&
    (match v.target src dst with
      | some m => v.writable a m.val && d.targetOk (v.pool m.val) (coreGen g)
      | none => false) &&
    decide (1 ≤ rows) && genRowsOk g first rows && s.planHas r d n.val src.val dst.val rows g && s.stageOk d a.stage g &&
    decide (s.readTo n.val d first rows g ≤ s.filledRows n.val src.val d) && s.lanesOk n.val src.val d first g ty q0 q1 &&
    decide (v.nextIssue (some (r, d.idx)) ≤ c) && decide (v.readableAt src.val ≤ c) && s.unitReady n.val r d src.val dst.val rows g c &&
    (!(dSealed d.bytes || d.opc == .flood) || decide ((s.coreSpan d).1 ≤ c))

/-- The places that a turner pass over the words of stack l writes: those that carry elements, from row `first` on (R116: the lanes that
pad a tile are never written). -/
def State.turnedPlaces (s : State) (d : Slot) (l first : Nat) : List (Nat × Nat) :=
  let ws := s.moveWords d 0
  let ps := if s.exchanged d 0 then (s.sendStream d ws l).zipIdx.map fun e => plainAt e.2
    else (d.tiles (ws.filter fun w => w.src == l)).map fun t => tileOut t.2.1 t.2.2.1 t.2.2.2
  ps.map fun p => (first + p.1, p.2)

/-- The words that a pass of descriptor d carries, with the FILL of its destination's layout card (R47, R59). -/
def State.wordsOfPass (s : State) (n : SliceId) (r : RingId) (d : Slot) (src : PoolId) (g : Gen) (first rows : Nat) (ty : Byte)
    (q0 q1 : W64) : List (Nat × W64) :=
  let v := s.slice n
  let ws := passWords v (s.planPass r d (s.heldPart n.val src.val d).2 first rows) (v.pool src.val) g (d.opD 4).card.fill.toNat first rows ty.toNat q0.toNat q1.toNat
  (if g = .turner then let ps := s.turnedPlaces d ((v.pool src.val).share.getD n.val) first; ws.filter fun w => ps.contains (w.1, w.2.1) else ws).map fun w =>
    (128 * w.1 + w.2.1, BitVec.ofNat 64 w.2.2)

/-- The slice with a pass issued in its first cycle: the pools take their roles (R54). -/
def Slice.startPass (v : Slice) (x : Pass) : Slice :=
  let a := v.pool x.src.val
  let v := v.updPool x.src.val fun p => { p with role := .passSource }
  let v := v.updPool x.dst.val fun p => { p with
    role := .passDest, user := a.user, hf := a.hf, ready := false, stage := stageAfter a.stage x.gen, share := shareAfter a.share x.gen }
  { v with passes := v.passes ++ [x], issued := some (x.start + x.rows, x.user) }

/-- The pass of a PASS_START. -/
def State.passOf (s : State) (n : SliceId) (r : RingId) (d : Slot) (src dst m : PoolId) (g : Gen) (first rows : Nat) (ty : Byte)
    (q0 q1 : W64) (c : Nat) : Pass :=
  { src := src, dst := m, gen := g, first := first, rows := issuedRows g rows, ty := ty, q0 := q0, q1 := q1, start := c
    words := s.wordsOfPass n r d src g first rows ty q0 q1, user := some (r, d.idx), back := if src = dst then some dst else none
    block := s.blockOf n.val src.val d (coreGen g) first rows }

/-- What a pass brings to its slice beside the pools: the entries of a PATTERN's share follow in the store on those of the passes before
it (R71, R124), and the target map takes the positions that an Open SCATTER sets in its instance (R136). -/
def State.passUnit (s : State) (n : SliceId) (r : RingId) (d : Slot) (src dst rows : Nat) (g : Gen) (v : Slice) : Slice :=
  match coreGen g with
  | .pattern e0 => v.loadStore (s.ringHost r) (tget d.aux ((s.localRole r d n.val src dst e0 rows).getD n.val) [])
  | .index l _ => if d.maps then { v with tmap := (s.entries r d l).foldl (fun t e => tput t e.2.1 true) [] } else v
  | _ => v

/-- The descriptor with a LOCAL step of its program begun (R124). -/
def State.takeLocal (s : State) (n : Nat) (r : RingId) (d : Slot) (src dst rows : Nat) (g : Gen) : State :=
  match coreGen g with
  | .pattern e0 =>
    match s.localRole r d n src dst e0 rows with
    | some m => s.updSlot r d.idx fun x => { x with steps := tput x.steps m ((d.nextStep m).getD 0 + 1) }
    | none => s
  | _ => s

/-- PASS_START (R59, R65 to R67). -/
def execPassStart (n : SliceId) (src dst : PoolId) (g : Gen) (first rows : Nat) (ty : Byte) (q0 q1 : W64) (c : Nat) (s : State) : Res :=
  onPclk s fun _ =>
  onSlice s n fun _ =>
    let s := s.toPclk c
    match ((s.slice n).pool src.val).user, (s.slice n).target src dst with
    | some u, some m =>
      match s.runner u with
      | some d =>
        let s' := s.updSlice n (s.passUnit n u.1 d src.val dst.val rows g)
        if s.passReady n u.1 d src dst g first rows ty q0 q1 c then
          .next ((s'.takeLocal n.val u.1 d src.val dst.val rows g).updSlice n fun v =>
            v.startPass (s'.passOf n u.1 d src dst m g first rows ty q0 q1 c))
        else .next s
      | none => .next s
    | _, _ => .next s

/-- The cycle in which a pass signals its end (R65, R75). -/
def Pass.endAt (x : Pass) : Nat := x.start + passDepth x.gen x.rows

/-- The pass into pool dst that ends in cycle c. -/
def Slice.endingPass (v : Slice) (dst c : Nat) : Option Pass := v.passes.find? fun x => x.dst.val == dst && x.endAt == c

/-- The slice after a pass has ended in cycle c: its words lie in the destination pool, which is released with role `rest` unless
another pass still writes it (R54, R65). -/
def Slice.endPass (v : Slice) (x : Pass) (rest : Role) (c : Nat) : Slice :=
  let left := v.passes.erase x
  let v := { v with passes := left, ends := tput v.ends x.dst.val c }
  v.updPool x.dst.val fun y =>
    let busy := left.any fun z => z.dst == x.dst
    { y with
      data := x.words.foldl (fun t w => tset 0 t w.1 w.2) y.data, role := if busy then .passDest else rest, ready := !busy, holds := none
      drains := y.drains ++ if x.back.isSome then [] else x.block }

/-- The second pass of one that reads and writes one pool: back from the free pool, row by row (R54). -/
def Slice.secondPass (v : Slice) (x : Pass) (dst : PoolId) (c : Nat) : Slice :=
  v.startPass { src := x.dst, dst := dst, gen := .seq, first := x.first, rows := x.rows, ty := x.ty, q0 := x.q0, q1 := x.q1
                start := max (c + 1) (v.nextIssue x.user), words := x.words, user := x.user, block := x.block }

/-- A pool that its passes have released: the mover begins to drain the blocks that they have written whole, and the instance of an Open
SCATTER that has nothing to drain is over (R110, R136). -/
def State.drainBlocks (s : State) (n k c : Nat) : State :=
  let p := s.pool n k
  match p.user.bind fun u => (s.runner u).map fun d => (u.1, d) with
  | none => s
  | some e =>
    if p.role != .free || (p.drains.isEmpty && !e.2.maps) then s else s.startDrain e.1 e.2 n k c

/-- PASS_END (R54, R65, R67, R110). -/
def execPassEnd (n : SliceId) (dst : PoolId) (c : Nat) (s : State) : Res :=
  onPclk s fun _ =>
  onSlice s n fun _ =>
    let s := s.toPclk c
    match (s.slice n).endingPass dst.val c with
    | none => .next s
    | some x =>
      let t := s.updSlice n fun v =>
        let v := v.endPass x (s.restRole n.val dst.val) c
        match x.back with
        | none => v
        | some b => v.secondPass x b c
      .next (t.drainBlocks n.val dst.val c)

/-! ### Exchanges -/

/-- One round sends from each slice to at most one, and to each from at most one, among the participants (R80); a slice that sends no
word is idle. -/
def roundOk (rd : Round) (slices : List Nat) : Bool :=
  let rd := Round.plain rd
  let sends := slices.filterMap fun n => let d := rd.dst.getD n 31; if d = 31 then none else some d
  sends.all slices.contains && (List.range 24).all fun d => decide ((sends.filter fun x => x == d).length ≤ 1)

/-- Every stream is long enough for the words that the rounds give it. -/
def State.streamsOk (s : State) (r : RingId) (d : Slot) (e : ExchSpec) : Bool :=
  e.slices.all fun n =>
    let out := sumOf (((s.xfers e).filter fun t => t.src == n).map Xfer.words)
    ((d.opc == .baseconv && e.send.isEmpty) || decide (out ≤ streamLen (s.sendOf r d e n).2)) && decide (s.wordsTo e n ≤ streamLen (s.recvOf r d e n).2)

/-- The slices whose ports an exchange takes: those that act for its participants (R88, R91). -/
def State.portsOf (s : State) (e : ExchSpec) : List Nat := distinctBelow 24 (e.slices.filterMap s.server)

/-- The running exchanges, and the waiting ones dispatched earlier, leave the ports of an exchange to descriptor d from some cycle on,
and no started Sealed descriptor holds them (R88, R89). -/
def State.portsLeft (s : State) (r : RingId) (d : Slot) (x : Nat) (e : ExchSpec) : Bool :=
  let ps := s.portsOf e
  (s.flue.exch.all fun y => y.x != x) &&
    (s.flue.waits.all fun w => w == (r, d.idx) || match s.slotOf w.1 w.2 with
      | some z => decide (d.turn ≤ z.turn) || !meetsList z.flue ps
      | none => true) &&
    !(s.allSlots.any fun z => (z.1 != r || z.2.idx != d.idx) && z.2.phase.active && dSealed z.2.bytes && meetsList z.2.flue ps)

/-- The cycle from which the ports are free of running exchanges, and of those and the Sealed descriptors that have held them (R88,
R89). -/
def State.portsAt (s : State) (e : ExchSpec) : Nat :=
  max (maxOf ((s.flue.exch.filter fun y => meetsList (s.portsOf y.spec) (s.portsOf e)).map fun y => y.start + y.beats))
    (maxOf ((s.portsOf e).map fun n => tget s.flue.freeAt n 0))

/-- The beat in which slice n's stream first reaches word w, sending or receiving; none when it never does. -/
def State.beatOf (s : State) (e : ExchSpec) (n w : Nat) (sending : Bool) : Option Nat :=
  ((s.xfers e).find? fun t =>
    let o := if sending then t.out else t.into
    (if sending then t.src else t.dst) == n && decide (o ≤ w) && decide (w < o + t.words)).map fun t =>
      t.beat + (w - if sending then t.out else t.into) / s.beatWords

/-- The cycle from which a send pool may be read: after the passes that write it, which may still run; none when it is not the
descriptor's or nothing completes it (R82). -/
def State.sendFrom (s : State) (r : RingId) (d : Slot) (g : Nat × Nat) : Option Nat :=
  let v := tget s.slices g.1 {}
  let p := v.pool g.2
  if p.user != some (r, d.holder) then none
  else if p.role = .passDest then some (maxOf ((v.passes.filter fun x => x.dst.val == g.2).map Pass.endAt) + 1)
  else if p.role = .free ∧ p.ready = true then some (v.readableAt g.2) else none

/-- The cycle from which a receive pool may be written: after the passes that read it, which may still run (R82). -/
def State.recvFrom (s : State) (r : RingId) (d : Slot) (g : Nat × Nat) : Option Nat :=
  let v := tget s.slices g.1 {}
  let p := v.pool g.2
  if p.user != some (r, d.holder) || p.kept.isSome || !(p.hf.isNone || p.hf == some (s.ringHost r)) then none
  else if p.role = .passSource then some (maxOf ((v.passes.filter fun x => x.src.val == g.2).map fun x => x.start + x.rows + 7))
  else if p.role = .free then some (((v.frees.find? fun e => e.1 == g.2).map (·.2 + 1)).getD 0) else none

/-- The cycle, from the exchange's start, in which the first row of slice n's receive stream from word w on is written: once its last word
has arrived, 24 cycles after its first beat at the latest (R79, R81). -/
def State.firstWrite (s : State) (e : ExchSpec) (n w : Nat) : Option Nat :=
  (s.beatOf e n w false).map fun b =>
    match s.beatOf e n (min (w / 128 * 128 + 127) (s.wordsTo e n - 1)) false with
    | some z => min (b + 24) (z + 23)
    | none => b + 24

/-- The earliest start that the segments of slice n leave: each is first read, or first written, no earlier than its pool allows
(R82). -/
def State.startFor (s : State) (r : RingId) (d : Slot) (e : ExchSpec) (n : Nat) : Option Nat :=
  let send := (streamPools (s.sendOf r d e n)).map fun g => (s.sendFrom r d g.1, s.beatOf e n g.2.1 true)
  let recv := (streamPools (s.recvOf r d e n)).map fun g => (s.recvFrom r d g.1, s.firstWrite e n g.2.1)
  (send ++ recv).foldl (fun a x => match a, x.2 with
    | none, _ => none
    | some m, none => some m
    | some m, some b => x.1.map fun c => max m (c - b)) (some 0)

/-- The first cycle of an exchange of a Sealed descriptor, from that of its core: after the passes of its published terms that come before
it, the step's of a PATTERN, and for a BASECONV's exchange-out after the 512 cycles of Table 07-12 (R111, R224, R225). -/
def State.exchangeOffset (s : State) (d : Slot) (e : ExchSpec) : Nat :=
  let rows := s.maxRows false (d.opD 0)
  match d.opc with
  | .pattern => d.stepOffset ((d.nextStep (e.slices.headD 0)).getD 0)
  | .baseconv => if e.send.isEmpty then 512 else 0
  | op => if op.movesWhole then (if d.turned then 2 * rows + 88 else rows + 40) else 0

/-- The earliest cycle T of R82, for a Sealed descriptor in its place in the core (R111); none while a pool is not to be had. -/
def State.earliestStart (s : State) (r : RingId) (d : Slot) (e : ExchSpec) : Option Nat :=
  e.slices.foldl (fun a n => match a, s.startFor r d e n with
    | some m, some c => some (max m c)
    | _, _ => none) (some (max (s.portsAt e) (max d.start (if dSealed d.bytes then (s.coreSpan d).1 + s.exchangeOffset d e else 0))))

/-- The send pools of a move, from which words are sent, stand at the stage before its exchange: gathered rows, or turned ones (Table
05-3). -/
def State.sendStages (s : State) (r : RingId) (d : Slot) (e : ExchSpec) : Bool :=
  !(d.opc.movesWhole || d.opc.pairs) || e.slices.all fun n =>
    !s.live n || (streamPools (s.sendOf r d e n)).all fun g =>
      (s.beatOf e n g.2.1 true).isNone || (s.pool g.1.1 g.1.2).stage == if d.turned then 2 else 1

/-- The exchange is one of descriptor d's plan, its streams hold its words, and slices serve all its participants (R80, R109). -/
def State.exchangeFits (s : State) (r : RingId) (d : Slot) (e : ExchSpec) : Bool :=
  d.phase == .started && d.bound && d.corrupt.isNone && s.sendStages r d e && s.planesOut != 15 && s.planExchanges d e && (e.slices.all fun n => (s.server n).isSome) &&
    (e.rounds.all fun rd => roundOk rd e.slices) && s.streamsOk r d e

/-- An exchange of descriptor d starts in cycle c: the earliest one; that of a BASECONV whose words come out of the Retort, in a cycle
from then on, since the rules give no cycle in which the Retort's words are there (R82, R88, R154; log 71). -/
def State.exchangeReady (s : State) (x : Nat) (r : RingId) (d : Slot) (e : ExchSpec) (c : Nat) : Bool :=
  s.exchangeFits r d e && s.portsLeft r d x e &&
    match s.earliestStart r d e with
    | some m => decide (m = c) || (d.opc == .baseconv && e.send.isEmpty && decide (m ≤ c))
    | none => false

/-- The exchange starts: its pools take the Flue's role as soon as their passes have released them (R54), its length is fixed (R80,
R83, R90, R91). -/
def State.startExchange (s : State) (x : Nat) (r : RingId) (d : Slot) (e : ExchSpec) (c : Nat) : State :=
  let pools := e.slices.flatMap fun n => (streamPools (s.sendOf r d e n) ++ streamPools (s.recvOf r d e n)).map (·.1)
  let y : Exch := { x := x, spec := e, start := c, beats := s.exchangeBeats e, user := (r, d.idx), hf := s.ringHost r }
  let s := pools.foldl (fun s k => s.updPool k.1 k.2 fun v => if v.role = .free then { v with role := .flue } else v) s
  let s := if d.opc = .pattern then s.updSlot r d.idx fun z => { z with
      steps := e.slices.foldl (fun t m => tput t m ((d.nextStep m).getD 0 + 1)) z.steps } else s
  { s with flue := { s.flue with exch := s.flue.exch ++ [y], waits := s.flue.waits.filter fun w => w != (r, d.idx), now := min s.flue.now c } }

/-- EXCHANGE_START (R82, R88). An exchange whose ports are taken waits in the order of dispatch. -/
def execExchangeStart (x : Fin 4) (r : RingId) (p : W32) (e : ExchSpec) (c : Nat) (s : State) : Res :=
  onPclk s fun _ =>
  let s := s.toPclk c
  match s.slotOf r p with
  | none => .next s
  | some d =>
    if s.exchangeReady x.val r d e c then .next (s.startExchange x.val r d e c)
    else if s.exchangeFits r d e && !s.flue.waits.contains (r, p) then
      .next { s with flue := { s.flue with waits := s.flue.waits ++ [(r, p)] } }
    else .next s

/-- The running exchange x whose delivery may be complete in cycle c: after its last beat, no later than T + E + 23 (R81). -/
def State.delivering (s : State) (x c : Nat) : Option Exch :=
  s.flue.exch.find? fun y => y.x == x && decide (y.start + y.beats ≤ c) && decide (c ≤ y.start + y.beats + 23) && y.sent == y.beats

/-- The exchange has delivered every word: what its flits still carry enters the receive pools, which may be read. -/
def State.endExchange (s : State) (y : Exch) (c : Nat) : State :=
  let t := (s.landAll (c + 23) c y).freePorts (s.portsOf y.spec) (y.start + y.beats)
  ({ t with flue := { t.flue with exch := t.flue.exch.filter fun z => z.x != y.x } } : State).holdPlane

/-- EXCHANGE_DELIVERED (R79, R81). -/
def execExchangeDelivered (x : Fin 4) (c : Nat) (s : State) : Res :=
  onPclk s fun _ =>
  let s := s.toPclk c
  match s.delivering x.val c with
  | none => .next s
  | some y => .next (s.endExchange y c)

/-- POOL_WIPE_COMPLETE (R11, R58): every word is 0 and the pool holds no host function's data; it stays bound to the descriptor for
which it was wiped. -/
def execPoolWipeComplete (n : SliceId) (k : PoolId) (s : State) : Res :=
  onPclk s fun _ =>
  onSlice s n fun _ =>
    if (s.pool n.val k.val).role = .wipe then .next (s.updPool n.val k.val fun v => { user := v.user }) else .next s

end Sys2Proof.Machine
end

