-- ==== Sys2Proof/Machine/FaultRows.lean ====
section
/-! DEFINITION. The rows of 14: faults at their detection points (R329 to R331), HEALTH's decision and the replay (R332 to
R335), fences asked for by firmware (R337 to R340, R362). -/

namespace Sys2Proof.Machine

/-! ### UNCORRECTABLE_WORD (Table 14-1) -/

/-- An uncorrectable word in a Rick pool: the slice is hard-faulted by a second one in the pool within 1 s, or at the same
pool, bank and row at any time (Table 14-2). -/
def State.rickUe (s : State) (n k bank row f : Nat) (r : RingId) (p : W32) : State :=
  let pool := n * 8 + k
  let cell := (pool * 128 + bank) * 1024 + row
  let hard := s.repeated 0 pool f || s.repeated 1 cell f
  let v := (tget s.slices n {}).pool k
  (((((s.countUncorrectable 0).sliceUe n (ueWord 1 row bank k)).noteHard 0 pool f).noteHard 1 cell f).loseKept fun x => x == v).strike
    hard (unitSlice n) causeWord r p

/-- An uncorrectable word in another unit of slice n: UNIT of Table 15-25, kind of Table 13-11, cause of the replay. -/
def State.unitUe (s : State) (n unit kind cause f : Nat) (r : RingId) (p : W32) : State :=
  ((s.countUncorrectable kind).sliceUe n (ueWord unit 0 0 0)).attributed 2 n (unitSlice n) cause f r p

/-- The pattern store of slice n is loaded again from the image captured at pre-check (Table 14-1, R72). -/
def State.reloadStore (s : State) (n : Nat) (r : RingId) (p : W32) : State :=
  match s.slotOf r p with
  | some d =>
    if d.running ∧ d.opc = .pattern then
      { s with slices := tupd s.slices n {} fun v => v.loadStore (s.ringHost r) (tget d.aux n []) }
    else s
  | none => s

/-- An uncorrectable flit or side band on plane q: FLUE_ERRq.UNCORR (Table 15-26). -/
def State.flitUe (s : State) (q f : Nat) (r : RingId) (p : W32) : State :=
  (({ s with flue := { s.flue with err := tcount s.flue.err (4 * q + 1) 16 1 } } : State).countUncorrectable 2).attributed 5 q
    (unitPlane q) causeWord f r p

/-- A descriptor whose entry is lost and which is run again (R332): started, or its record waits in the collector. FENCE and SIGNAL are
never replayed (R334). -/
def Slot.rerunnable (d : Slot) : Bool :=
  !d.isFence && !d.isSignal && (d.phase == .started || d.phase == .ran || (d.phase == .recorded && (d.charged || d.dur != 0)))

/-- What Stoke does for a lost entry (Table 14-1): a descriptor that can be run again is, with its chain, or alone when the chain's first
record has been written; one that ended without a
start ends so again; one that has not started is fetched again, an Open chain whole (DEDUCED, log 93). -/
def State.loseSlot (s : State) (r : RingId) (d : Slot) (unit : Option Nat) : State :=
  if d.rerunnable then s.abortAll r (if s.partly r d then [d] else (s.unit r d).filter fun e => e.phase.begun) causeWord unit
  else if d.isFence || d.isSignal || d.phase.begun then
    if d.phase = .recorded ∧ !d.isFence ∧ !d.isSignal ∧ d.dur = 0 then
      s.updSlot r d.idx fun x => { x with phase := .checked, queue := none }
    else s.repeatSignal r d.idx
  else s.returnFrom r (if dSealed d.bytes then d.idx else d.holder)

/-- A lost entry of a context, of a reorder slot or of the collector; the fault is attributed to the quarter of the ring, which HEALTH
fences at once when no replay is to be decided (Table 14-1, R333). -/
def State.entryUe (s : State) (f : Nat) (r : RingId) (p : W32) : State :=
  match s.quarterOf r with
  | none => s
  | some q =>
    let hard := s.repeated 6 q f
    let t := s.noteHard 6 q f
    match s.slotOf r p with
    | none => t.fenceIf hard (unitQuarter q) causeWord
    | some d =>
      if d.rerunnable then t.loseSlot r d (if hard then some (unitQuarter q) else none)
      else (t.loseSlot r d none).fenceIf hard (unitQuarter q) causeWord

/-- Every bit of word w of the pending vector is set (Table 14-1). -/
def State.fillPending (s : State) (w : Nat) : State :=
  (List.range 64).foldl (fun s i => s.updRing (Fin.ofNat 65536 (64 * w + i)) fun x => { x with pend := true }) s

/-- Entry i of the translation cache is invalidated and requested again; a pinned one stays pinned meanwhile (Table 14-1, R37). -/
def State.loseEntry (s : State) (i : Nat) : State :=
  match s.xl.cache[i]? with
  | none => s
  | some e =>
    let cache := if e.pins.isEmpty then s.xl.cache.eraseIdx i else s.xl.cache.set i { e with lost := true }
    ({ s with xl := { s.xl with cache := cache } } : State).requestPage ⟨e.hf, e.pasid, e.iova⟩

/-- A place at which the word found belongs to a descriptor's work. -/
def placeOfDescriptor : Place → Bool
  | .pendingVector _ => false
  | .syncCounter _ _ => false
  | .xlateCache _ => false
  | .bellowsSram _ => false
  | _ => true

/-- UNCORRECTABLE_WORD (R329, R58, R72, R78, R169, R334). -/
def execUncorrectableWord (pl : Place) (r : RingId) (p : W32) (f : Nat) (s : State) : Res :=
  let s := s.atFclk f
  if placeOfDescriptor pl && s.fenceAborted r p then .next s
  else match pl with
  | .rick n k b w => onSlice s n fun _ => .next (s.rickUe n.val k.val b.val w.val s.clk.fclk r p)
  | .kiln n => onSlice s n fun _ => .next (s.unitUe n.val 2 1 causeWord s.clk.fclk r p)
  | .turner n => onSlice s n fun _ => .next (s.unitUe n.val 3 1 causeWord s.clk.fclk r p)
  | .tileFile n => onSlice s n fun _ => .next (s.unitUe n.val 4 4 causeWord s.clk.fclk r p)
  | .charRegs n => onSlice s n fun _ => .next (s.unitUe n.val 4 4 causeWord s.clk.fclk r p)
  | .accumulators n => onSlice s n fun _ => .next (s.unitUe n.val 4 4 causeWord s.clk.fclk r p)
  | .patternStore n => onSlice s n fun _ => .next ((s.reloadStore n.val r p).unitUe n.val 5 5 causePattern s.clk.fclk r p)
  | .flit q => .next (s.flitUe q.val s.clk.fclk r p)
  | .directLane n => onSlice s n fun _ => .next (s.laneUe n.val s.clk.fclk r p)
  | .bypass n => onSlice s n fun _ => .next (s.pathUe r p)
  | .hostPath => .next (s.pathUe r p)
  | .stokeEntry => .next (s.entryUe s.clk.fclk r p)
  | .pendingVector w => .next (s.fillPending w.val)
  | .syncCounter _ _ => .next s
  | .xlateCache i => .next (s.loseEntry i)
  | .bellowsSram c => .next ((s.countUncorrectable 6).faultOf c 3)
  | .signalWrite => .next (s.repeatSignal r p)

/-! ### The other detection points -/

/-- A residue mismatch in slice n (R146, R216): RESID, and the Ledger's count. -/
def State.residue (s : State) (n f : Nat) (r : RingId) (p : W32) : State :=
  (({ s with slices := tupd s.slices n {} fun v => { v with resid := sat 8 (v.resid + 1) } } : State).ledgerError 50 1).attributed 3 n
    (unitSlice n) causeResidue f r p

/-- RESIDUE_MISMATCH (R146, R216). -/
def execResidueMismatch (n : SliceId) (r : RingId) (p : W32) (f : Nat) (s : State) : Res :=
  onSlice s n fun _ =>
    let s := s.atFclk f
    if s.fenceAborted r p then .next s else .next (s.residue n.val s.clk.fclk r p)

/-- Port n of plane q has starved (R87): FLUE_ERRq.STARVE, and the count of the port on that plane. -/
def State.starve (s : State) (q n f : Nat) (r : RingId) (p : W32) : State :=
  ({ s with flue := { s.flue with
      err := tcount s.flue.err (4 * q) 16 1, starved := tcount s.flue.starved (4 * n + q) 64 1 } } : State).attributed 5 q
    (unitPlane q) causeStarve f r p

/-- CREDIT_STARVATION (R87). -/
def execCreditStarvation (pl : PlaneId) (n : SliceId) (cycles : Nat) (r : RingId) (p : W32) (f : Nat) (s : State) : Res :=
  onPclk s fun _ =>
  onSlice s n fun _ =>
    let s := s.atFclk f
    if 64 ≤ cycles ∧ s.fenceAborted r p = false then .next (s.starve pl.val n.val s.clk.fclk r p) else .next s

/-- The pass into pool dst whose end was due in the cycle before c (R330). -/
def Slice.latePass (v : Slice) (dst c : Nat) : Option Pass := v.passes.find? fun x => x.dst.val == dst && x.endAt + 1 == c

/-- PASS_END_WATCHDOG (R330): the slice is hung, a hard fault at once. -/
def execPassEndWatchdog (n : SliceId) (dst : PoolId) (c : Nat) (f : Nat) (s : State) : Res :=
  onPclk s fun _ =>
  onSlice s n fun _ =>
    let s := (s.atPclk c).atFclk f
    match (s.slice n).latePass dst.val c with
    | none => .next s
    | some x =>
      match x.user with
      | some u => .next (s.strike true (unitSlice n.val) causeHung u.1 u.2)
      | none => .next (s.fenceIf true (unitSlice n.val) causeHung)

/-- The started descriptors of slice n: those that have left its issue queue. -/
def State.runningOn (s : State) (n : Nat) : List (RingId × Slot) :=
  s.allSlots.filter fun e => e.2.running && e.2.bound && e.2.slices.contains n

/-- Slice n holds a started descriptor, and its mover has no request outstanding (R330). -/
def State.idleWith (s : State) (n : Nat) : Bool :=
  !(s.runningOn n).isEmpty && s.ports.reqs.all fun q => q.master != n

/-- PROGRESS_WATCHDOG (R330): the descriptors on a hung slice are aborted. -/
def execProgressWatchdog (n : SliceId) (cycles : Nat) (f : Nat) (s : State) : Res :=
  onPclk s fun _ =>
  onSlice s n fun _ =>
    let s := s.atFclk f
    if 65536 ≤ cycles ∧ s.idleWith n.val then
      .next ((s.runningOn n.val).foldl (fun s e => s.abortNamed e.1 e.2.idx causeHung (some (unitSlice n.val))) s)
    else .next s

/-- QUARTER_FETCH_WATCHDOG (R336): a hard fault at once, of cause 4. -/
def execQuarterFetchWatchdog (q : QuarterId) (f : Nat) (s : State) : Res :=
  onPclk s fun _ =>
  .next ((s.atFclk f).fenceIf true (unitQuarter q.val) causeHung)

/-- The code of a port in 0x6003 (R331). -/
def portCode (port : PortId) : Nat := port.val

/-- A request is found overdue: counted, and logged once while the port has overdue ones (R331). -/
def State.markOverdue (s : State) (q : Req) (c : Nat) : State :=
  let first := !(s.ports.reqs.any fun x => x.port == q.port && x.overdue)
  let s : State := { s with ports := { s.ports with reqs := s.ports.reqs.map fun x => if x = q then { x with overdue := true } else x } }
  let s := (s.ledgerError 51 1).teleGlobal 13 1
  if first then s.logEntry .log 0x6003 2 none (portCode q.port) (c - q.issued) else s

/-- REQUEST_OVERDUE (R331): of a descriptor fetch too. -/
def execRequestOverdue (port : PortId) (m : Nat) (tag : Fin 512) (wr : Bool) (c : Nat) (s : State) : Res :=
  onPclk s fun _ =>
  let s := s.atPclk c
  match s.ports.reqs.find? fun q => q.port == port && q.master == m && q.tag == some tag && q.wr == wr with
  | none => .next s
  | some q => if q.issued + 2400000 ≤ c && !q.overdue then .next (s.markOverdue q c) else .next s

/-! ### Replay -/

/-- HEALTH's decision: a hard-faulted unit is fenced first (R333). -/
def State.decideReplay (s : State) (r : RingId) (d : Slot) : State :=
  let s := match d.unit with
    | some code => s.fenceUnit code (fenceCause d.cause)
    | none => s
  (s.unit r d).foldl (fun s e => s.updSlot r e.idx fun x =>
    if x.phase = .aborted then { x with phase := .decided, unit := none } else x) s

/-- REPLAY_DECISION (R333). -/
def execReplayDecision (r : RingId) (p : W32) (f : Nat) (s : State) : Res :=
  let s := s.atFclk f
  match s.slotOf r p with
  | none => .next s
  | some d => if d.phase == .aborted && s.compRuns .health then .next (s.decideReplay r d) else .next s

/-- The members of a unit that are replayed. -/
def State.replaySet (s : State) (r : RingId) (d : Slot) : List Slot := ((s.unit r d).filter fun e => e.phase == .decided).map s.planned

/-- A FLOOD's shares can be delivered again: Ember has its checkpoint and is not isolated, and no other FLOOD holds its share
units (R236, R239). -/
def State.sharesOk (s : State) (r : RingId) (d : Slot) : Bool :=
  d.opc != .flood || d.status != stDone ||
    ((s.emb.ckpts.any fun c => c.r == r && c.p == d.idx) && !s.emb.isolated &&
      (s.afterMate r d || d.slices.all fun n => !s.shareBusy r d.idx n))

/-- A descriptor may be replayed: no orphan, and its shares are at hand (R337, R338). -/
def State.replayOk (s : State) (r : RingId) (d : Slot) : Bool := !s.needsOrphan d && s.sharesOk r d

/-- Ember's checkpoint of a FLOOD (R236). -/
def State.ckptOf (s : State) (r : RingId) (d : Slot) : Option Checkpoint := s.emb.ckpts.find? fun c => c.r == r && c.p == d.idx

/-- Ember restores a FLOOD's checkpoint and delivers the same shares again (R236, R246). -/
def State.redeliver (s : State) (r : RingId) (d : Slot) : State :=
  match s.ckptOf r d with
  | some c => if d.opc = .flood then s.giveShares (s.ringHost r) d.slices c.key else s
  | none => s

/-- One descriptor is dispatched again, with its snapshots; a Sealed one and a FLOOD keep their start (R335, R240), a FLOOD
has its shares again. A refusal has nothing to run: it is complete at once. -/
def State.replayOne (s : State) (r : RingId) (d : Slot) : State :=
  let later := s.afterMate r d
  let s' := if later then s.rebuild r d else (s.rebuild r d).redeliver r d
  if d.status = stDone then
    (s'.startSlot r { d with keyed := decide (d.opc = .flood) && !later }).updSlot r d.idx fun e =>
      { e with start := if dSealed d.bytes || d.opc == .flood then d.start else e.start }
  else s'.updSlot r d.idx fun e => { e with phase := .ran, doneAt := some s.clk.pclk }

/-- Counters of Table 14-7 for a replay cause: host page offset / 8, global page offset / 8, and the Ledger's word. -/
def replayCounters (cause : Nat) : Nat × Nat × Nat :=
  if cause ≤ 4 then (1 + cause, 8 + cause, 13 + cause) else (29 + cause, 11 + cause, 47 + cause)

/-- A replay is counted (R347). -/
def State.countReplay (s : State) (h : HF) (cause : Nat) : State :=
  let k := replayCounters cause
  (((s.teleHost h 1 1).teleHost h k.1 1).teleGlobal k.2.1 1).ledgerError k.2.2 1

/-- REPLAY (R332, R334, R335): HEALTH has decided for every member. -/
def execReplay (r : RingId) (p : W32) (c : Nat) (s : State) : Res :=
  onPclk s fun _ =>
  let s := s.atPclk c
  match s.slotOf r p with
  | none => .next s
  | some d =>
    let ds := s.replaySet r d
    if d.phase == .decided && ((s.unit r d).all fun e => e.phase != .aborted) && s.roomFor r ds && ds.all (s.replayOk r) && !s.ctl.inReset then
      .next (ds.foldl (fun s e => s.replayOne r e) (s.countReplay (s.ringHost r) d.cause)).bindWaiting
    else .next s

/-! ### Fences that firmware asks for -/

/-- A write of HSn_FENCE that takes effect: HEALTH and TEST write it, of a slice that the variant has (R362, R3). -/
def State.fenceWrites (s : State) (who : Who) (n : Nat) : Bool := s.writes who (.slice n) && decide (n < s.nslices)

/-- FREQ (R337, R338, R362). -/
def execFreq (who : Who) (n : SliceId) (cause : Nat) (s : State) : Res :=
  if s.fenceWrites who n.val then .next (s.hardFence n.val cause) else .next (s.denied who (.slice n.val))

/-- TFENCE (R338, R362). -/
def execTfence (who : Who) (n : SliceId) (s : State) : Res :=
  if s.fenceWrites who n.val then .next (s.testFence n.val) else .next (s.denied who (.slice n.val))

/-- TRET (R362). -/
def execTret (who : Who) (n : SliceId) (s : State) : Res :=
  if s.fenceWrites who n.val then .next (s.returnSlice n.val) else .next (s.denied who (.slice n.val))

/-- FLUE_FENCE_FREQ (R339). -/
def execFlueFenceFreq (who : Who) (mask : BitVec 4) (cause : Nat) (s : State) : Res :=
  if s.writes who .flue then .next (s.fencePlanes mask cause) else .next (s.denied who .flue)

/-- QFREQ (R340). -/
def execQfreq (who : Who) (mask : BitVec 4) (cause : Nat) (s : State) : Res :=
  if s.writes who .stoke then .next (s.fenceQuarters mask cause) else .next (s.denied who .stoke)

end Sys2Proof.Machine
end

