-- ==== Sys2Proof/Machine/Damper.lean ====
section
/-! DEFINITION. The Damper: its sensors, its rules (R376, Table 16-7), pclk steps (R369) and the voltage that goes with them
(R374), the substitution of sensors (R343). -/

namespace Sys2Proof.Machine

/-! ### Readings -/

/-- A temperature in the signed 8.8 format of PTU_TSt. -/
def celsius (t : Int) : Int := t * 256

/-- The larger of two readings. -/
def hotter (a : Option (Nat × Int)) (b : Nat × Int) : Option (Nat × Int) :=
  match a with
  | none => some b
  | some x => if x.2 < b.2 then some b else some x

/-- The hottest valid sensor and its reading (Table 15-13); a substituted sensor's own reading counts only where no other is
valid. -/
def State.hottest (s : State) : Option (Nat × Int) :=
  let read (ts : List Nat) : Option (Nat × Int) := ts.foldl (fun a t => hotter a (t, (s.sensor t).temp)) none
  match read (s.sensors.filter fun t => (s.sensor t).valid && !(s.sensor t).subst) with
  | some x => some x
  | none => read (s.sensors.filter fun t => (s.sensor t).valid)

/-- The hottest reading that enters the rules: a substituted sensor reads 5 °C above the highest valid one (R343). -/
def State.hotReading (s : State) : Int :=
  match s.hottest with
  | none => 0
  | some x => if s.sensors.any fun t => (s.sensor t).subst then x.2 + celsius 5 else x.2

/-- A sample updates every sensor that is not being calibrated; one that reads more than 20 °C from both neighbours is
substituted until its next calibration (R343). -/
def State.sampleSensors (s : State) (temps : List Int) : State :=
  let ts := s.sensors.filter fun t => !(s.sensor t).cal
  let s := ts.foldl (fun s t => s.updSensor t fun x => { x with temp := temps.getD t 0, valid := true }) s
  (ts.filter fun t => s.farReading t (s.sensor t).temp && !(s.sensor t).subst).foldl (fun s t =>
    (s.updSensor t fun x => { x with subst := true }).logSensor t) s

/-! ### Issue gaps -/

/-- Started descriptors in the queue of slice n that use the Flue. -/
def State.exchangeLoad (s : State) (n : Nat) : Nat :=
  (s.allSlots.filter fun e => e.2.phase.active && e.2.slices.contains n && e.2.flue.contains n).length

/-- The slices whose queues hold the most exchange work. -/
def State.busiest (s : State) : List Nat :=
  let ns := (List.range s.nslices).filter s.live
  let top := maxOf (ns.map s.exchangeLoad)
  ns.filter fun n => s.exchangeLoad n == top

/-- Some slices issue with a gap of g cycles from fclk count f on. -/
def State.setGaps (s : State) (ns : List Nat) (g f : Nat) : State :=
  { ns.foldl (fun (s : State) n => { s with slices := tupd s.slices n {} fun v => { v with gap := g } }) s with
    dmp := { s.dmp with gap := g, gapAt := f } }

/-- The slices that issue with a gap. -/
def State.gapped (s : State) : List Nat := (List.range s.nslices).filter fun n => (tget s.slices n {}).gap != 0

/-- 1 ms, 200 µs in fclk counts. -/
def ms1 : Nat := 1200000
def us200 : Nat := 240000

/-- Time since when a condition holds. -/
def since (holds : Bool) (f : Nat) (t : Option Nat) : Option Nat := if holds then some (t.getD f) else none

/-- A condition has held for n counts at count f. -/
def heldFor (t : Option Nat) (n f : Nat) : Bool := t.any fun x => decide (x + n ≤ f)

/-- The first rule of Table 16-7: gaps of 64 cycles above 330 W, doubled each 1 ms up to 1024, removed after 1 ms below
300 W. -/
def State.gapRule (s : State) (watts f : Nat) : State :=
  let s : State := { s with dmp := { s.dmp with
    lowAt := since (decide (watts < 300)) f s.dmp.lowAt
    gapAt := if watts ≤ 330 then f else s.dmp.gapAt
    overAt := since (decide (330 < watts) && s.dmp.gap == 1024) f s.dmp.overAt } }
  if 330 < watts then
    if s.dmp.gap = 0 then s.setGaps s.busiest 64 f
    else if s.dmp.gap < 1024 ∧ s.dmp.gapAt + ms1 ≤ f then s.setGaps s.gapped (2 * s.dmp.gap) f
    else s
  else if s.dmp.gap ≠ 0 ∧ heldFor s.dmp.lowAt ms1 f then s.setGaps s.gapped 0 f
  else s

/-! ### Steps and voltage -/

/-- The avs_req code for a step: 20 in TINDER and KINDLING, two below the base for each step otherwise (R374). -/
def State.codeFor (s : State) (step : Nat) : Nat := if s.fbWritable || s.ctl.stage == .reset then 20 else s.dmp.base - 2 * step

/-- Requests a VDD_PTU target (R374). -/
def State.requestAvs (s : State) (code : Nat) : State := ({ s with dmp := { s.dmp with avs := code } } : State).emit (.avsReq code)

/-- STEP takes a value, and the clock is asked to follow (R369). -/
def State.setStep (s : State) (k : Nat) : State :=
  ({ s with dmp := { s.dmp with step := k, req := some k, wait := none } } : State).emit (.damperStep k)

/-- The voltage follows a clock that has changed, or that no longer rises: it falls to the code of its step (R374). -/
def State.followClock (s : State) : State :=
  if s.dmp.req.isNone && decide (s.codeFor s.dmp.step < s.dmp.avs) then s.requestAvs (s.codeFor s.dmp.step) else s

/-- A slower step: the clock changes first (R374). A raise that waits for its acknowledgement is given up. -/
def State.slower (s : State) (k f : Nat) : State :=
  let s := if s.dmp.step = k then s else s.setStep k
  let s : State := { s with dmp := { s.dmp with wait := none, upAt := some f } }
  s.followClock

/-- A faster step: the voltage rises first, and the clock follows its acknowledgement (R374). -/
def State.faster (s : State) (f : Nat) : State :=
  let k := s.dmp.step - 1
  if s.codeFor k = s.dmp.avs then
    let s := s.setStep k
    { s with dmp := { s.dmp with downAt := some f } }
  else
    let s := s.requestAvs (s.codeFor k)
    { s with dmp := { s.dmp with wait := some k } }

/-- The junction limit: STEP 7, and gaps of 1024 cycles on every slice. -/
def State.junction (s : State) (f : Nat) : State := (s.setGaps (List.range s.nslices) 1024 f).slower 7 f

/-- One more STEP is due. -/
def State.stepDue (s : State) (hot : Int) (f : Nat) : Bool :=
  (decide (celsius 95 ≤ hot) || heldFor s.dmp.overAt ms1 f) && decide (s.dmp.step < 7) &&
    (s.dmp.upAt.isNone || heldFor s.dmp.upAt us200 f)

/-- One STEP less is due: below 90 °C for 1 ms, with the power below 300 W. -/
def State.coolDue (s : State) (watts f : Nat) : Bool :=
  decide (watts < 300) && heldFor s.dmp.coolAt ms1 f && decide (0 < s.dmp.step) && s.dmp.wait.isNone && s.dmp.req.isNone &&
    (s.dmp.downAt.isNone || heldFor s.dmp.downAt ms1 f)

/-- HHOLD changes: damper_hold stops pclk or lets it go, and therm_trip is HHOLD (R376, Table 16-1). -/
def State.driveHold (s : State) (on : Bool) : State :=
  (({ s with dmp := { s.dmp with hhold := on } } : State).emit (.damperHold on)).emit (.thermTrip on)

/-- The rules on temperature. -/
def State.heatRules (s : State) (watts f : Nat) : State :=
  let hot := s.hotReading
  let s : State := { s with dmp := { s.dmp with
    coolAt := since (decide (hot < celsius 90)) f s.dmp.coolAt } }
  if s.dmp.hhold then
    if hot < celsius 100 then (s.driveHold false).slower 7 f else if celsius 105 ≤ hot then s.junction f else s
  else if celsius 115 ≤ hot then (s.junction f).driveHold true
  else if celsius 105 ≤ hot then s.junction f
  else if s.stepDue hot f then s.slower (s.dmp.step + 1) f
  else if s.coolDue watts f then s.faster f
  else s

/-- Event 4 when STEP or HHOLD has changed (Table 15-16). -/
def State.damperEvent (old new : State) : State :=
  if old.dmp.step != new.dmp.step || old.dmp.hhold != new.dmp.hhold then new.globalEvent evDamper else new

/-- The Damper acts: the part is not held in reset. -/
def State.damperUp (s : State) : Bool := s.ctl.stage != .reset && !s.ctl.inReset

/-- DAMPER_SAMPLE (R376, R343, R374). -/
def execDamperSample (temps : List Int) (watts : Nat) (f : Nat) (s : State) : Res :=
  let s := s.atFclk f
  if s.damperUp then .next (s.damperEvent (((s.sampleSensors temps).gapRule watts s.clk.fclk).heatRules watts s.clk.fclk)) else .next s

/-- PCLK_STEP_DONE (R369): after a slower step, the voltage follows (R374). -/
def execPclkStepDone (s : State) : Res :=
  match s.dmp.req with
  | none => .next s
  | some k =>
    let s' : State := { s with dmp := { s.dmp with req := none } }
    if s.codeFor k < s.dmp.avs ∧ s.dmp.wait = none then .next (s'.requestAvs (s.codeFor k)) else .next s'

/-- AVS_ACK (R374): the clock rises. -/
def execAvsAck (s : State) : Res :=
  match s.dmp.wait with
  | none => .next s
  | some k =>
    let t := s.setStep k
    .next (s.damperEvent { t with dmp := { t.dmp with downAt := some s.clk.fclk } })

/-- AVS_ACK_TIMEOUT (R374): the request is repeated. -/
def execAvsAckTimeout (s : State) : Res :=
  match s.dmp.wait with
  | none => .next s
  | some _ => .next (s.emit (.avsReq s.dmp.avs))

end Sys2Proof.Machine
end

