-- ==== Sys2Proof/Machine/Ledger.lean ====
section
/-! DEFINITION. The Ledger's rows (13, R323 to R328): its restore, the bins, the aging readings and its commands. -/

namespace Sys2Proof.Machine

/-! ### Bins and readings (R324) -/

/-- The bin of a temperature in 8.8 °C: 0 below 45 °C, 15 from 115 °C on. -/
def thermalBin (t : Int) : Nat := if t < celsius 45 then 0 else min 15 ((t - celsius 40) / celsius 5).toNat

/-- V0 of a rail in mV. -/
def railBase (r : Nat) : Nat := if r = 0 then 650 else if r = 1 then 670 else 720

/-- The bin of a rail's voltage in mV; bins 0 and 15 are open-ended. -/
def supplyBin (r mv : Nat) : Nat := min 15 ((mv - railBase r) / 10)

/-- The bins advance by one second. -/
def State.binTick (s : State) (mv : List Nat) : State :=
  let t := s.led.totals
  let th := (s.sensors.filter fun k => (s.sensor k).valid).foldl
    (fun x k => tcount x (16 * k + thermalBin (s.sensor k).temp) 32 1) t.thermal
  let su := (List.range 3).foldl (fun x r => tcount x (16 * r + supplyBin r (mv.getD r 0)) 32 1) t.supply
  { s with led := { s.led with totals := { t with thermal := th, supply := su } } }

/-- LEDGER_BIN_TICK (R324). -/
def execLedgerBinTick (mv : List Nat) (s : State) : Res := if s.compRuns .ledger then .next (s.binTick mv) else .next s

/-- A periodic reading is folded into the summary. -/
def foldAging (t : List (Nat × Nat)) (n c : Nat) : List (Nat × Nat) :=
  let fresh := !(t.any fun e => e.1 == 3 * n)
  let lo := if fresh then c else min c (tget t (3 * n + 1) 0)
  let hi := if fresh then c else max c (tget t (3 * n + 2) 0)
  tput (tput (tput t (3 * n) c) (3 * n + 1) lo) (3 * n + 2) hi

/-- AGING_READING (R324). -/
def State.agingReading (s : State) (counts : List W16) : State :=
  let s := s.readAges counts
  { s with led := { s.led with aging := (List.range s.nslices).foldl (fun t n => foldAging t n (counts.getD n 0).toNat) s.led.aging } }

/-- AGING_READING (R324): LEDGER takes the readings. -/
def execAgingReading (counts : List W16) (s : State) : Res := if s.compRuns .ledger then .next (s.agingReading counts) else .next s

/-! ### Restore (R328) -/

/-- The management port answers. -/
def State.mgmtUp (s : State) : Bool := s.ctl.stage != .reset && !s.ctl.inReset

/-- The stage serves the management commands that Table 13-9 does not mark Q (Table 13-1). -/
def State.mgmtServes (s : State) : Bool := s.ctl.stage != .quenched

/-- A management command's response: code 0 accepted, 1 refused. -/
def State.answerMgmt (s : State) (cmd : String) (code : Nat) (payload : List Byte) : Res := .next (s.emit (.mgmt cmd code payload))

/-- The counts of a stored image added to those since power-on. -/
def addTotals (img t : LedgerTotals) : LedgerTotals :=
  let add (w u : Nat) (a b : List (Nat × Nat)) : List (Nat × Nat) := a.foldl (fun x e => tcount x e.1 w (e.2 * u)) b
  { active := add 64 (2 ^ 32) img.active t.active, bytes := add 94 (2 ^ 30) img.bytes t.bytes
    errors := add 32 1 img.errors t.errors, thermal := add 32 1 img.thermal t.thermal, supply := add 32 1 img.supply t.supply
    powerOn := t.powerOn }

/-- The stored Ledger is restored: STALE when its power-on count is not Ember's minus 1 and Ember's has not saturated. -/
def State.restoreLedger (s : State) (img : LedgerTotals) : State :=
  let full := decide (2048 ≤ s.part.powerOns)
  let t := addTotals img s.led.totals
  { s with led := { s.led with
    totals := { t with powerOn := if full then sat 32 (img.powerOn + 1) else s.part.powerOns }
    stale := !full && img.powerOn + 1 != s.part.powerOns, st := .restored } }

/-- LEDGER_RESTORE is a command of KINDLING and BANKED (Table 13-9), taken while LEDGER waits for it. -/
def execLedgerRestore (img : Option LedgerTotals) (s : State) : Res :=
  if !s.mgmtUp then .next s
  else if s.compRuns .ledger && s.mgmtServes && s.led.st == .awaited then
    match img with
    | some t => (s.restoreLedger t).answerMgmt "LEDGER_RESTORE" 0 []
    | none => s.answerMgmt "LEDGER_RESTORE" 1 []
  else s.answerMgmt "LEDGER_RESTORE" 1 []

/-- LEDGER_RESTORE_TIMEOUT (R328): 10 s after entry to KINDLING, new totals begin. -/
def execLedgerRestoreTimeout (f : Nat) (s : State) : Res :=
  let s := s.atFclk f
  if s.compRuns .ledger && s.led.st == .awaited && decide (s.ctl.kindlingAt + 10 * secFclk ≤ s.clk.fclk) then
    .next { s with led := { s.led with st := .restarted, totals := { s.led.totals with powerOn := s.part.powerOns } } }
  else .next s

/-! ### Commands -/

/-- LEDGER_INTERVAL (R326, Table 13-9). -/
def execLedgerInterval (seconds : Nat) (s : State) : Res :=
  if !s.mgmtUp then .next s
  else if s.compRuns .ledger && s.mgmtServes && decide (60 ≤ seconds) && decide (seconds ≤ 86400) then
    ({ s with led := { s.led with interval := seconds } } : State).answerMgmt "LEDGER_INTERVAL" 0 []
  else s.answerMgmt "LEDGER_INTERVAL" 1 []

/-- SHUTDOWN_NOTICE (R327): every record is persisted, and the notice is answered; nothing else changes. -/
def execShutdownNotice (f : Nat) (s : State) : Res :=
  let s := s.atFclk f
  if !s.mgmtUp then .next s
  else if s.ledgerAway then .next { s with led := { s.led with notice := true } }
  else if s.ledgerOpen then s.sendEvery.answerMgmt "SHUTDOWN_NOTICE" 0 []
  else s.answerMgmt "SHUTDOWN_NOTICE" 0 []

end Sys2Proof.Machine
end

