-- ==== Sys2Proof/Machine/Reset.lean ====
section
/-! DEFINITION. Resets and wipes: Table 13-2 (R308), ptu_rst_n and por_n (R370), the way to QUENCHED (R314). -/

namespace Sys2Proof.Machine

/-! ### Wipes of Table 13-2 -/

/-- Zeros in the Bellows SRAM, the fallback grants and the ring table; STATE 0 in every chain header. -/
def State.wipeTables (s : State) : State :=
  let s := (s.zeroRange 25 0x1000_0000 0x20_0000).zeroRange 25 0x2000_0000 0x10_0000
  let s := (s.zeroRange 0 0x400_0000 0x200_0000).hsZero 0x100_0000 0x20_0000
  (List.range 256).foldl (fun s c => s.hsWrite (chainAddr c + 8) [0]) s

/-- The destinations of the descriptors that have started and have no written record are not defined (R370, R34). -/
def State.spoilDests (s : State) : State :=
  (s.allSlots.filter fun e => e.2.phase.active || (e.2.phase == .recorded && e.2.status == stDone)).foldl (fun s e =>
    let vs := undefinedVals e.2
    { (s.writeVals e.1 e.2 s.clk.free vs).useFree (freeNeeded vs) with poison := s.poison }) s

/-- What a host function keeps when firmware starts anew: its registers (R354, R292). -/
def HostFn.dropped (x : HostFn) : HostFn :=
  { gevt := x.gevt, gevten := x.gevten, gvec := x.gvec, vecs := x.vecs, areq := x.areq, ovf := x.ovf, avec := x.avec
    fbent := x.fbent, fbErr := x.fbErr, fbCapture := x.fbCapture, flrBusy := x.flrBusy }

/-- No session, lease, ring, grant, sync counter, chain or key set survives, and no descriptor, context or translation;
the slices are wiped, a fence stays, a test ends (R308). -/
def State.dropService (s : State) : State :=
  { s with
    grants := fallbackGrants, zeroing := []
    heldBy := s.heldBy ++ fallbackGrants.filter fun g => !s.heldBy.contains g
    xl := {}, rings := [], blocks := [], fetches := [], ctxs := [], sync := [], sched := {}, keysets := []
    hosts := s.hosts.map fun (e : Nat × HostFn) => (e.1, e.2.dropped)
    slices := s.slices.map fun (e : Nat × Slice) => (e.1,
      { e.2.wiped with fenced := e.2.fenced && !e.2.testing, testing := false, drain := false })
    flue := s.flue.emptied, ports := { s.ports with reqs := [], spaced := [] }
    fw := {}
    emb := { s.emb with ckpts := [], pieces := [] }
    led := { seq := s.led.seq }
    log := { s.log with low := false, hint := none } }

/-! ### Resets -/

/-- Everything that ptu_rst_n resets (R370): all registers go to their values of R354, and the part waits for the release.
OTP storage, stack memory, the log ring, image slots, Ember's nonce and the test network keep theirs. -/
def State.hardReset (s : State) : State :=
  let s := s.spoilDests.dropService
  { s with
    ctl := { stage := .reset, inReset := true }
    hosts := [], slices := [], flue := {}, ports := {}, hl := {}
    emb := { nonce := s.emb.nonce, isolated := s.emb.isolated }
    pldm := { s.pldm with st := .idle, size := 0, buf := [] }
    dmp := {}
    edge := { s.edge with segWait := 0, fbStopped := decide (2 ≤ s.edge.segs.toNat) } }

/-- VDD_EMBER is good and ember_pwr_en is high (R372). -/
def State.emberPowered (s : State) : Bool := s.edge.railGood.getLsbD 2 && s.edge.emberPwrEn

/-- The release: the wipes are made, and the slot that ActivateFirmware marked is active (R308, Table 13-6). Ember stays isolated
while its rail is not good (R372). -/
def State.release_ (s : State) : State :=
  let s := s.wipeTables
  { s with
    ctl := { s.ctl with inReset := false }
    emb := { s.emb with isolated := !s.emberPowered, reqAt := s.clk.fclk }
    pldm := { s.pldm with activeB := s.pldm.pendB.getD s.pldm.activeB, pendB := none, triedA := false, triedB := false }
    edge := { s.edge with pwrFault := s.edge.railGood != 7, faultHold := false } }

/-- The PTU resets itself as ptu_rst_n does (R322, R379); while ptu_rst_n is low or a rail fault holds it, it stays in reset (R370,
R373). -/
def State.selfReset (s : State) : State := if s.edge.rst || s.edge.faultHold then s.hardReset else s.hardReset.release_

/-- PTU_RST_N_ASSERT (R370). -/
def execPtuRstNAssert (s : State) : Res :=
  if s.edge.rst then .next s
  else
    let s := s.hardReset
    .next { s with edge := { s.edge with rst := true } }

/-- rail_good and ember_pwr_en at the release of ptu_rst_n: what was good and high stays so; whether what was not is good again, the board
decides and no row says, so that it is free (log 50). -/
def State.railLevels (s : State) : BitVec 3 × Bool :=
  if s.edge.railGood == 7 && s.edge.emberPwrEn then (7, true)
  else
    let w := Config.freeWord s.clk.free
    (s.edge.railGood ||| w.setWidth 3, s.edge.emberPwrEn || w.getLsbD 3)

/-- PTU_RST_N_RELEASE (R308, R370, R373). The PTU leaves the reset when VDD_PTU and VDD_RICK are good, and after a rail fault when
every rail is. -/
def execPtuRstNRelease (s : State) : Res :=
  if s.edge.rst then
    let rails := s.railLevels.1
    let s : State := { s.useFree 1 with edge := { s.edge with rst := false, railGood := rails, emberPwrEn := s.railLevels.2 } }
    if rails = 7 ∨ (s.edge.faultHold = false ∧ rails &&& 3 = 3) then .next s.release_
    else .next { s with edge := { s.edge with faultHold := true } }
  else .next s

/-- What por_n resets beside ptu_rst_n (R370): Ember's volatile state, the log ring, the test network, the record of who held
which range since power-on (R295); the power-on counter takes a step. -/
def State.powerOn (s : State) : State :=
  let s := s.hardReset.hsZero logBase (32 * logEntries)
  { s with
    clk := { s.clk with fclk := 0 }
    part := { s.part with powerOns := min 2048 (s.part.powerOns + 1) }
    emb := {}, log := {}, heldBy := fallbackGrants, edge := { rst := true } }

/-- POR_N (R370): ptu_rst_n is asserted with it. -/
def execPorN (s : State) : Res := .next s.powerOn

/-- ENTER_TINDER (R306, R314): the wipes are complete. GEVT then holds its reset value (R354). -/
def execEnterTinder (s : State) : Res :=
  if s.ctl.stage == .reset && !s.ctl.inReset then
    if s.part.lc = .spent then .next (({ s with ctl := { s.ctl with fbAct := false } } : State).setStage .quenched)
    else .next { s with ctl := { s.ctl with stage := .tinder } }
  else .next s

/-! ### QUENCHED (R314) -/

/-- The end of the way to QUENCHED: the last records of the Ledger, the wipes, the cores halt. -/
def State.quenchEnd (s : State) : State :=
  let s := if s.ledgerOpen then s.sendAll else s
  let s := s.dropService.wipeTables
  { s with
    ctl := { s.ctl with quenching := false, manager := none, ist := none, ost := none, cal := none, hold := false }
    fw := { s.fw with cores := (List.range 4).map fun c => (c, { halted := true }) } }

/-- An unrecoverable Ember failure: QUENCHED is entered, fetching stops, started descriptors run to completion. Of the lifecycle
transitions only one to SPENT goes on (Table 13-9). -/
def State.quench (s : State) : State :=
  let s := (List.finRange 16).foldl (fun s h => (s.ringsOf h).foldl (fun s r =>
    (s.dropFetches r).keepSlots r fun d => d.phase.begun) s) s
  let s : State := { s with
    emb := { s.emb with fail := true, healthOk := false, keysOk := false }
    ctl := { s.ctl with
      cap3 := 0, fbAct := false, quenching := true, commit := false, xfer := if s.ctl.xfer = some .spent then s.ctl.xfer else none } }
  let s := State.withSealEvent s { s with ctl := { s.ctl with sealen := false } }
  let s := s.setStage .quenched
  if s.workDone then s.quenchEnd else s

/-- LEDGER_PERSIST (R326): at the interval, within 1 s of an event, and on the way to QUENCHED after the last record (R314). -/
def execLedgerPersist (f : Nat) (s : State) : Res :=
  let s := s.atFclk f
  if s.ctl.quenching then (if s.workDone then .next s.quenchEnd else .next s)
  else if s.ledgerOpen then .next (s.persist s.clk.fclk)
  else .next s

/-- 100 ms in fclk counts. -/
def mailboxLimit : Nat := 120000000

/-- MAILBOX_TIMEOUT (R314, R365, R373). -/
def execMailboxTimeout (f : Nat) (s : State) : Res :=
  let s := s.atFclk f
  if (s.emb.req.isSome || s.emb.isolated) && decide (s.emb.reqAt + mailboxLimit ≤ s.clk.fclk) &&
      (s.fbWritable || s.ctl.stage == .banked) && !s.ctl.inReset then .next s.quench
  else .next s

/-- KEYS logs a failed health test of entropy source n (0x7001). -/
def State.logSource (s : State) (n : Nat) : State := s.logEntry .keys 0x7001 3 none n 0

/-- EMBER_CONTINUOUS_TEST_FAIL (R241, R314): in BANKED Ember stops issuing keys; a failure of both sources is unrecoverable. -/
def execEmberContinuousTestFail (srcs : BitVec 2) (s : State) : Res :=
  if s.ctl.stage == .banked && srcs != 0 then
    let s := (onesOf 2 srcs.toNat).foldl (fun s n => s.logSource n) s
    let s : State := { s with emb := { s.emb with bad := s.emb.bad ||| srcs, latest := s.emb.bad ||| srcs, keysOk := false } }
    if s.emb.bad = 3 then .next s.quench else .next s
  else .next s

end Sys2Proof.Machine
end

