-- ==== Sys2Proof/Machine/Ember.lean ====
section
/-! DEFINITION. Ember's mailbox and its commands (R365, Table 15-29), and the lifecycle token (R321). -/

namespace Sys2Proof.Machine

/-! ### Messages (R365) -/

/-- The request in EMB_TX0 to EMB_TX7. -/
def State.txBytes (s : State) : List Byte := (List.range 8).flatMap fun k => natLe (tget s.emb.tx k 0).toNat 8

def embOk : Nat := 0
def embFail : Nat := 1
def embBadCmd : Nat := 2

/-- A response: CMD and SEQ of the request, STATUS, payload. -/
def embResponse (q : List Byte) (status : Nat) (payload : List Byte) : List Byte :=
  padTo 64 (natLe (byteAt q 0) 1 ++ natLe status 1 ++ (q.drop 2).take 2 ++ payload)

/-- Ember answers the request that it holds. -/
def State.embAnswer (s : State) (q : List Byte) (status : Nat) (payload : List Byte) : State :=
  { s with emb := { s.emb with req := none, rsp := some (embResponse q status payload) } }

/-- MORE. -/
def embMore (q : List Byte) : Bool := bit (byteAt q 1) 0

/-- The request of a command that Ember holds and can answer: Ember is supplied and not held in reset. -/
def State.embRequest (s : State) (cmd : Nat) : Option (List Byte) :=
  if s.emb.isolated || s.ctl.inReset then none else s.emb.req.filter fun q => byteAt q 0 == cmd

/-- A write of EMB_TXSUB: discarded while BUSY or RSP is 1; an unknown command is answered BAD_CMD, at its last piece (R365). While
Ember is isolated the 100 ms of R373 run on. -/
def State.embSubmit (s : State) : State :=
  if s.emb.req.isSome || s.emb.rsp.isSome then s
  else
    let q := s.txBytes
    let s : State := { s with emb := { s.emb with req := some q, reqAt := if s.emb.isolated then s.emb.reqAt else s.clk.fclk } }
    if !s.emb.isolated && (byteAt q 0 == 0 || decide (8 < byteAt q 0)) then s.embAnswer q (if embMore q then embOk else embBadCmd) [] else s

/-- The pieces that Ember holds of a request of a command; those of a request of another command that never ended are not
its own (DESIGN CHOICE, log 52: R365 does not mix requests). -/
def State.embHeld (s : State) (cmd : Nat) : List Byte := if s.emb.pieceOf = cmd then s.emb.pieces else []

/-- The payload of a request of a command, with its earlier pieces. -/
def State.embPayload (s : State) (cmd : Nat) (q : List Byte) : List Byte := s.embHeld cmd ++ q.drop 4

/-- The row of a command: every piece but the last is acknowledged with an empty response of STATUS 0, and the last one's answer is that
of the whole payload (R365). -/
def embCommand (cmd : Nat) (f : List Byte → List Byte → State → State) (s : State) : Res :=
  match s.embRequest cmd with
  | none => .next s
  | some q =>
    let p := s.embPayload cmd q
    if embMore q then .next (({ s with emb := { s.emb with pieces := p, pieceOf := cmd } } : State).embAnswer q embOk [])
    else .next (f q p { s with emb := { s.emb with pieces := [] } })

/-! ### Commands (Table 15-29) -/

/-- HEALTH: one byte for each source, the DRBG comparison, HEALTHOK and KEYSOK, in the order of Table 15-29; the results are those of
the latest tests, 1 for passed. -/
def execHealth (s : State) : Res :=
  embCommand 0x01 (fun q _ s => s.embAnswer q embOk
    [BitVec.ofNat 8 (!s.emb.latest.getLsbD 0).toNat, BitVec.ofNat 8 (!s.emb.latest.getLsbD 1).toNat, BitVec.ofNat 8 (!s.emb.differ).toNat,
      BitVec.ofNat 8 s.emb.healthOk.toNat, BitVec.ofNat 8 s.emb.keysOk.toNat]) s

/-- RANDOM: bytes of a draw; a length outside 1 to 32 fails. -/
def execRandom (s : State) : Res :=
  embCommand 0x02 (fun q p s =>
    let n := byteAt p 0
    if 1 ≤ n ∧ n ≤ 32 then (s.embAnswer q embOk (natLe (Config.freeDraw s.clk.free).toNat n)).useFree 1
    else s.embAnswer q embFail []) s

/-- Ember draws a nonce and holds it with the time (R321). -/
def State.drawNonce (s : State) : State :=
  ({ s with emb := { s.emb with nonce := some (Config.freeDraw s.clk.free, s.clk.fclk) } } : State).useFree 1

/-- The 32 bytes of the nonce. -/
def State.nonceBytes (s : State) : List Byte :=
  match s.emb.nonce with
  | some n => natLe n.1.toNat 32
  | none => List.replicate 32 0

/-- NONCE. -/
def execNonce (s : State) : Res :=
  embCommand 0x03 (fun q _ s => let s := s.drawNonce; s.embAnswer q embOk s.nonceBytes) s

/-- The key that an image header names is installed (R315, R316). -/
def State.keyInstalled (s : State) (k : Nat) : Bool := s.part.lc.keys.testBit k

/-- STATUS of IMG_VERIFY on a whole payload: header, digest and signatures (R316). -/
def State.imgStatus (s : State) (ecdsa mldsa : Bool) (p : List Byte) : Nat :=
  if 4899 ≤ p.length ∧ s.keyInstalled (bits (byteAt p 5) 0 2) ∧ ecdsa ∧ mldsa then embOk else embFail

/-- IMG_VERIFY (R316). -/
def execImgVerify (ecdsa mldsa : Bool) (s : State) : Res :=
  embCommand 0x04 (fun q p s => s.embAnswer q (s.imgStatus ecdsa mldsa p) []) s

/-- The lifecycle transitions that R321 permits. -/
def lcMay (a b : Lifecycle) : Bool :=
  match a, b with
  | .green, .seasoned => true
  | .seasoned, .service => true
  | .seasoned, .ret => true
  | .service, .ret => true
  | .spent, .spent => false
  | _, .spent => true
  | _, _ => false

/-- The token's body matches the part, its state and the last nonce, which is at most 10 s old (R321, Table 13-8). -/
def State.tokenOk (s : State) (t : List Byte) : Bool :=
  byteAt t 0 == s.part.lc.code && (match Lifecycle.ofCode (byteAt t 1) with
    | some b => lcMay s.part.lc b && ((s.part.lc == .green && b == .seasoned) || zeroAt t 44 20)
    | none => false) &&
    zeroAt t 2 2 && field t 4 8 == s.part.serial.toNat && match s.emb.nonce with
      | some n => field t 12 32 == n.1.toNat && decide (s.clk.fclk ≤ n.2 + 10 * secFclk)
      | none => false

/-- LC_VERIFY (R321): token body and signatures. -/
def execLcVerify (ecdsa mldsa : Bool) (s : State) : Res :=
  embCommand 0x05 (fun q p s =>
    s.embAnswer q (if decide (4787 ≤ p.length) && s.tokenOk (p.take 64) && ecdsa && mldsa then embOk else embFail) []) s

/-- RESEED (R241): when the tests pass, Ember issues keys again. -/
def execReseed (pass : Bool) (s : State) : Res :=
  embCommand 0x08 (fun q _ s =>
    if pass then
      ({ s with emb := { s.emb with bad := 0, latest := 0, differ := false, healthOk := true, keysOk := true } } : State).embAnswer q embOk []
    else ({ s with emb := { s.emb with keysOk := false } } : State).embAnswer q embFail []) s

/-- EMB_RXPOP (R365). -/
def execEmbRxpop (who : Who) (s : State) : Res :=
  if s.writes who .mailbox then .next { s with emb := { s.emb with rsp := none } } else .next (s.denied who .mailbox)

end Sys2Proof.Machine
end

