-- ==== Sys2Proof/Machine/Lifecycle.lean ====
section
/-! DEFINITION. The management-port commands of Table 13-9 on the lifecycle, the rollback floor, the manager role and the
log (R302, R293, R320 to R322). -/

namespace Sys2Proof.Machine

/-- LC_CHALLENGE (R321): a fresh nonce. -/
def execLcChallenge (f : Nat) (s : State) : Res :=
  let s := s.atFclk f
  if !s.mgmtUp then .next s
  else if s.emb.isolated then s.answerMgmt "LC_CHALLENGE" 1 []
  else let s := s.drawNonce; s.answerMgmt "LC_CHALLENGE" 0 s.nonceBytes

/-- LC_QUERY (R321): PTU_LC, the rollback floor, the installed keys and the active slot, a byte each. -/
def execLcQuery (s : State) : Res :=
  if s.mgmtUp then
    s.answerMgmt "LC_QUERY" 0
      [BitVec.ofNat 8 s.part.lc.code, BitVec.ofNat 8 s.part.floor, BitVec.ofNat 8 s.part.lc.keys, BitVec.ofNat 8 s.pldm.activeB.toNat]
  else .next s

/-- A transition that is accepted (R321, R315): both signatures verify, the key block is whole where one is due, no other
transition runs, and QUENCHED leads only to SPENT. -/
def State.lcAccepted (s : State) (token : List Byte) (ecdsa mldsa keyBlock : Bool) : Bool :=
  token.length == 64 && s.tokenOk token && ecdsa && mldsa && !s.emb.isolated && s.ctl.xfer.isNone &&
    (s.part.lc != .green || byteAt token 1 != Lifecycle.seasoned.code || keyBlock) &&
    (s.ctl.stage != .quenched || byteAt token 1 == Lifecycle.spent.code)

/-- Step 1 of R322: every ring stops, every host function is frozen without grace, event 5 is raised. -/
def State.beginTransition (s : State) (b : Lifecycle) : State :=
  let s : State := { s with ctl := { s.ctl with xfer := some b } }
  let s := (List.finRange 16).foldl (fun s h =>
    (s.freezeRings h).updHost h fun x => { x with session := if x.session = .active then .frozen else x.session, frozenAt := none }) s
  s.globalEvent evLcXfer

/-- LC_TRANSITION (R321, R322): the nonce serves one of them. -/
def execLcTransition (token : List Byte) (ecdsa mldsa keyBlock : Bool) (f : Nat) (s : State) : Res :=
  let s := s.atFclk f
  if !s.mgmtUp then .next s
  else
    let s' : State := { s with emb := { s.emb with nonce := none } }
    match Lifecycle.ofCode (byteAt token 1) with
    | some b =>
      if s.lcAccepted token ecdsa mldsa keyBlock then (s'.beginTransition b).answerMgmt "LC_TRANSITION" 0 []
      else s'.answerMgmt "LC_TRANSITION" 1 []
    | none => s'.answerMgmt "LC_TRANSITION" 1 []

/-- Step 4 of R322: every grant's memory and the hearthstone region on every stack are zeroed. -/
def State.zeroForReturn (s : State) : State :=
  let s := s.grants.foldl (fun s g => s.zeroRange g.stack g.base g.size) s
  let s := (List.range s.nslices).foldl (fun s m => s.zeroRange m 0 0x400_0000) s
  { s with log := { s.log with seq := 0, overwritten := [] } }

/-- The function-level resets that wait are acknowledged when step 2 has ended, with all that they reset (R360, R371). -/
def State.ackFlrs (s : State) : State :=
  (List.finRange 16).foldl (fun s h => if (s.host h).flrBusy then (s.updHost h HostFn.flrReset).emit (.flrDone h) else s) s

/-- Whether Table 16-9 permits bit k in a lifecycle state. -/
def segPermitted (lc : Lifecycle) (k : Nat) : Bool :=
  k == 0 || match lc with
    | .green => true
    | .seasoned => k == 1 || k == 2
    | .service => false
    | .ret => decide (k ≤ 5)
    | .spent => decide (k ≤ 5)

/-- The segment bits that stay open in a lifecycle state: outside Table 16-9 a segment is bypassed (R245, R378). -/
def segsOf (lc : Lifecycle) (segs : BitVec 7) : BitVec 7 :=
  BitVec.ofNat 7 (sumOf ((List.range 7).map fun k => if segPermitted lc k && segs.getLsbD k then 2 ^ k else 0))

/-- Steps 3 to 6 of R322: the wipes, the transition record (R326), and the new state, with the event of a change of SEALOK
(Table 15-16). -/
def State.writeTransition (s : State) (b : Lifecycle) : State :=
  let a := s.part.lc
  let s := s.ackFlrs
  let s := (s.zeroRange 25 0x2000_0000 0x10_0000).wipeLive
  let s : State := { s with emb := { s.emb with ckpts := [], nonce := none } }
  let s := if b = .ret then s.zeroForReturn else s
  let s := (if s.ledgerOpen then s.sendHeld else s).sendRecord ledLifecycle s.dateNow (lifecyclePayload a b s.part.floor)
  State.withSealEvent s { s with part := { s.part with lc := b } }

/-- The rest of a transition to state b whose work has drained: steps 3 to 6 unless LC_WRITE has made them, and the reset of
step 7 (R322). -/
def State.endTransition (s : State) (b : Lifecycle) : State :=
  let s := if s.part.lc = b then s else s.writeTransition b
  ({ s with edge := { s.edge with segs := segsOf b s.edge.segs } } : State).selfReset

/-- LC_TRANSITION_DRAINED (R322): started descriptors have written their records. While Ember is isolated it cannot write the new
state (R372). -/
def execLcTransitionDrained (s : State) : Res :=
  match s.ctl.xfer with
  | none => .next s
  | some b => if s.workDone && s.mgmtUp && (!s.emb.isolated || s.part.lc == b) then .next (s.endTransition b) else .next s

/-- LC_WRITE (R322): at step 6 of the transition that runs, once and not before its work has drained; the steps before it are made
first (log 95). -/
def execLcWrite (s : State) : Res :=
  embCommand 0x06 (fun q p s =>
    match s.ctl.xfer, Lifecycle.ofCode (byteAt p 0) with
    | some a, some b =>
      if a = b ∧ s.part.lc ≠ b ∧ s.workDone then (s.writeTransition b).embAnswer q embOk []
      else s.embAnswer q embFail []
    | _, _ => s.embAnswer q embFail []) s

/-- SVN of the running image (Table 15-7). -/
def State.svn (s : State) : Nat := bits s.ctl.cap3.toNat 41 7

/-- The running image's fields, for a FIRMWARE record. -/
def State.runningImage (s : State) : FwSlot :=
  { valid := true, svn := s.svn, build := bits s.ctl.cap3.toNat 0 32, ifmaj := s.fmaj, ifmin := s.fmin }

/-- The rollback floor rises to the running SVN, with its FIRMWARE record (R320, R326). -/
def State.raiseFloor (s : State) : State :=
  let s := s.ledgerHold ledFirmware (firmwarePayload fwFloor (bit s.ctl.cap3.toNat 40) s.runningImage)
  { s with part := { s.part with floor := s.svn } }

/-- ROLLBACK_COMMIT may be accepted: in BANKED, when the running SVN exceeds the floor (R320). -/
def State.commitOk (s : State) : Bool :=
  s.ctl.stage == .banked && decide (s.part.floor < s.svn) && !s.emb.isolated && !s.ctl.commit

/-- ROLLBACK_COMMIT (R320): Ember raises the floor at once when its mailbox is free, and otherwise by the FLOOR_RAISE that follows
(DESIGN CHOICE, log 95). -/
def execRollbackCommit (s : State) : Res :=
  if !s.mgmtUp then .next s
  else if s.commitOk then
    if s.emb.req.isNone && s.emb.rsp.isNone then s.raiseFloor.answerMgmt "ROLLBACK_COMMIT" 0 []
    else .next { s with ctl := { s.ctl with commit := true } }
  else s.answerMgmt "ROLLBACK_COMMIT" 1 []

/-- FLOOR_RAISE (R320, Table 15-29): the step of Ember by which firmware carries out a ROLLBACK_COMMIT that waits, to the running SVN;
without one it changes nothing, and it is FAIL when not above the floor (log 95). -/
def execFloorRaise (s : State) : Res :=
  embCommand 0x07 (fun q p s =>
    if s.ctl.commit ∧ s.ctl.stage = .banked ∧ s.part.floor < byteAt p 0 ∧ byteAt p 0 = s.svn then
      let s : State := { s with ctl := { s.ctl with commit := false } }
      (s.raiseFloor.emit (.mgmt "ROLLBACK_COMMIT" 0 [])).embAnswer q embOk []
    else s.embAnswer q embFail []) s

/-- MANAGER_SET (R293, Table 13-9). -/
def execManagerSet (h : HF) (s : State) : Res :=
  if !s.mgmtUp then .next s
  else if s.ctl.stage == .banked then ({ s with ctl := { s.ctl with manager := some h } } : State).answerMgmt "MANAGER_SET" 0 []
  else s.answerMgmt "MANAGER_SET" 1 []

/-- LOG_LEVEL (R302, Table 13-9). -/
def execLogLevel (on : Bool) (s : State) : Res :=
  if !s.mgmtUp then .next s
  else if s.compRuns .log && s.mgmtServes then ({ s with log := { s.log with low := on } } : State).answerMgmt "LOG_LEVEL" 0 []
  else s.answerMgmt "LOG_LEVEL" 1 []

end Sys2Proof.Machine
end

