-- ==== Sys2Proof/Machine/Sha384.lean ====
section
/-! DEFINITION. SHA-384, the digest of an image's sections (R316, Table 13-5). -/

namespace Sys2Proof.Machine

/-- The largest r with r^k ≤ x, found bit by bit from bit n - 1 down. -/
def rootFloor (k x : Nat) : Nat → Nat → Nat
  | 0, r => r
  | n + 1, r => rootFloor k x n (if (r + 2 ^ n) ^ k ≤ x then r + 2 ^ n else r)

/-- The first 64 bits of the fractional part of the k-th root of x, for roots below 32. -/
def rootFraction (k x : Nat) : W64 := BitVec.ofNat 64 (rootFloor k (x * 2 ^ (64 * k)) 69 0)

/-- A number above 1 without a divisor between 1 and itself. -/
def isPrime (n : Nat) : Bool := decide (2 ≤ n) && (List.range n).all fun d => decide (d < 2) || n % d != 0

/-- The first 80 primes: 409 is the eightieth. -/
def shaPrimes : List Nat := (List.range 410).filter isPrime

/-- The round constants: the cube roots of the first 80 primes. -/
def shaK : List W64 := shaPrimes.map (rootFraction 3)

/-- The initial hash value of SHA-384: the square roots of the ninth to the sixteenth prime. -/
def shaInit : List W64 := ((shaPrimes.drop 8).take 8).map (rootFraction 2)

/-- The exclusive or of a word turned right by each of some amounts. -/
def turns (x : W64) (ns : List Nat) : W64 := ns.foldl (fun y n => y ^^^ x.rotateRight n) 0

/-- The number that bytes spell, the first byte highest. -/
def beNat (bs : List Byte) : Nat := leNat bs.reverse

/-- The next `n` words of a schedule held newest first, as a list newest first. -/
def shaExtend : Nat → List W64 → List W64
  | 0, w => w
  | n + 1, w => let near := w.getD 1 0
    let far := w.getD 14 0
    shaExtend n ((w.getD 15 0 + (turns far [1, 8] ^^^ far >>> 7) + w.getD 6 0 + (turns near [19, 61] ^^^ near >>> 6)) :: w)

/-- The schedule of a block of 128 bytes: 80 words. -/
def shaSchedule (block : List Byte) : List W64 :=
  let first := (List.range 16).map fun i => BitVec.ofNat 64 (beNat ((block.drop (8 * i)).take 8))
  (shaExtend 64 first.reverse).reverse

/-- One round on the eight working words: bits of f and g chosen by e, and the majority of a, b and c. -/
def shaRound (v : List W64) (k w : W64) : List W64 :=
  match v with
  | [a, b, c, d, e, f, g, h] =>
    let mixed := turns e [14, 18, 41] + (g ^^^ (e &&& (f ^^^ g))) + h + w + k
    [mixed + turns a [28, 34, 39] + ((a &&& (b ||| c)) ||| (b &&& c)), a, b, c, d + mixed, e, f, g]
  | _ => v

/-- The hash value after one more block. -/
def shaBlock (h : List W64) (block : List Byte) : List W64 :=
  let v := ((shaK.zip (shaSchedule block)).foldl (fun v x => shaRound v x.1 x.2) h)
  List.zipWith (· + ·) h v

/-- The blocks of a padded message, `n` of them. -/
def shaBlocks : Nat → List Byte → List W64 → List W64
  | 0, _, h => h
  | n + 1, m, h => shaBlocks n (m.drop 128) (shaBlock h (m.take 128))

/-- The message with its padding: a one bit, zeros, the length in bits as 16 bytes. -/
def shaPad (m : List Byte) : List Byte :=
  let n := m.length
  m ++ [0x80] ++ List.replicate ((239 - n % 128) % 128) 0 ++ (natLe (8 * n) 16).reverse

/-- SHA-384: 48 bytes. -/
def sha384 (m : List Byte) : List Byte :=
  let p := shaPad m
  ((shaBlocks (p.length / 128) p shaInit).take 6).flatMap fun w => (natLe w.toNat 8).reverse

end Sys2Proof.Machine
end

