-- ==== Sys2Proof/Machine/Pldm.lean ====
section
/-! DEFINITION. Firmware images (Table 13-5, R316) and their intake by PLDM (R317, Table 13-6). -/

namespace Sys2Proof.Machine

/-! ### Images -/

def imgCode (b : List Byte) : Nat := field b 16 4
def imgData (b : List Byte) : Nat := field b 20 4
def imgTest (b : List Byte) : Nat := field b 24 4

/-- Step 1 of R316: MAGIC, HDRVER, reserved bits, section lengths and TOTAL. -/
def headerGood (b : List Byte) : Bool :=
  field b 0 4 == 0x4C425054 && byteAt b 4 == 1 && bits (byteAt b 5) 2 6 == 0 && !bit (byteAt b 6) 7 && bits (byteAt b 7) 2 6 == 0 &&
    zeroAt b 10 2 && imgCode b % 64 == 0 && decide (imgCode b ≤ 0x20_0000) && imgData b % 64 == 0 && decide (imgData b ≤ 0x10_0000) &&
    imgTest b % 64 == 0 && field b 32 4 == 128 + imgCode b + imgData b + imgTest b + 4723 && decide (field b 32 4 ≤ 0x80_0000) &&
    b.length == field b 32 4 && bits (byteAt b 36) 3 5 == 0 && zeroAt b 37 11 && zeroAt b 96 32

/-- The bit of a variant in VARIANTS (Table 13-5). -/
def variantBit (v : Variant) : Nat :=
  match v with
  | .ptu24S => 0
  | .ptu16S => 1
  | .ptu24 => 2

/-- SCOPE is permitted in a lifecycle state (R315): manufacturing images in GREEN and RETURN, service images in SEASONED and
SERVICE. -/
def scopeOk (lc : Lifecycle) (scope : Nat) : Bool :=
  match lc with
  | .green => scope == 1
  | .ret => scope == 1
  | .seasoned => scope == 0
  | .service => scope == 0
  | .spent => false

/-- The key that verifies an image of a scope: key 0 manufacturing images, keys 1 to 3 service images (R315). -/
def keyFits (scope key : Nat) : Bool := if scope = 1 then key == 0 else decide (1 ≤ key)

/-- The verification of R316. -/
def State.imageOk (s : State) (b : List Byte) (ecdsa mldsa : Bool) : Bool :=
  headerGood b && bit (byteAt b 36) (variantBit s.part.variant) && scopeOk s.part.lc (bits (byteAt b 7) 0 2) &&
    s.keyInstalled (bits (byteAt b 5) 0 2) && keyFits (bits (byteAt b 7) 0 2) (bits (byteAt b 5) 0 2) &&
    decide (s.part.floor ≤ bits (byteAt b 6) 0 7) &&
    (b.drop 48).take 48 == sha384 ((b.drop 128).take (imgCode b + imgData b + imgTest b)) && ecdsa && mldsa && !s.emb.isolated

/-- What an image's header says of it. -/
def slotOfImage (b : List Byte) (valid : Bool) : FwSlot :=
  { valid := valid, svn := bits (byteAt b 6) 0 7, build := field b 12 4, ifmaj := byteAt b 8, ifmin := byteAt b 9 }

def Pldm.slot (x : Pldm) (b : Bool) : FwSlot := if b then x.slotB else x.slotA
def Pldm.setSlot (x : Pldm) (b : Bool) (v : FwSlot) : Pldm := if b then { x with slotB := v } else { x with slotA := v }
def Pldm.tried (x : Pldm) (b : Bool) : Bool := if b then x.triedB else x.triedA
def Pldm.setTried (x : Pldm) (b v : Bool) : Pldm := if b then { x with triedB := v } else { x with triedA := v }

/-- The slot that an update writes. -/
def Pldm.spare (x : Pldm) : Bool := !x.activeB

/-- The inactive slot is marked invalid, and is not what the next reset activates. -/
def Pldm.spoil (x : Pldm) : Pldm :=
  { x.setSlot x.spare { x.slot x.spare with valid := false } with
    pendB := if x.pendB = some x.spare then none else x.pendB, buf := [], size := 0 }

/-! ### The commands of Table 13-6 -/

/-- PTU_ID's low word: VENDOR, DEVICE, STEPPING (Table 15-3). -/
def ptuIdLow : W64 := 0x1A1C_0B24_B000_0000

/-- QUERY_DEVICE_IDENTIFIERS (R317): PTU_ID and the stepping. -/
def execQueryDeviceIdentifiers (s : State) : Res :=
  if !s.mgmtUp then .next s
  else if s.mgmtServes then
    s.answerMgmt "QueryDeviceIdentifiers" 0 (natLe ptuIdLow.toNat 8 ++ natLe s.part.serial.toNat 8 ++ [0xB0])
  else s.answerMgmt "QueryDeviceIdentifiers" 1 []

/-- A slot's versions. -/
def slotBytes (x : FwSlot) : List Byte :=
  natLe x.valid.toNat 1 ++ natLe x.svn 1 ++ natLe x.ifmaj 1 ++ natLe x.ifmin 1 ++ natLe x.build 4

/-- The pending slot: 0 A, 1 B, 255 none. -/
def pendingCode (p : Option Bool) : Nat :=
  match p with
  | none => 255
  | some b => b.toNat

/-- GET_FIRMWARE_PARAMETERS (R317): the versions of both slots, the active and the pending one. -/
def execGetFirmwareParameters (s : State) : Res :=
  if !s.mgmtUp then .next s
  else if s.mgmtServes then
    s.answerMgmt "GetFirmwareParameters" 0
      (slotBytes s.pldm.slotA ++ slotBytes s.pldm.slotB ++ natLe s.pldm.activeB.toNat 1 ++ natLe (pendingCode s.pldm.pendB) 1)
  else s.answerMgmt "GetFirmwareParameters" 1 []

/-- A PLDM command that is accepted in some states of the update, and not in QUENCHED (Table 13-1). -/
def pldmIf (cmd : String) (ok : Bool) (f : Pldm → Pldm) (s : State) : Res :=
  if !s.mgmtUp then .next s
  else if ok && s.mgmtServes then ({ s with pldm := f s.pldm } : State).answerMgmt cmd 0 []
  else s.answerMgmt cmd 1 []

/-- REQUEST_UPDATE (R317, Table 13-6). -/
def execRequestUpdate (s : State) : Res :=
  pldmIf "RequestUpdate" (s.pldm.st == .idle && s.ctl.xfer.isNone) (fun x => { x with st := .requested }) s

/-- PASS_COMPONENT_TABLE: one component. -/
def execPassComponentTable (components : Nat) (s : State) : Res :=
  pldmIf "PassComponentTable" (s.pldm.st == .requested && components == 1) (fun x => { x with st := .table }) s

/-- Bytes of the chunk that the PTU asks for next. -/
def Pldm.chunk (x : Pldm) : Nat := min 4096 (x.size - x.buf.length)

/-- The PTU asks for the next chunk: its offset and its length (R317). -/
def State.askChunk (s : State) : State := s.emit (.request "RequestFirmwareData" [s.pldm.buf.length, s.pldm.chunk])

/-- UPDATE_COMPONENT: the transfer into the inactive slot begins. -/
def execUpdateComponent (size : Nat) (s : State) : Res :=
  if !s.mgmtUp then .next s
  else if s.mgmtServes && s.pldm.st == .table && decide (1 ≤ size) && decide (size ≤ 0x80_0000) then
    let s : State := { s with pldm := { s.pldm.spoil with st := .transfer, size := size } }
    .next (s.emit (.mgmt "UpdateComponent" 0 [])).askChunk
  else s.answerMgmt "UpdateComponent" 1 []

/-- The image is complete: TransferComplete ends the transfer, the image is verified, VerifyComplete gives the result (0 verified,
1 refused), and ApplyComplete follows for a verified one (R317). The slot is valid or not; a valid one is tried when no image
runs. -/
def State.imageDone (s : State) (b : List Byte) (ecdsa mldsa : Bool) : State :=
  let ok := s.imageOk b ecdsa mldsa
  let k := s.pldm.spare
  let x := { ((s.pldm.setSlot k (slotOfImage b ok)).setTried k false) with buf := [], size := 0, st := if ok then .verified else .table }
  let s : State := { s with pldm := x }
  let s := (s.emit (.request "TransferComplete" [])).emit (.request "VerifyComplete" [(!ok).toNat])
  if ok then s.emit (.request "ApplyComplete" []) else s.ledgerHold ledFirmware (firmwarePayload fwRefused k (slotOfImage b false))

/-- REQUEST_FIRMWARE_DATA (R317, R316, R319): a chunk of the length asked for is written; after the last, the image is
verified. -/
def execRequestFirmwareData (data : List Byte) (ecdsa mldsa : Bool) (s : State) : Res :=
  if s.mgmtUp && s.mgmtServes && s.pldm.st == .transfer && data.length == s.pldm.chunk then
    let b := s.pldm.buf ++ data
    if b.length = s.pldm.size then .next (s.imageDone b ecdsa mldsa)
    else .next ({ s with pldm := { s.pldm with buf := b } } : State).askChunk
  else .next s

/-- ACTIVATE_FIRMWARE (R317): the verified slot is active from the next ptu_rst_n. -/
def execActivateFirmware (s : State) : Res :=
  if !s.mgmtUp then .next s
  else if s.mgmtServes && s.pldm.st == .verified then
    let k := s.pldm.spare
    let s := s.ledgerHold ledFirmware (firmwarePayload fwActivated k (s.pldm.slot k))
    ({ s with pldm := { s.pldm with st := .idle, pendB := some k } } : State).answerMgmt "ActivateFirmware" 0 []
  else s.answerMgmt "ActivateFirmware" 1 []

/-- The state of an update in GetStatus. -/
def updateCode : Update → Nat
  | .idle => 0
  | .requested => 1
  | .table => 2
  | .transfer => 3
  | .verified => 4

/-- GET_STATUS. -/
def execGetStatus (s : State) : Res :=
  if !s.mgmtUp then .next s
  else if s.mgmtServes then s.answerMgmt "GetStatus" 0 (natLe (updateCode s.pldm.st) 1)
  else s.answerMgmt "GetStatus" 1 []

/-- CANCEL_UPDATE_COMPONENT: the inactive slot is invalid. -/
def execCancelUpdateComponent (s : State) : Res :=
  pldmIf "CancelUpdateComponent" (s.pldm.st == .transfer || s.pldm.st == .verified) (fun x => { x.spoil with st := .table }) s

/-- CANCEL_UPDATE: the inactive slot is invalid. -/
def execCancelUpdate (s : State) : Res :=
  pldmIf "CancelUpdate" (s.pldm.st != .idle) (fun x => { x.spoil with st := .idle }) s

/-- UNSUPPORTED_PLDM_COMMAND (R317). -/
def execUnsupportedPldmCommand (code : Byte) (s : State) : Res :=
  if s.mgmtUp then s.answerMgmt "Unsupported" 1 [code] else .next s

end Sys2Proof.Machine
end

