-- ==== Sys2Proof/Machine/Boot.lean ====
section
/-! DEFINITION. The way from TINDER to BANKED: boot (R318), the start self-test (R312, R313), entry to BANKED (R311, R229, R284,
R288, R293, R326, R374), the boot watchdog (R313, R319). -/

namespace Sys2Proof.Machine

/-! ### BOOT -/

/-- BOOT may take a slot: it has not tried it since the reset, the watchdog has not fired from it, and the active slot comes
first (R318, R319). -/
def State.bootable (s : State) (b : Bool) : Bool :=
  s.ctl.stage == .tinder && !s.ctl.inReset && s.ctl.xfer.isNone && !s.inTest && !s.pldm.tried b && !(s.pldm.slot b).failed &&
    (b == s.pldm.activeB || s.pldm.tried s.pldm.activeB || (s.pldm.slot s.pldm.activeB).failed)

/-- PTU_CAP3 of an image in a slot (Table 15-7). -/
def cap3Of (b : Bool) (x : FwSlot) : W64 :=
  BitVec.ofNat 64 (x.ifmaj * 2 ^ 56 + x.ifmin * 2 ^ 48 + x.svn * 2 ^ 41 + b.toNat * 2 ^ 40 + x.build)

/-- CODE and DATA lie in the SRAM, and the cores run from ENTRY (Table 13-5). -/
def State.loadImage (s : State) (img : List Byte) : State :=
  let code := (img.drop 128).take (imgCode img)
  let data := (img.drop (128 + imgCode img)).take (imgData img)
  let s := (s.writeBytes 25 0x1000_0000 code).writeBytes 25 0x2000_0000 data
  { s with fw := { s.fw with cores := (List.range 4).map fun c =>
      (c, { run := true, pc := BitVec.ofNat 32 (0x1000_0000 + field img 28 4), part := Comp.kernel.code }) } }

/-- The slices of group g are fenced for their test (R312). -/
def State.testGroup (s : State) (g : Nat) : State :=
  ((List.range s.nslices).filter fun n => n % 4 == g).foldl (fun (s : State) n => s.testFence n) s

/-- KINDLING begins: PTU_CAP3, the components, LEDGER's request for the stored Ledger (R328), the fences that have been due in TINDER
(R336), the start self-test's first group. -/
def State.kindle (s : State) (b : Bool) (img : List Byte) : State :=
  let x := slotOfImage img true
  let s := s.loadImage img
  let s : State := { s with
    pldm := (s.pldm.setSlot b x).setTried b true
    ctl := { s.ctl with cap3 := cap3Of b x, kindlingAt := s.clk.fclk, groupsLeft := 4, planesLeft := 4 } }
  (((s.setStage .kindling).ledgerHold ledFirmware (firmwarePayload fwBooted b x)).emit (.request "LEDGER_RESTORE" [])).settleDue.testGroup 0

/-- An image that fails is not tried again before it is written anew (R318). -/
def State.bootRefused (s : State) (b : Bool) (img : List Byte) : State :=
  let s : State := { s with pldm := (s.pldm.setSlot b { s.pldm.slot b with valid := false }).setTried b true }
  s.ledgerHold ledFirmware (firmwarePayload fwRefused b (slotOfImage img false))

/-- BOOT_VERIFIED (R316, R318). -/
def execBootVerified (slotB : Bool) (image : List Byte) (ecdsa mldsa : Bool) (f : Nat) (s : State) : Res :=
  let s := s.atFclk f
  if s.bootable slotB then
    if s.imageOk image ecdsa mldsa then .next (s.kindle slotB image) else .next (s.bootRefused slotB image)
  else .next s

/-! ### The start self-test (R312, R313) -/

/-- HEALTH and TEST run the start self-test in KINDLING. -/
def State.selfTesting (s : State) : Bool := s.ctl.stage == .kindling && s.compRuns .health && s.compRuns .test

/-- A failed start-up attempt: the sources that failed are logged; the third failure, and the second disagreement of the
DRBG instances, are unrecoverable (R314). -/
def State.failedAttempt (s : State) (failed : BitVec 2) (disagree : Bool) : State :=
  let s := (onesOf 2 failed.toNat).foldl (fun s n => s.logSource n) s
  let s : State := { s with emb := { s.emb with
    attempts := s.emb.attempts + 1, disagreed := s.emb.disagreed + disagree.toNat, latest := failed, differ := disagree } }
  if s.emb.attempts = 3 ∨ s.emb.disagreed = 2 then s.quench else s

/-- EMBER_HEALTH_ATTEMPT_END (R313, R314). -/
def execEmberHealthAttemptEnd (failed : BitVec 2) (disagree : Bool) (s : State) : Res :=
  if s.ctl.stage == .kindling && !s.emb.healthOk && !s.emb.isolated && decide (s.emb.attempts < 3) && decide (s.emb.disagreed < 2) then
    if failed = 0 ∧ disagree = false then .next { s with emb := { s.emb with healthOk := true, keysOk := true, latest := 0, differ := false } }
    else .next (s.failedAttempt failed disagree)
  else .next s

/-- The slices of a group leave their test: one that failed stays fenced. -/
def State.endGroup (s : State) (g : Nat) (failed : BitVec 24) : State :=
  ((List.range s.nslices).filter fun n => n % 4 == g && (tget s.slices n {}).testing).foldl (fun (s : State) n =>
    if failed.getLsbD n then s.hardFence n 6 else s.returnSlice n) s

/-- SLICE_GROUP_TEST_END (R312): the groups in turn. -/
def execSliceGroupTestEnd (g : Fin 4) (failed : BitVec 24) (s : State) : Res :=
  if s.selfTesting && s.ctl.groupsLeft + g.val == 4 then
    let s := s.endGroup g.val failed
    let s : State := { s with ctl := { s.ctl with groupsLeft := s.ctl.groupsLeft - 1 } }
    if g.val = 3 then .next s.holdPlane else .next (s.testGroup (g.val + 1))
  else .next s

/-- FLUE_LOOPBACK_END (R312): the planes in turn, after the slices, each held since its test began; one that fails stays
fenced. -/
def execFlueLoopbackEnd (pl : PlaneId) (pass : Bool) (s : State) : Res :=
  if s.selfTesting && s.ctl.groupsLeft == 0 && s.ctl.planesLeft + pl.val == 4 && s.flue.held.getLsbD pl.val then
    let s : State := { s with ctl := { s.ctl with planesLeft := s.ctl.planesLeft - 1 } }
    let s := if pass then s else s.fencePlanes (BitVec.ofNat 4 (2 ^ pl.val)) 6
    .next s.holdPlane
  else .next s

/-! ### BANKED -/

/-- Every item but the Ledger restore has ended, with Ember's tests passed (R313). -/
def State.bankable (s : State) : Bool :=
  s.ctl.stage == .kindling && s.ctl.groupsLeft == 0 && s.ctl.planesLeft == 0 && s.emb.healthOk && s.ctl.xfer.isNone && !s.inTest

/-- The fallback scheduler stops: rings with started work become DISABLED when its record is written, the others at once, and
FBSTAT keeps the positions (R311). -/
def State.endFallback (s : State) : State :=
  let s : State := { s with ctl := { s.ctl with fbAct := false } }
  (List.finRange 16).foldl (fun s h =>
    let s := s.fbStop h
    if s.drained (fbRing h) then s.fbDisabled h else s) s

/-- What firmware sets at entry to BANKED (R229, R284, R288, R289, R293, R300, R326). -/
def State.bankedDefaults (s : State) : State :=
  let s : State := { s with
    ctl := { s.ctl with manager := some 0 }
    hosts := s.hosts.map fun (e : Nat × HostFn) => (e.1, { e.2 with wt := 16, minctx := 2, maxctx := 64, grace := 10000 })
    sched := { s.sched with resv := (List.range s.nslices).map fun n => (n, 1), hresv := 1 }
    led := { s.led with interval := 3600, last := s.clk.fclk } }
  { s with sched := { s.sched with tk := (List.range s.nslices).map fun n => (n, s.tkOf n) } }

/-- The base code of the supply, and the target that it gives; it falls after a slower clock that is still to come (R374). -/
def State.setBase (s : State) (base : Nat) : State :=
  let s : State := { s with dmp := { s.dmp with base := base } }
  if s.dmp.req.isSome && decide (s.codeFor s.dmp.step < s.dmp.avs) then s else s.requestAvs (s.codeFor s.dmp.step)

/-- BANKED is entered. -/
def State.bank (s : State) (counts : List W16) (base : Nat) : State :=
  let s := s.readAges counts
  let s := s.ledgerHold ledAging (agingPayload 0 fun k => (counts.getD (k / 3) 0).toNat)
  ((s.endFallback.bankedDefaults).setStage .banked).setBase base

/-- ENTER_BANKED (R311, R313, R324, R374). -/
def execEnterBanked (counts : List W16) (base : Fin 21) (f : Nat) (s : State) : Res :=
  let s := s.atFclk f
  if s.bankable then .next (s.bank counts base.val) else .next s

/-! ### The boot watchdog (R313, R319) -/

/-- KINDLING has lasted 1 s; the watchdog fires once per reset. -/
def State.watchdogDue (s : State) : Bool :=
  s.ctl.stage == .kindling && !s.ctl.wdFired && decide (s.ctl.kindlingAt + secFclk ≤ s.clk.fclk) && !s.ctl.inReset

/-- The wipes, the return to TINDER, and the slot that has failed. -/
def State.watchdog (s : State) : State :=
  let b := bit s.ctl.cap3.toNat 40
  let x := s.runningImage
  let s := State.withSealEvent s { s with ctl := { s.ctl with sealen := false } }
  let s := s.spoilDests.dropService.wipeTables
  let s : State := { s with
    pldm := s.pldm.setSlot b { s.pldm.slot b with failed := true }
    emb := { s.emb with healthOk := false, keysOk := false, attempts := 0, disagreed := 0, bad := 0, latest := 0, differ := false, req := none, rsp := none }
    ctl := { s.ctl with
      fbAct := true, wdFired := true, cap3 := 0, manager := none, ist := none, ost := none, cal := none, hold := false, sealen := false } }
  (s.setStage .tinder).ledgerHold ledFirmware (firmwarePayload fwWatchdog b x)

/-- BOOT_WATCHDOG (R313, R319). -/
def execBootWatchdog (f : Nat) (s : State) : Res :=
  let s := s.atFclk f
  if s.watchdogDue then .next s.watchdog else .next s

end Sys2Proof.Machine
end

