-- ==== Sys2Proof/Machine/Edge.lean ====
section
/-! DEFINITION. The supplies (R373) and the test network (R378, R379). -/

namespace Sys2Proof.Machine

/-! ### Supplies -/

/-- Ember is isolated alone: the outputs of its domain read 0, and its mailbox answers nothing (R372, R373). -/
def State.isolateEmber (s : State) : State :=
  if s.emb.isolated then s
  else
    { s with emb := { s.emb with
        isolated := true, healthOk := false, keysOk := false, rsp := none, pieces := [], nonce := none
        reqAt := if s.emb.req.isSome then s.emb.reqAt else s.clk.fclk } }

/-- EMBER_POWER_LOSS (R373): ember_pwr_en falls. -/
def execEmberPowerLoss (s : State) : Res :=
  .next ({ s with edge := { s.edge with emberPwrEn := false } } : State).isolateEmber

/-- A rail is no longer good, and the PTU asserts pwr_fault. -/
def State.raisePwrFault (s : State) (rail : Fin 3) : State :=
  ({ s with edge := { s.edge with
      pwrFault := true, railGood := s.edge.railGood &&& ~~~ BitVec.ofNat 3 (2 ^ rail.val)
      faultHold := s.edge.faultHold || rail != 2 } } : State).emit .pwrFault

/-- RAIL_FAULT (R373): rails 0 VDD_PTU and 1 VDD_RICK hold every unit in reset, rail 2 VDD_EMBER isolates Ember alone. -/
def execRailFault (rail : Fin 3) (s : State) : Res :=
  .next ((if rail = 2 then s.isolateEmber else s.hardReset).raisePwrFault rail)

/-! ### The test network -/

/-- One bit of a segment register. -/
def segBit (k : Nat) : BitVec 7 := BitVec.ofNat 7 (2 ^ k)

/-- A request for one of S1 to S6 stops the fallback scheduler (R378). -/
def State.stopFallback (s : State) : State :=
  let s : State := { s with edge := { s.edge with fbStopped := true } }
  (List.finRange 16).foldl (fun s h => s.returnUnstarted (fbRing h)) s

/-- SEGMENT_INSERT (R378): S0 opens at once; S1 to S6 wait for the last record; outside Table 16-9 nothing opens. -/
def execSegmentInsert (bit : Fin 7) (s : State) : Res :=
  if !segPermitted s.part.lc bit.val then .next s
  else if bit = 0 then .next { s with edge := { s.edge with segs := s.edge.segs ||| 1 } }
  else if s.ctl.stage = .tinder ∨ (s.ctl.stage = .quenched ∧ !s.ctl.quenching) then
    let s : State := { s with edge := { s.edge with segWait := s.edge.segWait ||| segBit bit.val } }
    if s.ctl.stage = .tinder then .next s.stopFallback else .next s
  else .next s

/-- The slices wiped, whether fenced or not. -/
def State.wipeAllSlices (s : State) : State :=
  { s with slices := s.slices.map fun (e : Nat × Slice) => (e.1, e.2.wiped) }

/-- The wipe of the units that the instruments of bit k cover (R379, R243). -/
def State.wipeSegment (s : State) (k : Nat) : State :=
  if k = 1 then s.wipeAllSlices
  else if k = 2 then { s.wipeAllSlices with flue := s.flue.emptied }
  else if k = 3 then
    let s := (s.wipeAllSlices.zeroRange 25 0x1000_0000 0x20_0000).zeroRange 25 0x2000_0000 0x10_0000
    { s with rings := [], sync := [], xl := {}, ctxs := [], fetches := [], flue := s.flue.emptied
             ports := { s.ports with reqs := [], spaced := [], arbs := [] }, fw := {} }
  else if k = 4 then s.wipeShares (List.range s.nslices)
  else if k = 6 then { s with emb := { s.emb with ckpts := [], pieces := [], nonce := none, req := none, rsp := none, tx := [] } }
  else s

/-- SEGMENT_OPEN (R378, R379): no descriptor has started, and the units are wiped first. -/
def execSegmentOpen (bit : Fin 7) (s : State) : Res :=
  if s.edge.segWait.getLsbD bit.val && segPermitted s.part.lc bit.val && (s.ctl.stage == .tinder || s.ctl.stage == .quenched) &&
      s.workDone then
    let s := s.wipeSegment bit.val
    .next { s with edge := { s.edge with
      segs := s.edge.segs ||| segBit bit.val, segWait := s.edge.segWait &&& ~~~ segBit bit.val } }
  else .next s

/-- SEGMENT_CLOSE (R379): the close of S1 to S6 resets the PTU. -/
def execSegmentClose (s : State) : Res :=
  if 2 ≤ s.edge.segs.toNat then
    .next ({ s with edge := { s.edge with segs := s.edge.segs &&& 1, segWait := 0 } } : State).selfReset
  else .next s

end Sys2Proof.Machine
end

