-- ==== Sys2Proof/Machine/Regs.lean ====
section
/-! DEFINITION. The register map (15): what a read of the window returns, and the writes: GEVT, VCTL, GCTL, and every other
register (R7, R8, R350 to R353). -/

namespace Sys2Proof.Machine

/-! ### Reads -/

/-- A word from fields (place of bit 0, value). -/
def wordOf (l : List (Nat × Nat)) : W64 := BitVec.ofNat 64 (sumOf (l.map fun e => e.2 * 2 ^ e.1))

/-- A signed 8.8 temperature as 16 bits. -/
def temp16 (t : Int) : Nat := wrapNat t 16

def cap1 : W64 := 0xFFFF_C010_120A_FF40
def cap2 : W64 := 0x1000_8040_0400_2060

/-- PTU_STAGE (Table 15-8). -/
def State.stageWord (s : State) : W64 :=
  wordOf [(10, s.sealOk.toNat), (9, s.ctl.fbAct.toNat), (8, s.ctl.wdFired.toNat), (0, s.ctl.stage.code)]

/-- PTU_LC (Table 15-9). -/
def State.lcWord (s : State) : W64 :=
  wordOf [(20, s.ctl.xfer.isSome.toNat), (16, s.part.lc.keys), (8, s.part.floor), (0, s.part.lc.code)]

/-- The identity page (Table 15-2). -/
def State.readIdent (s : State) (o : Nat) : W64 :=
  if o = 0x00 then ptuIdLow else if o = 0x08 then s.part.serial else if o = 0x10 then cap0 s.part.variant
  else if o = 0x18 then cap1 else if o = 0x20 then cap2 else if o = 0x28 then s.ctl.cap3
  else if o = 0x30 then s.stageWord else if o = 0x38 then s.lcWord else 0

/-- PTU_DAMPER (Table 15-13). -/
def State.damperWord (s : State) : W64 :=
  let h := s.hottest.getD (0, 0)
  wordOf [(32, bitsOf s.gapped), (16, temp16 h.2), (8, h.1), (3, s.dmp.hhold.toNat), (0, s.dmp.step)]

/-- PTU_TSt (Table 15-15). -/
def Sensor.regWord (x : Sensor) : W64 := wordOf [(18, x.cal.toNat), (17, x.subst.toNat), (16, x.valid.toNat), (0, temp16 x.temp)]

/-- The global control page (Table 15-10). -/
def State.readGlobal (s : State) (o : Nat) : W64 :=
  if o = 0x00 then wordOf [(8, s.bwLocked.toNat), (1, s.ctl.sealen.toNat), (0, s.ctl.hold.toNat)]
  else if o = 0x08 then
    wordOf [(56, s.xorph.toNat), (32, s.orphanMask), (28, s.hl.qfenced.toNat), (24, s.flue.fenced.toNat), (0, s.fencedMask)]
  else if o = 0x18 then s.damperWord
  else if o = 0x20 then wordOf [(8, 192 - s.ctxs.length), (4, s.hl.qfenced.toNat)]
  else if 0x100 ≤ o ∧ o < 0x1E0 ∧ s.sensors.contains ((o - 0x100) / 8) then Sensor.regWord (s.sensor ((o - 0x100) / 8))
  else 0

/-- PTU_HOSTn_SESS (Table 15-18). -/
def State.sessWord (s : State) (h : HF) : W64 :=
  let x := s.host h
  wordOf [(40, (s.ctxs.filter fun e => s.ringHost e.2.ring == h).length), (16, x.lease), (3, x.flrBusy.toNat),
    (2, (s.ctl.manager == some h).toNat), (0, x.session.code)]

/-- VCTLv (Table 15-20). -/
def EvVec.ctlWord (v : EvVec) : W64 := wordOf [(49, v.pend.toNat), (48, v.mask.toNat), (32, v.holdoff.toNat), (0, v.data.toNat)]

/-- VPEND. -/
def HostFn.vpend (x : HostFn) : W64 := wordOf ((List.range 64).map fun v => (v, (x.vec v).pend.toNat))

/-- ASTAT (Table 15-21): no free slot where submissions are discarded. -/
def State.astat (s : State) (h : HF) : W64 :=
  let x := s.host h
  wordOf [(16, x.ovf.toNat), (8, x.rspw), (0, if s.submits then 64 - x.untaken else 0)]

/-- Word k of the oldest waiting response (Table 15-21). -/
def State.arsp (s : State) (h : HF) (k : Nat) : W64 :=
  let x := s.host h
  if x.rspw = 0 then 0 else BitVec.ofNat 64 (leNat (s.hsRead (rspSlot h x.rspOut + 8 * k) 8))

/-- A host set-up page (Table 15-17). -/
def State.readHost (s : State) (h : HF) (o : Nat) : W64 :=
  let x := s.host h
  if o = 0x00 then s.sessWord h else if o = 0x08 then x.gevt.setWidth 64 else if o = 0x10 then x.gevten.setWidth 64
  else if o = 0x18 then x.gvec.setWidth 64
  else if 0x100 ≤ o ∧ o < 0x500 then
    let v := x.vec ((o - 0x100) / 16)
    if o % 16 = 0 then (v.addr ++ (0 : BitVec 2)) else v.ctlWord
  else if o = 0x500 then x.vpend
  else if 0x800 ≤ o ∧ o < 0x840 then tget x.areq ((o - 0x800) / 8) 0
  else if o = 0x848 then s.astat h
  else if 0x880 ≤ o ∧ o < 0x8C0 then s.arsp h ((o - 0x880) / 8)
  else if 0x900 ≤ o ∧ o < 0x920 then tget x.fbent ((o - 0x900) / 8) 0
  else if o = 0x928 then s.fbLower h
  else if o = 0x930 then x.fbCapture
  else 0

/-- HSn serves the stack of the slice before it (Table 15-23). -/
def State.serves (s : State) (n : Nat) : Bool :=
  let m := (n + s.nslices - 1) % s.nslices
  s.live n && !s.live m

/-- HSn_STAT (Table 15-23). -/
def State.sliceStat (s : State) (n : Nat) : W64 :=
  let v := tget s.slices n {}
  wordOf [(24, bitsOf ((List.range 6).filter fun k => (v.pool k).user.isSome)), (16, s.queueLen n), (8, if v.fenced then v.cause else 0),
    (4, v.refused.toNat), (3, (s.serves n).toNat), (2, v.testing.toNat), (1, v.fenced.toNat), (0, (!v.fenced).toNat)]

/-- A slice window (Tables 15-23 to 15-25); those of absent slices read 0 (R3). HSn_FENCE reads 0: a test fence is complete in the step that
asks for it, and after a refusal, which completes none, TFENCE reads 0 too (DESIGN CHOICE, log 99). -/
def State.readSlice (s : State) (n o : Nat) : W64 :=
  let v := tget s.slices n {}
  if s.nslices ≤ n then 0
  else if o = 0x00 then s.sliceStat n
  else if o = 0x10 then wordOf [(56, v.resid), (48, v.uecnt), (32, v.cpat), (16, v.cdata), (0, v.crick)]
  else if o = 0x18 then v.ue
  else if o = 0x20 then wordOf [(32, v.ageMax.toNat), (16, v.ageMin.toNat), (0, v.ageLatest.toNat)]
  else 0

/-- A port has an overdue request outstanding. -/
def State.overdueAt (s : State) (p : Nat) : Bool := s.ports.reqs.any fun q => q.port.val == p && q.overdue

/-- MS_STATn (Table 15-26). -/
def State.stackStat (s : State) (n : Nat) : W64 :=
  let banked := s.ctl.stage == .banked
  wordOf [(32, tget s.ports.corr n 0), (16, if banked then tget s.sched.tk n 0 else 0), (8, (s.server n).getD n),
    (4, (s.orphaned n).toNat), (3, (s.overdueAt n).toNat), (2, ((s.server n).any fun k => k != n).toNat),
    (0, if banked then s.resvOf n else 0)]

/-- The Flue and SMX page (Table 15-26). -/
def State.readFlue (s : State) (o : Nat) : W64 :=
  if o = 0x00 then wordOf [(8, bitsOf ((List.range 4).filter fun x => s.flue.exch.any fun y => y.x == x)), (0, s.flue.fenced.toNat)]
  else if 0x10 ≤ o ∧ o < 0x30 then
    let p := (o - 0x10) / 8
    wordOf [(48, tget s.flue.err (4 * p) 0), (32, tget s.flue.err (4 * p + 1) 0), (0, tget s.flue.err (4 * p + 2) 0)]
  else if 0x100 ≤ o ∧ o < 0x1C0 then
    let n := (o - 0x100) / 8
    if n < s.nslices then s.stackStat n else 0
  else if o = 0x1C0 then
    wordOf [(8, s.xl.reqs.length), (3, (s.overdueAt 24).toNat), (0, if s.ctl.stage = .banked then s.sched.hresv else 0)]
  else 0

/-- BCc_STAT (Table 15-27). -/
def Core.statWord (c : Core) : W64 := wordOf [(36, c.part), (33, c.run.toNat), (32, c.halted.toNat), (0, c.pc.toNat)]

/-- Addresses that BW_DATA reads: the ROM beside those that it writes (R364). -/
def bwReadable (a : Nat) : Bool := decide (a < 0x1_0000) || bwWritable a

/-- The Bellows window (Table 15-27). -/
def State.readBellows (s : State) (who : Who) (o : Nat) : W64 :=
  if o = 0x00 then wordOf [(0, s.bwLocked.toNat)]
  else if !s.bwOpen who then 0
  else if o = 0x08 then wordOf [(3, s.fw.bwAddr.toNat)]
  else if o = 0x10 then if bwReadable s.bwAddress then BitVec.ofNat 64 (leNat (s.readBytes 25 s.bwAddress 8)) else 0
  else if 0x100 ≤ o ∧ o < 0x180 then
    let c := (o - 0x100) / 0x20
    if o % 0x20 = 0 then wordOf [(0, (s.core c).halt.toNat)] else if o % 0x20 = 8 then (s.core c).statWord else 0
  else 0

/-- EMB_STAT (Table 15-28). -/
def State.embStat (s : State) : W64 :=
  wordOf [(8, s.emb.ckpts.length), (4, s.emb.fail.toNat), (3, s.emb.keysOk.toNat), (2, s.emb.healthOk.toNat),
    (1, s.emb.rsp.isSome.toNat), (0, s.emb.req.isSome.toNat)]

/-- The Ember mailbox (Table 15-28); isolation cells hold its outputs at 0 (R372). -/
def State.readMailbox (s : State) (o : Nat) : W64 :=
  if s.emb.isolated then 0
  else if o < 0x40 then tget s.emb.tx (o / 8) 0
  else if o = 0x48 then s.embStat
  else if 0x80 ≤ o ∧ o < 0xC0 then BitVec.ofNat 64 (field (s.emb.rsp.getD []) (o - 0x80) 8)
  else 0

/-- The 64-bit register at an 8-byte-aligned offset. -/
def State.register (s : State) (who : Who) (off : Nat) : W64 :=
  let (a, o) := areaOf off
  match a with
  | .ident => s.readIdent o
  | .gctl => s.readGlobal o
  | .stoke => s.readGlobal o
  | .global => s.readGlobal o
  | .host m => s.readHost m o
  | .slice n => s.readSlice n o
  | .flue => s.readFlue o
  | .bellows => s.readBellows who o
  | .mailbox => s.readMailbox o
  | _ => 0

/-- What a read of the window returns: a permitted one of 4 or 8 bytes, naturally aligned, the register; every other one 0
(R350, R352). -/
def State.regRead (s : State) (who : Who) (off size : Nat) : W64 :=
  if s.windowUp && s.mayRead who (areaOf off).1 && (size == 4 || size == 8) && off % size == 0 then
    let w := s.register who (off / 8 * 8)
    if size = 8 then w else if off % 8 = 4 then w >>> 32 else w &&& 0xFFFF_FFFF
  else 0

/-- FBSTAT_READ (R359): a read of 0x0928 captures the whole register. -/
def execFbstatRead (who : Who) (page : HF) (size : Nat) (s : State) : Res :=
  if s.windowUp && s.mayRead who (.host page) && (size == 4 || size == 8) then
    .next (s.updHost page fun x => { x with fbCapture := s.fbUpper page })
  else .next (s.deniedRead who (.host page))

/-! ### Events and vectors -/

/-- A W1C write of GEVT; the events of `again` occur in the same cycle, keep their bits and signal once (R356). -/
def HostFn.clearGevt (x : HostFn) (v : W64) (again : BitVec 6) : HostFn :=
  (onesOf 6 again.toNat).foldl raiseGevt { x with gevt := x.gevt &&& ~~~ v.setWidth 6 }

/-- GEVT_CLEAR (R356). -/
def execGevtClear (tag page : HF) (v : W64) (again : BitVec 6) (s : State) : Res :=
  if s.writes (.host tag) (.host page) then .next (s.updHost page fun x => x.clearGevt v again) else .next s

/-- A write of VCTLv: DATA, HOLDOFF and MASK; PEND is read-only (Table 15-20). -/
def EvVec.setCtl (e : EvVec) (v : W64) : EvVec :=
  { e with data := v.setWidth 32, holdoff := (v >>> 32).setWidth 16, mask := v.getLsbD 48 }

/-- A write of VCTLv: clearing MASK with PEND set sends one message, when the holdoff permits it now (R357). -/
def State.vctlWrite (s : State) (h : HF) (k : Nat) (v : W64) : State :=
  let was := ((s.host h).vec k).mask
  let s := s.updHost h fun x => x.updVec k fun e => e.setCtl v
  if was && ((s.host h).vec k).due s.clk.nclk then s.sendMessage h k s.clk.nclk else s

/-- VCTL_WRITE (R357). -/
def execVctlWrite (tag page : HF) (vec : Fin 64) (v : W64) (s : State) : Res :=
  if s.writes (.host tag) (.host page) then .next (s.vctlWrite page vec.val v) else .next s

/-! ### PTU_GCTL -/

def State.setHold (s : State) (on : Bool) : State := { s with ctl := { s.ctl with hold := on } }
def State.setSealen (s : State) (on : Bool) : State := State.withSealEvent s { s with ctl := { s.ctl with sealen := on } }

/-- HOLD (R344, Table 15-11). -/
def execHold (who : Who) (on : Bool) (s : State) : Res :=
  if s.writes who .gctl then .next (s.setHold on) else .next (s.denied who .gctl)

/-- SEALEN (R241, Table 15-11). -/
def execSealen (who : Who) (on : Bool) (s : State) : Res :=
  if s.writes who .gctl then .next (s.setSealen on) else .next (s.denied who .gctl)

/-! ### Writes -/

/-- The cause code, 1 to 7, of a fence whose word carries none: a free value (R347, R362). -/
def State.freeCause (s : State) : Nat := 1 + Config.freeNat s.clk.free % 7

/-- A write in the global control page: PTU_GCTL, and QFREQ of PTU_STOKE. -/
def State.writeGlobal (s : State) (o : Nat) (v : W64) : State :=
  if o = 0x00 then (s.setSealen (v.getLsbD 1)).setHold (v.getLsbD 0)
  else if o = 0x20 then (s.fenceQuarters (v.setWidth 4) s.freeCause).useFree 1
  else s

/-- A write of FBCTL (Table 15-22). -/
def State.writeFbctl (s : State) (h : HF) (v : W64) : State :=
  if s.fbWritable then if v.getLsbD 32 then s.fbEnable h (v.setWidth 32) else s.fbStop h else s

/-- A write in a host set-up page (Table 15-17). -/
def State.writeHost (s : State) (h : HF) (o : Nat) (v : W64) : State :=
  if o = 0x08 then s.updHost h fun x => x.clearGevt v 0
  else if o = 0x10 then s.updHost h fun x => { x with gevten := v.setWidth 6 }
  else if o = 0x18 then s.updHost h fun x => { x with gvec := v.setWidth 6 }
  else if 0x100 ≤ o ∧ o < 0x500 then
    let k := (o - 0x100) / 16
    if o % 16 = 0 then s.updHost h fun x => x.updVec k fun e => { e with addr := (v >>> 2).setWidth 62 } else s.vctlWrite h k v
  else if 0x800 ≤ o ∧ o < 0x840 then s.updHost h fun x => { x with areq := tset 0 x.areq ((o - 0x800) / 8) v }
  else if o = 0x840 then if s.submits then s.submit h else s
  else if o = 0x848 then s.updHost h fun x => { x with ovf := x.ovf && !v.getLsbD 16 }
  else if o = 0x8C0 then s.popResponse h
  else if 0x900 ≤ o ∧ o < 0x920 then
    if s.fbWritable then s.updHost h fun x => { x with fbent := tset 0 x.fbent ((o - 0x900) / 8) v } else s
  else if o = 0x920 then s.writeFbctl h v
  else if o = 0x928 then s.updHost h fun x => { x with fbErr := x.fbErr && !v.getLsbD 2 }
  else s

/-- A write of HSn_FENCE (Table 15-24). -/
def State.writeSlice (s : State) (n o : Nat) (v : W64) : State :=
  if o = 0x08 ∧ n < s.nslices then
    let s := if v.getLsbD 0 then (s.hardFence n s.freeCause).useFree 1 else s
    let s := if v.getLsbD 1 then s.testFence n else s
    if v.getLsbD 2 then s.returnSlice n else s
  else s

/-- A write in the Bellows window (Table 15-27). -/
def State.writeBellows (s : State) (o : Nat) (v : W64) : State :=
  if o = 0x08 then { s with fw := { s.fw with bwAddr := (v >>> 3).setWidth 29 } }
  else if o = 0x10 then s.bwWrite v
  else if 0x100 ≤ o ∧ o < 0x180 ∧ o % 0x20 = 0 then
    let c := (o - 0x100) / 0x20
    let s := s.setHalt c (v.getLsbD 0)
    let s := if v.getLsbD 1 then s.warmReset c 0 else s
    if v.getLsbD 2 && (s.core c).halted then s.stepCore c else s
  else s

/-- A write in the mailbox (Table 15-28). -/
def State.writeMailbox (s : State) (o : Nat) (v : W64) : State :=
  if o < 0x40 then { s with emb := { s.emb with tx := tset 0 s.emb.tx (o / 8) v } }
  else if o = 0x40 then s.embSubmit
  else if o = 0xC0 then { s with emb := { s.emb with rsp := none } }
  else s

/-- A permitted write of 8 bytes at an 8-byte-aligned offset. -/
def State.regWrite (s : State) (off : Nat) (v : W64) : State :=
  let (a, o) := areaOf off
  match a with
  | .gctl => s.writeGlobal o v
  | .stoke => s.writeGlobal o v
  | .host m => s.writeHost m o v
  | .slice n => s.writeSlice n o v
  | .flue => if o = 0x08 then (s.fencePlanes (v.setWidth 4) s.freeCause).useFree 1 else s
  | .bellows => s.writeBellows o v
  | .mailbox => s.writeMailbox o v
  | _ => s

/-- A write of the window that takes effect (R350, R351, R363). -/
def State.writeTakes (s : State) (who : Who) (off size : Nat) : Bool :=
  s.writes who (areaOf off).1 && size == 8 && off % 8 == 0 && ((areaOf off).1 != .bellows || s.bwOpen who)

/-- REGISTER_WRITE (R7, R8, R350 to R353): a doorbell page takes doorbells; a write that is not permitted, or at an unassigned
offset, is discarded. -/
def execRegisterWrite (who : Who) (off size : Nat) (v : W64) (s : State) : Res :=
  match who, (areaOf off).1 with
  | .host h, .doorbell m => execDoorbell h m ((areaOf off).2) size v s
  | _, _ => if s.writeTakes who off size then .next (s.regWrite off v) else .next (s.denied who (areaOf off).1)

end Sys2Proof.Machine
end

