-- ==== Sys2Proof/Machine/TileRows.lean ====
section
/-! DEFINITION. The tile, control, Retort and Char instructions as commands of one slice (08, 09).

Each runs on the slice's tile unit as it stands: shapes, Char registers, accumulators, loops, operand copies and the
slots' pools, while a TILEPROG has them (R2, R194).  An instruction that the static checks of Table 08-9 and Table 09-8 refuse never runs (R193), so the
command then changes nothing (log 8). -/

namespace Sys2Proof.Machine

/-- What the checks need of the slots that a tile unit serves. -/
def TileUnit.slots (u : TileUnit) : List WSlot :=
  u.slotLen.map fun (e : Nat × Nat) => ⟨e.1, tget u.slotTy e.1 0, tget u.slotTp e.1 0, [ceilDiv e.2 128]⟩

/-- The static checks of an instruction against the unit as it stands (Table 08-9, Table 09-8). -/
def tileAdmits (s : State) (v : Slice) (i : TI) : Bool :=
  (firstFail (instrChecks s (v.tu.chain.map fun c => (c, [v.tu.mbase])) v.tu.slots v.tu
    (v.tu.loops.map fun (l : Nat × Nat × Nat) => (l.1, l.2.2)) ((v.tu.prog[v.tu.pc + 1]?).map tiOf) i)).isNone

/-- The started TILEPROG that has the units of slice n. -/
def State.tileSlot (s : State) (n : Nat) : Option (RingId × Slot) :=
  match (tget s.slices n {}).unit with
  | some u => ((s.slotOf u.1 u.2).filter fun d => d.phase == .started && d.opc == .tileprog).map fun d => (u.1, d)
  | none => none

/-- The share that slice n works: its place among those of the slice, and its stack. -/
def State.tileShare (s : State) (d : Slot) (n : Nat) : Nat :=
  (s.servedOf (piSlices d.image) n).getD (tget s.slices n {}).tu.share n

/-- The stack whose share slice n works: the s of R208. -/
def State.tileStack (s : State) (n : Nat) : Nat := match s.tileSlot n with
  | some e => s.tileShare e.2 n
  | none => n

/-- Every source fill of the share that slice n works is complete, and no pool of its destinations drains (R2, R189, R194). -/
def State.tileRuns (s : State) (n : Nat) : Bool :=
  let v := tget s.slices n {}
  match s.tileSlot n with
  | some e =>
    (e.2.readOps.all fun o => ((s.fillBlocks e.2 o n).drop (tget e.2.filled (8 * n + o.slot) 0)).all fun b => b.1 != s.tileShare e.2 n) &&
      v.tu.slotPool.all fun p => decide (p.1 < 4) || (v.pool p.2).role != .moverDrain
  | none => false

/-- The program has ended on a share and the slice has another: what it has written of the first drains, and it begins on the next
(R10, R180). -/
def State.nextShare (s : State) (n : Nat) : State :=
  let v := tget s.slices n {}
  match s.tileSlot n with
  | none => s
  | some (r, d) =>
    match (s.servedOf (piSlices d.image) n)[v.tu.share + 1]? with
    | none => s
    | some m =>
      if v.tu.pc < v.tu.prog.length then s
      else
        let m0 := s.tileShare d n
        let written (o : OpSnap) : List Nat :=
          ((o.block m0).zipIdx.filter fun x => tget v.tu.written (131072 * o.slot + x.2) false).map (·.1)
        let out (o : OpSnap) : List Nat := if o.slot = 4 ∧ !o.res then written o else []
        let s := { s with slices := tupd s.slices n {} fun v => (v.takeShare (s.ringHost r) d (v.tu.share + 1) m v.tu.slotPool) }
        let s := d.ops.foldl (fun s o => match v.tu.slotPool.lookup o.slot, out o with
          | some k, x :: xs =>
            let s := { s with slices := tupd s.slices n {} fun v => v.updPool k fun p => { p with drains := x :: xs } }
            s.startDrain r d n k s.clk.pclk
          | _, _ => s) s
        s.startFills r d n

/-- One instruction on a slice that works the share of stack n: control flow, or data, issue and the next index (R184, R187). -/
def tileDo (s : State) (n f : Nat) (v : Slice) (i : TI) : Slice :=
  if i.op = tLOOP then { v with tu := loopStart v.tu i }
  else if i.op = tENDL then { v with tu := loopEnd v.tu }
  else tileStep s n f v i

/-- The command of one instruction with opcode `op` on slice n. -/
def tileRow (op : Nat) (n : SliceId) (dst sa sb : Byte) (md : W32) (s : State) : Res :=
  onPclk s fun _ =>
  onSlice s n fun _ =>
    let i : TI := ⟨op, dst.toNat, sa.toNat, sb.toNat, md.toNat⟩
    let v := s.slice n
    if s.live n.val && s.tileRuns n.val && tileAdmits s v i then
      -- a row in the slice's issue gap comes when it is over (R376)
      let s := if v.gap = 0 then s else s.atPclk (v.nextIssue v.unit)
      let t := (s.setSlice n { tileDo s (s.tileStack n.val) s.clk.free v i with issued := some (s.clk.pclk, v.unit) }).useFree tileFree
      .next (t.nextShare n.val)
    else .next s

/-- NOP (R187). -/
def execNop (n : SliceId) (dst sa sb : Byte) (md : W32) (s : State) : Res := tileRow 0x00 n dst sa sb md s

/-- TCFG (R175, R176). -/
def execTcfg (n : SliceId) (dst sa sb : Byte) (md : W32) (s : State) : Res := tileRow 0x01 n dst sa sb md s

/-- TZERO (Table 08-5). -/
def execTzero (n : SliceId) (dst sa sb : Byte) (md : W32) (s : State) : Res := tileRow 0x02 n dst sa sb md s

/-- AZERO (Table 08-5). -/
def execAzero (n : SliceId) (dst sa sb : Byte) (md : W32) (s : State) : Res := tileRow 0x03 n dst sa sb md s

/-- TMOV (Table 08-5). -/
def execTmov (n : SliceId) (dst sa sb : Byte) (md : W32) (s : State) : Res := tileRow 0x04 n dst sa sb md s

/-- TLD (Table 08-5, R183). -/
def execTld (n : SliceId) (dst sa sb : Byte) (md : W32) (s : State) : Res := tileRow 0x08 n dst sa sb md s

/-- TST (Table 08-5, R180). -/
def execTst (n : SliceId) (dst sa sb : Byte) (md : W32) (s : State) : Res := tileRow 0x09 n dst sa sb md s

/-- ASTR (Table 08-5, R144). -/
def execAstr (n : SliceId) (dst sa sb : Byte) (md : W32) (s : State) : Res := tileRow 0x0A n dst sa sb md s

/-- LOOP (R184). -/
def execLoop (n : SliceId) (dst sa sb : Byte) (md : W32) (s : State) : Res := tileRow 0x10 n dst sa sb md s

/-- ENDL (R184). -/
def execEndl (n : SliceId) (dst sa sb : Byte) (md : W32) (s : State) : Res := tileRow 0x11 n dst sa sb md s

/-- TMACE (R143, R145, Table 08-6). -/
def execTmace (n : SliceId) (dst sa sb : Byte) (md : W32) (s : State) : Res := tileRow 0x40 n dst sa sb md s

/-- TMACB (R143, R145, Table 08-6). -/
def execTmacb (n : SliceId) (dst sa sb : Byte) (md : W32) (s : State) : Res := tileRow 0x41 n dst sa sb md s

/-- TMACR (R143, R145, Table 08-6). -/
def execTmacr (n : SliceId) (dst sa sb : Byte) (md : W32) (s : State) : Res := tileRow 0x42 n dst sa sb md s

/-- TMULE (R144, Table 08-6). -/
def execTmule (n : SliceId) (dst sa sb : Byte) (md : W32) (s : State) : Res := tileRow 0x48 n dst sa sb md s

/-- VADDM (R202). -/
def execVaddm (n : SliceId) (dst sa sb : Byte) (md : W32) (s : State) : Res := tileRow 0x80 n dst sa sb md s

/-- VSUBM (R202). -/
def execVsubm (n : SliceId) (dst sa sb : Byte) (md : W32) (s : State) : Res := tileRow 0x81 n dst sa sb md s

/-- VMULM (R202). -/
def execVmulm (n : SliceId) (dst sa sb : Byte) (md : W32) (s : State) : Res := tileRow 0x82 n dst sa sb md s

/-- VNEGM (R202). -/
def execVnegm (n : SliceId) (dst sa sb : Byte) (md : W32) (s : State) : Res := tileRow 0x83 n dst sa sb md s

/-- VACC (R205). -/
def execVacc (n : SliceId) (dst sa sb : Byte) (md : W32) (s : State) : Res := tileRow 0x84 n dst sa sb md s

/-- VADD (R202). -/
def execVadd (n : SliceId) (dst sa sb : Byte) (md : W32) (s : State) : Res := tileRow 0x88 n dst sa sb md s

/-- VSUB (R202). -/
def execVsub (n : SliceId) (dst sa sb : Byte) (md : W32) (s : State) : Res := tileRow 0x89 n dst sa sb md s

/-- VMUL (R202). -/
def execVmul (n : SliceId) (dst sa sb : Byte) (md : W32) (s : State) : Res := tileRow 0x8A n dst sa sb md s

/-- VMIN (R202). -/
def execVmin (n : SliceId) (dst sa sb : Byte) (md : W32) (s : State) : Res := tileRow 0x8B n dst sa sb md s

/-- VMAX (R202). -/
def execVmax (n : SliceId) (dst sa sb : Byte) (md : W32) (s : State) : Res := tileRow 0x8C n dst sa sb md s

/-- VAND (R202). -/
def execVand (n : SliceId) (dst sa sb : Byte) (md : W32) (s : State) : Res := tileRow 0x8D n dst sa sb md s

/-- VOR (R202). -/
def execVor (n : SliceId) (dst sa sb : Byte) (md : W32) (s : State) : Res := tileRow 0x8E n dst sa sb md s

/-- VXOR (R202). -/
def execVxor (n : SliceId) (dst sa sb : Byte) (md : W32) (s : State) : Res := tileRow 0x8F n dst sa sb md s

/-- VFADD (R202, R203). -/
def execVfadd (n : SliceId) (dst sa sb : Byte) (md : W32) (s : State) : Res := tileRow 0x90 n dst sa sb md s

/-- VFSUB (R202, R203). -/
def execVfsub (n : SliceId) (dst sa sb : Byte) (md : W32) (s : State) : Res := tileRow 0x91 n dst sa sb md s

/-- VFMUL (R202, R203). -/
def execVfmul (n : SliceId) (dst sa sb : Byte) (md : W32) (s : State) : Res := tileRow 0x92 n dst sa sb md s

/-- VFMA (R202, R203). -/
def execVfma (n : SliceId) (dst sa sb : Byte) (md : W32) (s : State) : Res := tileRow 0x93 n dst sa sb md s

/-- VCMP (R202). -/
def execVcmp (n : SliceId) (dst sa sb : Byte) (md : W32) (s : State) : Res := tileRow 0x98 n dst sa sb md s

/-- VSEL (R202). -/
def execVsel (n : SliceId) (dst sa sb : Byte) (md : W32) (s : State) : Res := tileRow 0x99 n dst sa sb md s

/-- VSPL (R204). -/
def execVspl (n : SliceId) (dst sa sb : Byte) (md : W32) (s : State) : Res := tileRow 0x9A n dst sa sb md s

/-- VMOV (R202). -/
def execVmov (n : SliceId) (dst sa sb : Byte) (md : W32) (s : State) : Res := tileRow 0x9B n dst sa sb md s

/-- VSHL (R202). -/
def execVshl (n : SliceId) (dst sa sb : Byte) (md : W32) (s : State) : Res := tileRow 0xA0 n dst sa sb md s

/-- VSHR (R202). -/
def execVshr (n : SliceId) (dst sa sb : Byte) (md : W32) (s : State) : Res := tileRow 0xA1 n dst sa sb md s

/-- VSRA (R202). -/
def execVsra (n : SliceId) (dst sa sb : Byte) (md : W32) (s : State) : Res := tileRow 0xA2 n dst sa sb md s

/-- VCVT (R206). -/
def execVcvt (n : SliceId) (dst sa sb : Byte) (md : W32) (s : State) : Res := tileRow 0xA8 n dst sa sb md s

/-- VENC (R210). -/
def execVenc (n : SliceId) (dst sa sb : Byte) (md : W32) (s : State) : Res := tileRow 0xA9 n dst sa sb md s

/-- VDEC (R211). -/
def execVdec (n : SliceId) (dst sa sb : Byte) (md : W32) (s : State) : Res := tileRow 0xAA n dst sa sb md s

end Sys2Proof.Machine
end

