-- ==== Sys2Proof/Machine/Dispatch.lean ====
section
/-! DEFINITION. The meaning of every command: one arm for each constructor of `Instr`. -/

namespace Sys2Proof.Machine

def exec (i : Instr) (s : State) : Host.Outcome State Fault Refusal :=
  match i with
  | .doorbell tag page off size v => Sys2Proof.Machine.execDoorbell tag page off size v s
  | .descriptorFetch r => Sys2Proof.Machine.execDescriptorFetch r s
  | .descriptorFetched a => Sys2Proof.Machine.execDescriptorFetched a s
  | .preCheck r p => Sys2Proof.Machine.execPreCheck r p s
  | .floodKeyDelivery r p => Sys2Proof.Machine.execFloodKeyDelivery r p s
  | .dispatch r p => Sys2Proof.Machine.execDispatch r p s
  | .deficitReplenish => Sys2Proof.Machine.execDeficitReplenish s
  | .schedulingRound inst f => Sys2Proof.Machine.execSchedulingRound inst f s
  | .sealedRefusalStart r p => Sys2Proof.Machine.execSealedRefusalStart r p s
  | .copy r p => Sys2Proof.Machine.execCopy r p s
  | .fill r p => Sys2Proof.Machine.execFill r p s
  | .transpose r p => Sys2Proof.Machine.execTranspose r p s
  | .bitrev r p => Sys2Proof.Machine.execBitrev r p s
  | .automorph r p => Sys2Proof.Machine.execAutomorph r p s
  | .negrot r p => Sys2Proof.Machine.execNegrot r p s
  | .pattern r p => Sys2Proof.Machine.execPattern r p s
  | .gather r p => Sys2Proof.Machine.execGather r p s
  | .scatter r p => Sys2Proof.Machine.execScatter r p s
  | .window r p => Sys2Proof.Machine.execWindow r p s
  | .relayout r p => Sys2Proof.Machine.execRelayout r p s
  | .baseconv r p => Sys2Proof.Machine.execBaseconv r p s
  | .rescale r p => Sys2Proof.Machine.execRescale r p s
  | .ksip r p => Sys2Proof.Machine.execKsip r p s
  | .digits r p => Sys2Proof.Machine.execDigits r p s
  | .lutpoly r p => Sys2Proof.Machine.execLutpoly r p s
  | .extract r p => Sys2Proof.Machine.execExtract r p s
  | .convert r p => Sys2Proof.Machine.execConvert r p s
  | .flood r p => Sys2Proof.Machine.execFlood r p s
  | .tileprog r p => Sys2Proof.Machine.execTileprog r p s
  | .fence r p => Sys2Proof.Machine.execFence r p s
  | .fenceSatisfied r p => Sys2Proof.Machine.execFenceSatisfied r p s
  | .signal r p => Sys2Proof.Machine.execSignal r p s
  | .moverFillComplete n k r p j => Sys2Proof.Machine.execMoverFillComplete n k r p j s
  | .passStart n src dst g first rows ty q0 q1 c => Sys2Proof.Machine.execPassStart n src dst g first rows ty q0 q1 c s
  | .passEnd n dst c => Sys2Proof.Machine.execPassEnd n dst c s
  | .exchangeStart x r p e c => Sys2Proof.Machine.execExchangeStart x r p e c s
  | .exchangeDelivered x c => Sys2Proof.Machine.execExchangeDelivered x c s
  | .poolWipeComplete n k => Sys2Proof.Machine.execPoolWipeComplete n k s
  | .stackResponse port m tag wr ecc => Sys2Proof.Machine.execStackResponse port m tag wr ecc s
  | .hostCompletion m tag wr ecc err => Sys2Proof.Machine.execHostCompletion m tag wr ecc err s
  | .translationCompletion h pasid iova res => Sys2Proof.Machine.execTranslationCompletion h pasid iova res s
  | .invalidationRequest h pasid iova size => Sys2Proof.Machine.execInvalidationRequest h pasid iova size s
  | .commit r p c => Sys2Proof.Machine.execCommit r p c s
  | .sealedRecordCycle r p c => Sys2Proof.Machine.execSealedRecordCycle r p c s
  | .collectorWrite r ok m => Sys2Proof.Machine.execCollectorWrite r ok m s
  | .eventAgeTrigger r m => Sys2Proof.Machine.execEventAgeTrigger r m s
  | .eventMessage h v m => Sys2Proof.Machine.execEventMessage h v m s
  | .nop n dst sa sb md => Sys2Proof.Machine.execNop n dst sa sb md s
  | .tcfg n dst sa sb md => Sys2Proof.Machine.execTcfg n dst sa sb md s
  | .tzero n dst sa sb md => Sys2Proof.Machine.execTzero n dst sa sb md s
  | .azero n dst sa sb md => Sys2Proof.Machine.execAzero n dst sa sb md s
  | .tmov n dst sa sb md => Sys2Proof.Machine.execTmov n dst sa sb md s
  | .tld n dst sa sb md => Sys2Proof.Machine.execTld n dst sa sb md s
  | .tst n dst sa sb md => Sys2Proof.Machine.execTst n dst sa sb md s
  | .astr n dst sa sb md => Sys2Proof.Machine.execAstr n dst sa sb md s
  | .loop n dst sa sb md => Sys2Proof.Machine.execLoop n dst sa sb md s
  | .endl n dst sa sb md => Sys2Proof.Machine.execEndl n dst sa sb md s
  | .tmace n dst sa sb md => Sys2Proof.Machine.execTmace n dst sa sb md s
  | .tmacb n dst sa sb md => Sys2Proof.Machine.execTmacb n dst sa sb md s
  | .tmacr n dst sa sb md => Sys2Proof.Machine.execTmacr n dst sa sb md s
  | .tmule n dst sa sb md => Sys2Proof.Machine.execTmule n dst sa sb md s
  | .vaddm n dst sa sb md => Sys2Proof.Machine.execVaddm n dst sa sb md s
  | .vsubm n dst sa sb md => Sys2Proof.Machine.execVsubm n dst sa sb md s
  | .vmulm n dst sa sb md => Sys2Proof.Machine.execVmulm n dst sa sb md s
  | .vnegm n dst sa sb md => Sys2Proof.Machine.execVnegm n dst sa sb md s
  | .vacc n dst sa sb md => Sys2Proof.Machine.execVacc n dst sa sb md s
  | .vadd n dst sa sb md => Sys2Proof.Machine.execVadd n dst sa sb md s
  | .vsub n dst sa sb md => Sys2Proof.Machine.execVsub n dst sa sb md s
  | .vmul n dst sa sb md => Sys2Proof.Machine.execVmul n dst sa sb md s
  | .vmin n dst sa sb md => Sys2Proof.Machine.execVmin n dst sa sb md s
  | .vmax n dst sa sb md => Sys2Proof.Machine.execVmax n dst sa sb md s
  | .vand n dst sa sb md => Sys2Proof.Machine.execVand n dst sa sb md s
  | .vor n dst sa sb md => Sys2Proof.Machine.execVor n dst sa sb md s
  | .vxor n dst sa sb md => Sys2Proof.Machine.execVxor n dst sa sb md s
  | .vfadd n dst sa sb md => Sys2Proof.Machine.execVfadd n dst sa sb md s
  | .vfsub n dst sa sb md => Sys2Proof.Machine.execVfsub n dst sa sb md s
  | .vfmul n dst sa sb md => Sys2Proof.Machine.execVfmul n dst sa sb md s
  | .vfma n dst sa sb md => Sys2Proof.Machine.execVfma n dst sa sb md s
  | .vcmp n dst sa sb md => Sys2Proof.Machine.execVcmp n dst sa sb md s
  | .vsel n dst sa sb md => Sys2Proof.Machine.execVsel n dst sa sb md s
  | .vspl n dst sa sb md => Sys2Proof.Machine.execVspl n dst sa sb md s
  | .vmov n dst sa sb md => Sys2Proof.Machine.execVmov n dst sa sb md s
  | .vshl n dst sa sb md => Sys2Proof.Machine.execVshl n dst sa sb md s
  | .vshr n dst sa sb md => Sys2Proof.Machine.execVshr n dst sa sb md s
  | .vsra n dst sa sb md => Sys2Proof.Machine.execVsra n dst sa sb md s
  | .vcvt n dst sa sb md => Sys2Proof.Machine.execVcvt n dst sa sb md s
  | .venc n dst sa sb md => Sys2Proof.Machine.execVenc n dst sa sb md s
  | .vdec n dst sa sb md => Sys2Proof.Machine.execVdec n dst sa sb md s
  | .uncorrectableWord pl r p f => Sys2Proof.Machine.execUncorrectableWord pl r p f s
  | .residueMismatch n r p f => Sys2Proof.Machine.execResidueMismatch n r p f s
  | .creditStarvation pl n cycles r p f => Sys2Proof.Machine.execCreditStarvation pl n cycles r p f s
  | .passEndWatchdog n dst c f => Sys2Proof.Machine.execPassEndWatchdog n dst c f s
  | .progressWatchdog n cycles f => Sys2Proof.Machine.execProgressWatchdog n cycles f s
  | .quarterFetchWatchdog q f => Sys2Proof.Machine.execQuarterFetchWatchdog q f s
  | .requestOverdue port m tag wr c => Sys2Proof.Machine.execRequestOverdue port m tag wr c s
  | .replayDecision r p f => Sys2Proof.Machine.execReplayDecision r p f s
  | .replay r p c => Sys2Proof.Machine.execReplay r p c s
  | .freq who n cause => Sys2Proof.Machine.execFreq who n cause s
  | .tfence who n => Sys2Proof.Machine.execTfence who n s
  | .tret who n => Sys2Proof.Machine.execTret who n s
  | .flueFenceFreq who mask cause => Sys2Proof.Machine.execFlueFenceFreq who mask cause s
  | .qfreq who mask cause => Sys2Proof.Machine.execQfreq who mask cause s
  | .asub tag page f => Sys2Proof.Machine.execAsub tag page f s
  | .apop tag page => Sys2Proof.Machine.execApop tag page s
  | .adminInvalidType h f => Sys2Proof.Machine.execAdminInvalidType h f s
  | .hello h f => Sys2Proof.Machine.execHello h f s
  | .keepalive h f => Sys2Proof.Machine.execKeepalive h f s
  | .goodbye h f => Sys2Proof.Machine.execGoodbye h f s
  | .timeHint h f => Sys2Proof.Machine.execTimeHint h f s
  | .leaseSet h f => Sys2Proof.Machine.execLeaseSet h f s
  | .ringSetup h f => Sys2Proof.Machine.execRingSetup h f s
  | .ringEnable h f => Sys2Proof.Machine.execRingEnable h f s
  | .ringDisable h f => Sys2Proof.Machine.execRingDisable h f s
  | .ringQuery h f => Sys2Proof.Machine.execRingQuery h f s
  | .syncReset h f => Sys2Proof.Machine.execSyncReset h f s
  | .chainLoad h f => Sys2Proof.Machine.execChainLoad h f s
  | .chainUnload h f => Sys2Proof.Machine.execChainUnload h f s
  | .adminWaitSatisfied h f => Sys2Proof.Machine.execAdminWaitSatisfied h f s
  | .adminBusyTimeout h f => Sys2Proof.Machine.execAdminBusyTimeout h f s
  | .keysetRegister h f => Sys2Proof.Machine.execKeysetRegister h f s
  | .keysetRelease h f => Sys2Proof.Machine.execKeysetRelease h f s
  | .logRead h f => Sys2Proof.Machine.execLogRead h f s
  | .telemetryRead h f => Sys2Proof.Machine.execTelemetryRead h f s
  | .inServiceTest h f => Sys2Proof.Machine.execInServiceTest h f s
  | .inServiceTestRun f => Sys2Proof.Machine.execInServiceTestRun f s
  | .inServiceTestEnd failed f => Sys2Proof.Machine.execInServiceTestEnd failed f s
  | .calibration h f => Sys2Proof.Machine.execCalibration h f s
  | .offlineSelfTest h f => Sys2Proof.Machine.execOfflineSelfTest h f s
  | .grantSet h f => Sys2Proof.Machine.execGrantSet h f s
  | .grantZeroed h f => Sys2Proof.Machine.execGrantZeroed h f s
  | .grantClear h f => Sys2Proof.Machine.execGrantClear h f s
  | .blockMove h f => Sys2Proof.Machine.execBlockMove h f s
  | .schedSet h f => Sys2Proof.Machine.execSchedSet h f s
  | .sealedResv h f => Sys2Proof.Machine.execSealedResv h f s
  | .graceSet h f => Sys2Proof.Machine.execGraceSet h f s
  | .hostQuery h f => Sys2Proof.Machine.execHostQuery h f s
  | .leaseCheck f => Sys2Proof.Machine.execLeaseCheck f s
  | .graceEnd h f => Sys2Proof.Machine.execGraceEnd h f s
  | .flrHf h f => Sys2Proof.Machine.execFlrHf h f s
  | .flrDone h => Sys2Proof.Machine.execFlrDone h s
  | .fbctlEnable tag page start => Sys2Proof.Machine.execFbctlEnable tag page start s
  | .fbctlDisable tag page => Sys2Proof.Machine.execFbctlDisable tag page s
  | .fallbackDisabled h => Sys2Proof.Machine.execFallbackDisabled h s
  | .fbstatRead who page size => Sys2Proof.Machine.execFbstatRead who page size s
  | .fallbackSchedule => Sys2Proof.Machine.execFallbackSchedule s
  | .gevtClear tag page v again => Sys2Proof.Machine.execGevtClear tag page v again s
  | .vctlWrite tag page vec v => Sys2Proof.Machine.execVctlWrite tag page vec v s
  | .hold who on => Sys2Proof.Machine.execHold who on s
  | .sealen who on => Sys2Proof.Machine.execSealen who on s
  | .bwDataRead who => Sys2Proof.Machine.execBwDataRead who s
  | .bwDataWrite who v => Sys2Proof.Machine.execBwDataWrite who v s
  | .halt who core on => Sys2Proof.Machine.execHalt who core on s
  | .wrst who core => Sys2Proof.Machine.execWrst who core s
  | .step who core => Sys2Proof.Machine.execStep who core s
  | .registerWrite who off size v => Sys2Proof.Machine.execRegisterWrite who off size v s
  | .health => Sys2Proof.Machine.execHealth s
  | .random => Sys2Proof.Machine.execRandom s
  | .nonce => Sys2Proof.Machine.execNonce s
  | .imgVerify ecdsa mldsa => Sys2Proof.Machine.execImgVerify ecdsa mldsa s
  | .lcVerify ecdsa mldsa => Sys2Proof.Machine.execLcVerify ecdsa mldsa s
  | .lcWrite => Sys2Proof.Machine.execLcWrite s
  | .floorRaise => Sys2Proof.Machine.execFloorRaise s
  | .reseed pass => Sys2Proof.Machine.execReseed pass s
  | .embRxpop who => Sys2Proof.Machine.execEmbRxpop who s
  | .mailboxTimeout f => Sys2Proof.Machine.execMailboxTimeout f s
  | .emberContinuousTestFail srcs => Sys2Proof.Machine.execEmberContinuousTestFail srcs s
  | .lcChallenge f => Sys2Proof.Machine.execLcChallenge f s
  | .lcTransition token ecdsa mldsa keyBlock f => Sys2Proof.Machine.execLcTransition token ecdsa mldsa keyBlock f s
  | .lcTransitionDrained => Sys2Proof.Machine.execLcTransitionDrained s
  | .lcQuery => Sys2Proof.Machine.execLcQuery s
  | .rollbackCommit => Sys2Proof.Machine.execRollbackCommit s
  | .managerSet h => Sys2Proof.Machine.execManagerSet h s
  | .logLevel on => Sys2Proof.Machine.execLogLevel on s
  | .ledgerInterval seconds => Sys2Proof.Machine.execLedgerInterval seconds s
  | .ledgerRestore img => Sys2Proof.Machine.execLedgerRestore img s
  | .ledgerRestoreTimeout f => Sys2Proof.Machine.execLedgerRestoreTimeout f s
  | .shutdownNotice f => Sys2Proof.Machine.execShutdownNotice f s
  | .ledgerPersist f => Sys2Proof.Machine.execLedgerPersist f s
  | .ledgerBinTick mv => Sys2Proof.Machine.execLedgerBinTick mv s
  | .agingReading counts => Sys2Proof.Machine.execAgingReading counts s
  | .queryDeviceIdentifiers => Sys2Proof.Machine.execQueryDeviceIdentifiers s
  | .getFirmwareParameters => Sys2Proof.Machine.execGetFirmwareParameters s
  | .requestUpdate => Sys2Proof.Machine.execRequestUpdate s
  | .passComponentTable components => Sys2Proof.Machine.execPassComponentTable components s
  | .updateComponent size => Sys2Proof.Machine.execUpdateComponent size s
  | .requestFirmwareData data ecdsa mldsa => Sys2Proof.Machine.execRequestFirmwareData data ecdsa mldsa s
  | .activateFirmware => Sys2Proof.Machine.execActivateFirmware s
  | .getStatus => Sys2Proof.Machine.execGetStatus s
  | .cancelUpdateComponent => Sys2Proof.Machine.execCancelUpdateComponent s
  | .cancelUpdate => Sys2Proof.Machine.execCancelUpdate s
  | .unsupportedPldmCommand code => Sys2Proof.Machine.execUnsupportedPldmCommand code s
  | .porN => Sys2Proof.Machine.execPorN s
  | .ptuRstNAssert => Sys2Proof.Machine.execPtuRstNAssert s
  | .ptuRstNRelease => Sys2Proof.Machine.execPtuRstNRelease s
  | .enterTinder => Sys2Proof.Machine.execEnterTinder s
  | .bootVerified slotB image ecdsa mldsa f => Sys2Proof.Machine.execBootVerified slotB image ecdsa mldsa f s
  | .emberHealthAttemptEnd failed disagree => Sys2Proof.Machine.execEmberHealthAttemptEnd failed disagree s
  | .sliceGroupTestEnd g failed => Sys2Proof.Machine.execSliceGroupTestEnd g failed s
  | .flueLoopbackEnd pl pass => Sys2Proof.Machine.execFlueLoopbackEnd pl pass s
  | .enterBanked counts base f => Sys2Proof.Machine.execEnterBanked counts base f s
  | .bootWatchdog f => Sys2Proof.Machine.execBootWatchdog f s
  | .componentFault k cause f => Sys2Proof.Machine.execComponentFault k cause f s
  | .activationDeadline k f => Sys2Proof.Machine.execActivationDeadline k f s
  | .heartbeat core seen f => Sys2Proof.Machine.execHeartbeat core seen f s
  | .coreFault core cause f => Sys2Proof.Machine.execCoreFault core cause f s
  | .componentRestarted k f => Sys2Proof.Machine.execComponentRestarted k f s
  | .damperSample temps watts f => Sys2Proof.Machine.execDamperSample temps watts f s
  | .pclkStepDone => Sys2Proof.Machine.execPclkStepDone s
  | .avsAck => Sys2Proof.Machine.execAvsAck s
  | .avsAckTimeout => Sys2Proof.Machine.execAvsAckTimeout s
  | .sensorCalibrationEnd t pass reading => Sys2Proof.Machine.execSensorCalibrationEnd t pass reading s
  | .railFault rail => Sys2Proof.Machine.execRailFault rail s
  | .emberPowerLoss => Sys2Proof.Machine.execEmberPowerLoss s
  | .segmentInsert bit => Sys2Proof.Machine.execSegmentInsert bit s
  | .segmentOpen bit => Sys2Proof.Machine.execSegmentOpen bit s
  | .segmentClose => Sys2Proof.Machine.execSegmentClose s
  | .offlineSelfTestEnd rickFail kilnFail retortFail planes rest f => Sys2Proof.Machine.execOfflineSelfTestEnd rickFail kilnFail retortFail planes rest f s

end Sys2Proof.Machine
end

