-- ==== Sys2Proof/Machine/Idle.lean ====
section
/-! DEFINITION. What the block does while no command waits: its clocks count on, and a word may be found that the Hsiao code
corrects (R329, R368); the table has no row for either (log 7). -/

namespace Sys2Proof.Machine

/-- A corrected word in slice n: its counter of Table 15-25, telemetry and Ledger, and the rate rule of Table 14-2. A fenced
slice reads nothing (R337). -/
def State.sliceCorrected (s : State) (n kind : Nat) (count : Slice → Slice) : State :=
  if s.pclkRuns && !(tget s.slices n {}).fenced then
    (({ s with slices := tupd s.slices n {} count } : State).countCorrected kind).correctedUnit 8 n (unitSlice n)
  else s

/-- A corrected word on plane q (R78): FLUE_ERRq.CORR (Table 15-26). -/
def State.planeCorrected (s : State) (q : Nat) : State :=
  if s.pclkRuns && !s.flue.fenced.getLsbD q then
    (({ s with flue := { s.flue with err := tcount s.flue.err (4 * q + 2) 32 1 } } : State).countCorrected 2).correctedUnit 9 q
      (unitPlane q)
  else s

/-- A corrected word of Stoke, in quarter q, which no telemetry counter counts. -/
def State.quarterCorrected (s : State) (q : Nat) : State :=
  if s.pclkRuns && !s.hl.qfenced.getLsbD q then s.correctedUnit 10 q (unitQuarter q) else s

/-- A corrected word at a place (R58, R78, R169, R329): 0 Rick, 1 Kiln or turner, 2 tile file, Char register or accumulator,
3 pattern store of slice n, 4 Flue plane, 5 Stoke quarter, 6 Bellows SRAM; none for any other number. -/
def State.findCorrected (s : State) (place n : Nat) : State :=
  let h := n % s.nslices
  match place with
  | 0 => s.sliceCorrected h 0 fun v => { v with crick := sat 16 (v.crick + 1) }
  | 1 => s.sliceCorrected h 1 fun v => { v with cdata := sat 16 (v.cdata + 1) }
  | 2 => s.sliceCorrected h 4 fun v => { v with cdata := sat 16 (v.cdata + 1) }
  | 3 => s.sliceCorrected h 5 fun v => { v with cpat := sat 16 (v.cpat + 1) }
  | 4 => s.planeCorrected (n % 4)
  | 5 => s.quarterCorrected (n % 4)
  | 6 => s.countCorrected 6
  | _ => s

/-- Every clock of Table 16-3 counts on by a free number of cycles; pclk stands while HHOLD holds it (R369). -/
def State.pass (s : State) : State :=
  let k := s.clk.free
  { s with clk :=
      { pclk := if s.dmp.hhold then s.clk.pclk else s.clk.pclk + Config.freeNat k
        nclk := s.clk.nclk + Config.freeNat (k + 1)
        fclk := s.clk.fclk + Config.freeNat (k + 2)
        sclk := s.clk.sclk + Config.freeNat (k + 3)
        free := k + 6 } }

/-- An idle step: time passes, and outside reset at most one corrected word is found, at a free place. -/
def idle (s : State) : State :=
  let k := s.clk.free
  if s.ctl.inReset then s.pass else s.pass.findCorrected (Config.freeNat (k + 4)) (Config.freeNat (k + 5))

end Sys2Proof.Machine
end

