-- ==== Sys2Proof/Safety.lean ====
section
/-! DEFINITION. The terms in which statements speak of the machine: a command that completes, what a command leaves
alone, the canonical form of the memory, and the rows that share one statement. -/

namespace Sys2Proof.Safety

open Sys2Proof.Machine

/-- Command `c` completes in state `s`, and `P` holds of the state that it answers. -/
def Runs (c : Instr) (s : State) (P : State → Prop) : Prop := ∃ t, exec c s = .next t ∧ P t

/-- An outcome that goes on: neither a fault nor a refusal. -/
def Safe (o : Res) : Prop := ∃ t, o = .next t

/-- The memory lists its bytes by rising key, and none that reads as an unlisted byte. -/
def MemoryCanonical (s : State) : Prop := Memory.wf s.mem = true

/-- The byte at address `a` of memory space `sp`. -/
def byteOf (s : State) (sp a : Nat) : Byte := readMem s.mem (memKey sp a)

/-- Only slice `n`, and the counter of free values, may differ. -/
def OnlySlice (n : Nat) (s t : State) : Prop :=
  t = { s with slices := t.slices, clk := { s.clk with free := t.clk.free } } ∧
    ∀ m, m ≠ n → tget t.slices m {} = tget s.slices m {}

/-- Only ring `r` may differ. -/
def OnlyRing (r : RingId) (s t : State) : Prop :=
  t = { s with rings := t.rings } ∧ ∀ x, x ≠ r → t.ring x = s.ring x

/-- Only what the block keeps of host function `h` may differ. -/
def OnlyHost (h : HF) (s t : State) : Prop :=
  t = { s with hosts := t.hosts } ∧ ∀ g, g ≠ h → t.host g = s.host g

/-- The fetched descriptors of ring `r` are those of `s`, with descriptor `p` passed through `f`. -/
def SlotBecomes (r : RingId) (p : W32) (f : Slot → Slot) (s t : State) : Prop :=
  t.slotsOf r = (s.slotsOf r).map fun d => if d.idx = p then f d else d

/-- A descriptor but for its places in queues: the issue queues of its slices, with what its leaving them asks for first, the collector's
slice queue. -/
def unqueued (d : Slot) : Slot := { d with bound := false, queue := none, halves := 0 }

/-- The rows of Table 00-5 that write tensors, each with its opcode. -/
def opcodeRows : List ((RingId → W32 → Instr) × Op) :=
  [(.copy, .copy), (.fill, .fill), (.transpose, .transpose), (.bitrev, .bitrev), (.automorph, .automorph),
    (.negrot, .negrot), (.pattern, .pattern), (.gather, .gather), (.scatter, .scatter), (.window, .window)] ++
  [(.relayout, .relayout), (.baseconv, .baseconv), (.rescale, .rescale), (.ksip, .ksip), (.digits, .digits),
    (.lutpoly, .lutpoly), (.extract, .extract), (.convert, .convert), (.flood, .flood), (.tileprog, .tileprog)]

/-! ### Values of an effect -/

/-- The effect gives element k of the operand in slot 4 the value v, none for an undefined one. -/
def GivesAt (e : Effect) (k : Nat) (v : Option Nat) : Prop := ∃ vs, e.vals = [(4, vs)] ∧ ∀ w, (k, w) ∈ vs ↔ w = v

/-- The effect leaves element k of the operand in slot 4 alone. -/
def LeavesAt (e : Effect) (k : Nat) : Prop := ∃ vs, e.vals = [(4, vs)] ∧ ∀ w, (k, w) ∉ vs

/-- The moduli of the element at row-major position k of card c, by MCHAIN, MFIRST and MAXIS of a descriptor (R105); MAXIS = 7 binds none,
for which 0 stands: x % 0 = x. -/
def boundModuli (s : State) (d : Slot) (c : LayoutCard) (k : Nat) : Nat × Nat :=
  let axis := byteAt d.bytes 82 % 8
  let first := byteAt d.bytes 81 % 64
  let m (i : Nat) : Nat := s.modulus (byteAt d.bytes 80) i
  let i := if axis < 6 then (unflatten c.dims k).getD axis 0 else 0
  if axis = 7 then (0, 0)
  else if c.ty = tyU32P then (m (first + 2 * i), m (first + 2 * i + 1))
  else (m (first + i), m (first + i))

/-- FILL of a card as an element with moduli q takes it (R47, R113). -/
def fillOf (c : LayoutCard) (q : Nat × Nat) : Nat :=
  let w := c.fill.toNat % 2 ^ tyBits c.ty
  if c.ty = tyU64 ∨ c.ty = tyU64M then w % q.1
  else if c.ty = tyS64 then
    let x : Int := signed w 64 % (q.1 : Int)
    wrapNat (if 2 * x ≤ (q.1 : Int) then x else x - q.1) 64
  else if c.ty = tyU32P then w % 2 ^ 32 % q.1 + 2 ^ 32 * (w / 2 ^ 32 % q.2)
  else w

/-- The bits of an element of type ty with moduli q, negated (R59). -/
def negatedBits (ty : Nat) (q : Nat × Nat) (raw : Nat) : Nat :=
  let b := tyBits ty
  let x := raw % 2 ^ b
  (if ty = tyU64 ∨ ty = tyU64M then (q.1 - x % q.1) % q.1
  else if ty = tyS64 then wrapNat (-(signed x 64)) 64
  else if ty = tyU32P then (q.1 - x % 2 ^ 32 % q.1) % q.1 + 2 ^ 32 * ((q.2 - x / 2 ^ 32 % q.2) % q.2)
  else if isFloat ty then x + 2 ^ (b - 1)
  else 2 ^ b - x) % 2 ^ b

/-- Σ x × w mod q over some operands and constants; undefined where an operand is, or a constant is not below q. -/
def sumOfProducts (q : Nat) (ts : List (Option Nat × Nat)) : Option Nat :=
  if ts.all fun t => t.1.isSome && decide (t.2 < q) then some (sumOf (ts.map fun t => t.1.getD 0 * t.2) % q) else none

/-- Two halves of a word, each defined. -/
def halves : Option Nat → Option Nat → Option Nat
  | some a, some b => some (a + 2 ^ 32 * b)
  | _, _ => none

/-! ### Tile instructions -/

/-- A tile instruction runs on slice `n`: pclk goes on, the slice is there and in service, a started TILEPROG has its units, and
the static checks of Table 08-9 and Table 09-8 permit the instruction. -/
def TileRuns (s : State) (n : SliceId) (i : TI) : Prop :=
  s.pclkRuns = true ∧ n.val < s.nslices ∧ s.live n.val = true ∧ s.tileRuns n.val = true ∧ tileAdmits s (s.slice n) i = true

/-- A tile row on slice n completes: `P` holds of what the instruction leaves; at the end of its program the slice then goes on to the next
share that it works (R10, R180). -/
def RunsTile (n : SliceId) (c : Instr) (s : State) (P : State → Prop) : Prop := Runs c s fun t => ∃ u : State, t = u.nextShare n.val ∧ P u

/-- Only slice n and the counter of free values may differ, and the clock where the slice has an issue gap: the row then comes when the
gap is over (R376). -/
def OnlyTile (n : SliceId) (s t : State) : Prop :=
  t = { s with
    slices := t.slices
    clk := { s.clk with pclk := if (s.slice n).gap = 0 then s.clk.pclk else max s.clk.pclk ((s.slice n).nextIssue (s.slice n).unit), free := t.clk.free } } ∧
    ∀ m, m ≠ n.val → tget t.slices m {} = tget s.slices m {}

/-- No shape entry of a unit is larger than a pair of tiles holds: 128 rows of 128 lanes (R171, R175). -/
def ShapesFit (u : TileUnit) : Prop := ∀ b, (u.sh b).rows ≤ 128 ∧ (u.sh b).cols ≤ 128

/-- The destination of Char instruction `i` holds `f r l` for row-op `r` and lane `l`, stored in its type: the rows and
columns of a destination tile, or the 128 lanes of a Char register (R198, R202). -/
def CharWrites (u w : TileUnit) (i : TI) (f : Nat → Nat → Nat) : Prop :=
  if isTile i.dst then
    ∀ r l, r < (u.sh i.dst).rows → l < (u.sh i.dst).cols → w.el i.dst r l = narrow i.dstTy (f r l)
  else ∀ l, l < 128 → w.vtLane i.dst l = widen i.dstTy (f 0 l)

/-- z is x / d rounded to an integer in mode `rnd` of Table 09-3: RNE, RTZ, RDN, RUP, or STOCH with the random value R (R207, R208). -/
def RoundsTo (rnd R : Nat) (x : Int) (d : Nat) (z : Int) : Prop :=
  if rnd = 0 then 2 * (x - z * d).natAbs ≤ d ∧ (2 * (x - z * d).natAbs = d → z % 2 = 0)
  else if rnd = 1 then z.natAbs * d ≤ x.natAbs ∧ x.natAbs < (z.natAbs + 1) * d ∧ 0 ≤ x * z
  else if rnd = 2 then z * d ≤ x ∧ x < (z + 1) * d
  else if rnd = 3 then (z - 1) * d < x ∧ x ≤ z * d
  else z = x / d + if (R : Int) * d < x % d * 2 ^ 32 then 1 else 0

/-- The smallest and the largest integer that an integer or fixed-point type holds. -/
def typeMin (ty : Nat) : Int := if isUnsignedInt ty then 0 else -(2 ^ (tyBits ty - 1) : Nat)
def typeMax (ty : Nat) : Int := if isUnsignedInt ty then (2 ^ tyBits ty - 1 : Nat) else (2 ^ (tyBits ty - 1) - 1 : Nat)

/-- The row of the tile operands in row-op `r`: the same row, or TROW for a Char destination (R198). -/
def charRow (i : TI) (r : Nat) : Nat := if isTile i.dst then r else i.trow

/-- One tile row of the table: the constructor and its opcode. -/
abbrev TileRow := (SliceId → Byte → Byte → Byte → W32 → Instr) × Nat

/-- The tile, control and Retort rows (Table 08-5, Table 08-6). -/
def tileControlRows : List TileRow :=
  [(.nop, 0x00), (.tcfg, 0x01), (.tzero, 0x02), (.azero, 0x03), (.tmov, 0x04), (.tld, 0x08), (.tst, 0x09), (.astr, 0x0A),
    (.loop, 0x10), (.endl, 0x11), (.tmace, 0x40), (.tmacb, 0x41), (.tmacr, 0x42), (.tmule, 0x48)]

/-- The Char rows (Table 09-4). -/
def charRows : List TileRow :=
  [(.vaddm, 0x80), (.vsubm, 0x81), (.vmulm, 0x82), (.vnegm, 0x83), (.vacc, 0x84), (.vadd, 0x88), (.vsub, 0x89), (.vmul, 0x8A),
    (.vmin, 0x8B), (.vmax, 0x8C), (.vand, 0x8D), (.vor, 0x8E), (.vxor, 0x8F), (.vfadd, 0x90), (.vfsub, 0x91), (.vfmul, 0x92)] ++
  [(.vfma, 0x93), (.vcmp, 0x98), (.vsel, 0x99), (.vspl, 0x9A), (.vmov, 0x9B), (.vshl, 0xA0), (.vshr, 0xA1), (.vsra, 0xA2),
    (.vcvt, 0xA8), (.venc, 0xA9), (.vdec, 0xAA)]

/-- The instruction that a tile row's operands make. -/
def tiWith (op : Nat) (dst sa sb : Byte) (md : W32) : TI := ⟨op, dst.toNat, sa.toNat, sb.toNat, md.toNat⟩

/-! ### The admin channel -/

/-- The next request that ADMIN takes from host function `h` at fclk count `f` is `q`, of type `ty` (R291, R292). -/
def Takes (s : State) (h : HF) (f ty : Nat) (q : List Byte) : Prop := (s.atFclk f).nextRequest h = some q ∧ rqType q = ty

/-- The state with the request taken. -/
def taken (s : State) (h : HF) (f : Nat) : State := (s.atFclk f).take h

/-- ADMIN has answered request `q` of host function `h`: the response stands in the next response slot of the hearthstone
region, one more response waits, no request does, and the host's AVEC is signalled (R292). -/
def Answers (h : HF) (q : List Byte) (result : Nat) (payload : List Byte) (s t : State) : Prop :=
  t.readBytes 0 (rspSlot h (s.host h).rspIn) 64 = responseBytes q result payload ∧ (t.host h).rspIn = (s.host h).rspIn + 1 ∧
    (t.host h).cur = none ∧ ∀ v, (t.host h).avec = some v → ((t.host h).vec v.val).pend = true

/-- The request is taken and waits (R292). -/
def Waits (h : HF) (q : List Byte) (s t : State) : Prop :=
  (t.host h).cur = some { req := q, since := s.clk.fclk } ∧ (t.host h).rspIn = (s.host h).rspIn

/-- Every ring of host function `h` is DISABLED and every sync counter of it is 0. -/
def Wiped (h : HF) (t : State) : Prop :=
  (∀ r, t.ringOwner r = h → (t.ring r).st = .disabled) ∧ ∀ k, k < 256 → t.syncCounter h k = 0

/-- The physical address of byte `a` of an admin buffer. -/
def bufferAddr (s : State) (h : HF) (a : Nat) : Option Nat :=
  (s.translation h (s.host h).pasid (a / 4096 * 4096)).map fun e => e.phys + (a - e.iova)

/-! ### Faults, resets and the management port -/

/-- An uncorrectable word in a unit of a slice: the slice, what HSn_UE reports (Table 15-25), the replay cause (R347). -/
def sliceWord : Place → Option (SliceId × W64 × Nat)
  | .rick n k b w => some (n, ueWord 1 w.val b.val k.val, 1)
  | .kiln n => some (n, ueWord 2 0 0 0, 1)
  | .turner n => some (n, ueWord 3 0 0 0, 1)
  | .tileFile n => some (n, ueWord 4 0 0 0, 1)
  | .charRegs n => some (n, ueWord 4 0 0 0, 1)
  | .accumulators n => some (n, ueWord 4 0 0 0, 1)
  | .patternStore n => some (n, ueWord 5 0 0 0, 3)
  | .directLane n => some (n, ueWord 6 0 0 0, 1)
  | _ => none

/-- The slice that a place lies in. -/
def placeSlice : Place → Option SliceId
  | .bypass n => some n
  | pl => (sliceWord pl).map (·.1)

/-- Table 14-2: the word is the second of its kind within one second, or the second at one place of a Rick. -/
def secondWord (s : State) (f : Nat) : Place → Bool
  | .rick n k b w =>
    s.repeated 0 (n.val * 8 + k.val) f || s.repeated 1 (((n.val * 8 + k.val) * 128 + b.val) * 1024 + w.val) f
  | .directLane n => s.repeated 4 n.val f
  | pl => match sliceWord pl with
    | some x => s.repeated 2 x.1.val f
    | none => false

/-- Descriptor `p` of ring `r` stands aborted for a replay cause, with the unit that is hard-faulted, if any. -/
def Aborted (r : RingId) (p : W32) (cause : Nat) (unit : Option Nat) (t : State) : Prop :=
  ∀ e ∈ t.slotsOf r, e.idx = p → e.phase = .aborted ∧ e.cause = cause ∧ e.unit = unit

/-- Descriptor `p` of ring `r` runs: it has started, and a fault can still abort it; a SIGNAL is never aborted (R332, R334). -/
def RunsIn (s : State) (r : RingId) (p : W32) : Prop := ∃ d, s.slotOf r p = some d ∧ d.running = true ∧ d.isSignal = false

/-- No descriptor `p` of ring `r` runs. -/
def RunsNot (s : State) (r : RingId) (p : W32) : Prop := ∀ d, s.slotOf r p = some d → d.running = false

/-- An access that takes no effect: of a host function, of the management port, or of a component to its own windows it changes
nothing; of a component outside them it is a component fault of cause 1 (R279, R352). -/
def Refused (own : Comp → Bool) (who : Who) (s : State) (o : Res) : Prop :=
  ((∀ c, who = .fw c → own c = true) → o = .next s) ∧
    ∀ c, who = .fw c → own c = false → s.compRuns c = true → s.firmwareUp = true → c ≠ .kernel → c ≠ .boot →
      ∃ t, o = .next t ∧ (t.component c).st ≠ .running ∧ (t.component c).cause = 1

/-- A write of an area that takes no effect; the windows that a component writes are those of Table 12-1 but for fencing, which a SCHED
instance only reads (R340, R362). -/
def Denied (who : Who) (a : Area) (s : State) (o : Res) : Prop := Refused (fun c => fwWrites c a) who s o

/-- A read of an area that takes no effect. -/
def DeniedRead (who : Who) (a : Area) (s : State) (o : Res) : Prop := Refused (fun c => fwReaches c a) who s o

/-- The state at fclk count `f`. -/
def atF (s : State) (f : Nat) : State := { s with clk := { s.clk with fclk := max s.clk.fclk f } }

/-- A slice without the data of its users: pools, tile unit, pattern store and share units (Table 13-2, R337). -/
def SliceEmpty (v : Slice) : Prop :=
  v.pools = [] ∧ v.passes = [] ∧ v.tu = {} ∧ v.pstore = [] ∧ v.pstoreHf = none ∧ v.share1 = 0 ∧ v.share2 = 0 ∧ v.seed = 0 ∧
    v.expander = [] ∧ v.conv = 0 ∧ v.adder = 0 ∧ v.shareHf = none ∧ v.unit = none ∧ v.cbuf = [] ∧ v.issued = none

/-- Every host function's copy of GEVT holds event `b`. -/
def AllEvents (b : Nat) (t : State) : Prop := ∀ h, (t.host h).gevt.getLsbD b = true

/-- Ember has answered request `q` (R365). -/
def EmberAnswers (q : List Byte) (status : Nat) (payload : List Byte) (t : State) : Prop :=
  t.emb.req = none ∧ t.emb.rsp = some (embResponse q status payload)

/-- The management port has answered a command: code 0 accepted, 1 refused. -/
def PortAnswers (cmd : String) (code : Nat) (payload : List Byte) (s t : State) : Prop :=
  t.out = s.out ++ [.mgmt cmd code payload]

/-- Nothing of service is left: no ring, context, descriptor, translation, sync counter, key set or block that moved; each
host function has its fallback grant alone (R308). -/
def NoService (t : State) : Prop :=
  t.rings = [] ∧ t.ctxs = [] ∧ t.fetches = [] ∧ t.xl = {} ∧ t.sync = [] ∧ t.keysets = [] ∧ t.blocks = [] ∧ t.zeroing = [] ∧
    t.grants = fallbackGrants

/-- QUENCHED has been entered for a failure of Ember (R314). -/
def Quenched (t : State) : Prop :=
  t.ctl.stage = .quenched ∧ t.emb.fail = true ∧ t.emb.healthOk = false ∧ t.emb.keysOk = false ∧ t.ctl.cap3 = 0 ∧
    t.ctl.fbAct = false ∧ t.ctl.sealen = false

end Sys2Proof.Safety
end

