-- ==== Sys2Proof/Certificates/Slice0/Obligations.lean ====
section
/-! DEFINITION. The statements about the model, for the provers. -/

open Sys2Proof Sys2Proof.Machine Sys2Proof.Safety

/-! ### The step -/

/-- A step runs the command at the front of the queue on the state with the queue's rest. -/
def Obligations.StepRunsFrontCommand : Prop :=
  ∀ (c : Instr) (rest : List Instr) (s : State), s.pending = c :: rest → step s = exec c { s with pending := rest }

/-- On an empty queue the clocks go on, pclk not during a hard hold (R377), and a corrected word may be found and counted, and
its unit fenced (the model's choice, log entry 7): no session, grant, key set, sync counter, supply or firmware slot changes,
and while the part is held in reset nothing but the clocks. -/
def Obligations.EmptyQueueIdles : Prop :=
  ∀ s : State, s.pending = [] → ∃ t, step s = .next t ∧
    s.clk.nclk ≤ t.clk.nclk ∧ s.clk.fclk ≤ t.clk.fclk ∧ s.clk.sclk ≤ t.clk.sclk ∧ s.clk.pclk ≤ t.clk.pclk ∧
    (s.dmp.hhold = true → t.clk.pclk = s.clk.pclk) ∧ (s.ctl.inReset = true → t = { s with clk := t.clk }) ∧
    t.pending = [] ∧ t.part = s.part ∧ t.grants = s.grants ∧ t.keysets = s.keysets ∧ t.sync = s.sync ∧ t.pldm = s.pldm ∧
    t.edge = s.edge ∧ t.dmp = s.dmp ∧ t.ctl.stage = s.ctl.stage ∧
    (∀ h, (t.host h).session = (s.host h).session ∧ (t.host h).epoch = (s.host h).epoch)

/-! ### Stoke: doorbells, fetch, pre-check, keys -/

/-- A doorbell that R251 lists is discarded and counted, and nothing else changes; one with d = 0 or at least 2^31 changes
nothing; one that fits sets PI and the pending bit; one that does not fit puts the ring in ERROR with cause OVERRUN (R252, R253).
Before TINDER every doorbell is discarded, in QUENCHED it is discarded and counted (R306, R314, R352). -/
def Obligations.DoorbellMovesIndex : Prop :=
  ∀ (tag page : HF) (off size : Nat) (v : W64) (s : State), off < 4096 →
    (s.ctl.stage = .reset → exec (.doorbell tag page off size v) s = .next s) ∧
    (s.ctl.stage = .quenched → Runs (.doorbell tag page off size v) s fun t =>
      t.host tag = { s.host tag with tele := tcount (s.host tag).tele 7 64 1 } ∧ OnlyHost tag s t) ∧
    (s.ctl.stage ≠ .reset → s.ctl.stage ≠ .quenched →
    let r : RingId := Fin.ofNat 65536 (v.toNat / 2 ^ 48)
    let x : W32 := v.setWidth 32
    let taken : Prop := size = 8 ∧ off % 8 = 0 ∧ tag = page ∧ v.toNat / 2 ^ 32 % 2 ^ 16 = 0 ∧ s.ringOwner r = tag ∧
      (s.ring r).st = .enabled
    let ahead : Prop := 0 < (x - (s.ring r).pi).toNat ∧ (x - (s.ring r).pi).toNat < 2 ^ 31
    let fits : Prop := (x - (s.ring r).doneI).toNat ≤ 2 ^ (s.ringEntry r).log2size
    (taken → ahead → fits → Runs (.doorbell tag page off size v) s fun t =>
      (t.ring r).pi = x ∧ (t.ring r).pend = true ∧ (t.ring r).st = .enabled ∧ (t.ring r).doneI = (s.ring r).doneI ∧
        (t.ring r).fetch = (s.ring r).fetch ∧ OnlyRing r s t) ∧
    (taken → ¬ ahead → exec (.doorbell tag page off size v) s = .next s) ∧
    (taken → ahead → ¬ fits → Runs (.doorbell tag page off size v) s fun t =>
      (t.ring r).st = .error ∧ (t.ring r).cause = 1 ∧ (t.ring r).pi = (s.ring r).pi ∧
        ((t.host tag).vec (s.ringEntry r).vec).pend = true ∧ ∀ y, y ≠ r → t.ring y = s.ring y) ∧
    (¬ taken → Runs (.doorbell tag page off size v) s fun t =>
      t.host tag = { s.host tag with tele := tcount (s.host tag).tele 7 64 1 } ∧ OnlyHost tag s t))

/-- A fetch takes at most 8 descriptors (one on a fallback ring), holds at most 16, does not cross the end of the ring
and does not pass PI, and issues its requests with a tag of its fetcher; with nothing to fetch the pending bit goes (R93, R253,
R255, R310). -/
def Obligations.FetchBounds : Prop :=
  ∀ (r : RingId) (s : State), s.pclkRuns = true → (s.ctxOf r).any (fun e => !e.2.leaving) = true → (s.ring r).pend = true →
    s.fetchable r = true →
    let p := s.nextFetch r
    let size := 2 ^ (s.ringEntry r).log2size
    let held := (s.slotsOf r).length + s.inFlight r
    let n := min (min (if s.isFallback r then 1 - held else 8) (16 - held)) (min (size - p.toNat % size) ((s.ring r).pi - p).toNat)
    (0 < n → Runs (.descriptorFetch r) s fun t =>
      t.fetches = s.fetches ++ [{ r := r, first := p, n := n }] ∧ n ≤ 8 ∧ held + n ≤ 16 ∧ p.toNat % size + n ≤ size ∧
        t.ports = ((s.fetchReqs r p n).foldl State.request s).ports ∧
        t = { s with fetches := t.fetches, xl := t.xl, hosts := t.hosts, out := t.out, ports := t.ports }) ∧
    (p = (s.ring r).pi → s.inFlight r = 0 → Runs (.descriptorFetch r) s fun t =>
      t.ring r = { s.ring r with pend := false } ∧ OnlyRing r s t)

/-- The oldest outstanding fetch of a ring gives its descriptors their slots and moves the fetch position; a descriptor
in a stack arrives as its 128 bytes, those that a running descriptor is still to write being free (R34), and a poisoned one ends in
SOURCE_CORRUPT, as one from host memory does whose completion carries an error; on a ring that is being flushed they are FLUSHED
(R254, R255, R277, R367). That one which no grant reaches ends in XLATE_FAULT is the model's choice (R31, log entry 99). -/
def Obligations.FetchedDescriptorsTakeSlots : Prop :=
  ∀ (r : RingId) (errs : Byte) (f : Fetch) (s : State), s.pclkRuns = true → (s.ctxOf r).isSome = true → s.ringGone r = false →
    s.fetches.find? (fun g => g.r == r) = some f → (s.fetchNeeds f).isEmpty = true →
    Runs (.descriptorFetched ⟨r, errs⟩) s fun t =>
      t.slotsOf r = s.slotsOf r ++ ((List.range f.n).map fun i =>
        let d := s.fetchedSlot r (f.first + BitVec.ofNat 32 i) (errs.getLsbD i)
        if (s.ring r).flushing = true ∧ d.phase = .fetched then d.flushed else d) ∧
      (t.ring r).fetch = f.first + BitVec.ofNat 32 f.n ∧ (t.ring r).pi = (s.ring r).pi ∧ t.fetches = s.fetches.erase f ∧
      (∀ p err,
        let a := (s.ringEntry r).dbase + 128 * (p.toNat % 2 ^ (s.ringEntry r).log2size)
        let failed (st : W16) : Slot := { idx := p, bytes := List.replicate 128 0, phase := .checked, status := st }
        ((s.ringEntry r).loc ≠ 0xFF → s.fetchedSlot r p err =
          if s.inGrant (s.ringHost r) (s.ringEntry r).loc a 1 = false then failed stXlateFault
          else if s.poisoned (s.ringEntry r).loc a 128 then failed stSourceCorrupt
          else { idx := p, bytes := s.readSettled (s.ringEntry r).loc a 128 }) ∧
        (∀ e, (s.ringEntry r).loc = 0xFF →
          s.translation (s.ringHost r) (if (s.ringEntry r).pv then some (s.ringEntry r).pasid else none) (a / 4096 * 4096) = some e →
          s.fetchedSlot r p true = failed stSourceCorrupt)) ∧
      (∀ q ∈ t.ports.reqs, ¬ (q.item = itemFetch ∧ q.r = r ∧ q.p = f.first)) ∧
      t = { s with fetches := t.fetches, ctxs := t.ctxs, rings := t.rings, xl := t.xl, ports := t.ports }

/-- The oldest descriptor that is not pre-checked takes the outcome of its checks: alone when it begins no chain, with its
whole chain when it begins an Open one, FLUSHED after a failed member, and with the earlier members of a Sealed chain. One that
waits for translations keeps what it has read (R30, R268). -/
def Obligations.PreCheckFixesStatus : Prop :=
  ∀ (r : RingId) (p : W32) (n : Nat) (c : Ctx) (d : Slot) (rest : List Slot) (s : State), s.pclkRuns = true →
    s.ctxOf r = some (n, c) → c.slots.dropWhile (fun d => d.phase != .fetched) = d :: rest → d.idx = p →
    let ms := openMembers c.members
    let chain := chainRun (16 - ms.length) (d :: rest)
    let first := match ms with | [] => p | m :: _ => m.idx
    let ready (x : Slot) : Slot := { x with
      readyAt := s.clk.pclk, consts := s.lutConsts r x, sigAt := if x.isSignal then s.sigPlace r x else none }
    let flushed : Slot := { d with status := stFlushed, detail := 0, phase := .checked, chain := some first }
    -- one Open descriptor, or one on a fallback ring, where nothing is linked
    (ms = [] → ((dSealed d.bytes || dLink d.bytes) && !s.isFallback r) = false → (chainWhole chain || s.isFallback r) = true →
      (∀ e ∈ chain, e.phase ≠ .checked) →
      let x := s.preCheckOne r [] [] d
      (x.needs = [] → s.pinsFull r x.slot = false → Runs (.preCheck r p) s fun t =>
        SlotBecomes r p (fun _ => ready x.slot) s t ∧ t = { s with ctxs := t.ctxs, xl := t.xl, out := t.out }) ∧
      (x.needs ≠ [] → Runs (.preCheck r p) s fun t =>
        SlotBecomes r p (fun _ => x.slot.keepSnapshot) s t ∧
          t = { s with ctxs := t.ctxs, xl := t.xl, hosts := t.hosts, out := t.out })) ∧
    -- an Open chain
    (ms = [] → dSealed d.bytes = false → s.isFallback r = false → dLink d.bytes = true → chainWhole chain = true →
      (∀ e ∈ chain, e.phase ≠ .checked) →
      let xs := s.checkAll r p (namedResidents chain) [] chain
      (∀ x ∈ xs, x.2 = []) → (chainOutcome (xs.map (·.1))).any (s.pinsFull r) = false → Runs (.preCheck r p) s fun t =>
        t.slotsOf r = ((s.slotsOf r).map fun e => (((chainOutcome (xs.map (·.1))).map ready).find? fun y => y.idx == e.idx).getD e) ∧
          t = { s with ctxs := t.ctxs, xl := t.xl, out := t.out }) ∧
    -- a member after a failed one
    (chainWhole (List.replicate ms.length d ++ chain) = true → ms.any (·.failed) = true →
      s.pinsFull r flushed = false →
      Runs (.preCheck r p) s fun t =>
        SlotBecomes r p (fun _ => ready flushed) s t ∧
          t = { s with ctxs := t.ctxs, xl := t.xl, out := t.out }) ∧
    -- a Sealed descriptor, or a member of a Sealed chain
    (chainWhole (List.replicate ms.length d ++ chain) = true → ms.any (·.failed) = false → (∀ e ∈ chain, e.phase ≠ .checked) →
      (dSealed d.bytes || !ms.isEmpty) = true → s.isFallback r = false →
      let x := s.preCheckOne r ms (namedResidents chain ++ ms.flatMap fun m => (m.ops.filter (·.res)).map fun o => (o.stack, o.addr))
        { d with chain := if dLink d.bytes || !ms.isEmpty then some first else none }
      x.needs = [] → s.pinsFull r x.slot = false → Runs (.preCheck r p) s fun t =>
        SlotBecomes r p (fun _ => ready x.slot) s t ∧ t = { s with ctxs := t.ctxs, xl := t.xl, out := t.out })

/-- The status and the DETAIL of a pre-check are those of the first check that fails, in the order of the stages of Table 11-5, and
0 where none does (R268, R269). An unassigned opcode is BAD_OPCODE (R9); CLASS SEALED, or FLOOD, while Sealed service is unavailable
is SEALED_UNAVAILABLE with DUR 0 (R4, R307); a Sealed FENCE or SIGNAL where it is available is BAD_OPCODE (R225), and so, outside BANKED,
is an opcode other than COPY, FILL and SIGNAL (R307); LINK or RES on a fallback ring is SHAPE_FAULT (R310); and a source cipher card
ends in SHAPE_FAULT, BAD_TYPE or CHAIN_MISMATCH as R43 gives. Within stage 5 the types come before the shapes, and these before
the moduli. -/
def Obligations.PreCheckFindsFirstFailure : Prop :=
  ∀ (s : State) (r : RingId) (ms : List Member) (named : List (Nat × Nat)) (d : Slot),
    let y := (s.preCheckOne r ms named d).slot
    let refused (st : W16) (detail : Nat) : Prop := y.status = st ∧ y.detail = BitVec.ofNat 16 detail ∧ y.phase = .checked
    let asksSealed (op : Op) : Prop := dSealed d.bytes = true ∨ op = .flood
    (opOf d.bytes = none ↔ byteAt d.bytes 0 ∉ [0x01, 0x02, 0x10, 0x11, 0x12, 0x13, 0x14, 0x18, 0x19, 0x1A, 0x20, 0x28, 0x29, 0x2A, 0x2B, 0x30,
      0x31, 0x38, 0x39, 0x40, 0x50, 0x51]) ∧
    (opOf d.bytes = none → refused 0x0105 0x1F00) ∧
    (s.sealedServed = true ↔ s.part.variant.sealed = true ∧ s.ctl.sealen = true ∧ (s.part.lc = .seasoned ∨ s.part.lc = .service) ∧
      s.ctl.stage = .banked ∧ s.emb.keysOk = true) ∧
    ∀ op, opOf d.bytes = some op →
      let header : Nat := if op = .tileprog then 0xFFFF else 0x1F00
      let u := s.withSeen d
      let x := u.snapshot (s.ringHost r) op ms d
      let v : State := { u with poison := x.bad ++ u.badIn [⟨0, 0, 0x400_0000⟩] }
      let cs := v.allChecks r (s.ringHost r) op ms named x
      let classed : Prop := (asksSealed op → s.sealedServed = true) ∧ ¬(dSealed d.bytes = true ∧ (op = .fence ∨ op = .signal))
      (asksSealed op → s.sealedServed = false → refused 0x0203 header ∧ y.dur = 0) ∧
      (dSealed d.bytes = true → op = .fence ∨ op = .signal → s.sealedServed = true → refused 0x0105 header) ∧
      (classed → s.ctl.stage ≠ .banked → op ∉ [.copy, .fill, .signal] → refused 0x0105 header) ∧
      -- the fallback scheduler
      ((stage1 s op d.bytes).all (·.ok) = true → s.isFallback r = true → op ≠ .tileprog →
        (dLink d.bytes = true → refused 0x0101 0x2F00) ∧
        (∀ k, dLink d.bytes = false → k ∈ opSlots op → bit (field d.bytes (32 + 8 * k) 8) 62 = true →
          (∀ j ∈ opSlots op, j < k → bit (field d.bytes (32 + 8 * j) 8) 62 = false) → refused 0x0101 (0x2000 + 256 * k))) ∧
      -- the source cipher card
      (∀ cc, x.scard = some cc → op ≠ .tileprog →
        (stage1 v op x.bytes ++ v.fallbackChecks r op x.bytes ++ stage2 op x.bytes ms (inChain ms x.bytes) ++ v.poolRule op ms named x).all (·.ok) = true →
        v.cardOk (s.ringHost r) (scardPtr x.bytes) = true → v.poisoned (scardPtr x.bytes).stack (scardPtr x.bytes).addr 64 = false →
        let fields : Prop := cc.valid = true ∧ cc.poison = false ∧ 10 ≤ cc.log2n ∧ cc.log2n ≤ 18 ∧ cc.level ≤ 63 ∧ 1 ≤ cc.limbs ∧ cc.limbs ≤ 64 ∧
          cc.npoly ≤ 1 ∧ cc.rsv = false
        let scheme : Prop := cc.scheme = 1 ∨ cc.scheme = 2 ∨ cc.scheme = 3 ∨ cc.scheme = 4
        (¬ fields → refused 0x0101 0x3600) ∧ (fields → ¬ scheme → refused 0x0107 0x3600) ∧
        (fields → scheme → (if cc.scheme = 4 then cc.limbs ≠ 1 else cc.limbs ≠ cc.level + 1) → refused 0x0112 0x3600)) ∧
      -- the first failure
      (cs.all (·.ok) = true → y.status = 0 ∧ y.detail = 0) ∧
      (∀ (before after : List Chk) (c : Chk), cs = before ++ c :: after → before.all (·.ok) = true → c.ok = false →
        y.status = c.st ∧ (op ≠ .tileprog → y.detail = BitVec.ofNat 16 c.detail)) ∧
      (d.snapped = false → op ≠ .tileprog →
        ((cs.filter fun c => c.st != stSourceCorrupt).map fun c => c.detail / 4096).Pairwise (· ≤ ·) ∧
        ∀ c ∈ cs, c.st = stSourceCorrupt → 0xA000 ≤ c.detail ∧ c.detail < 0xA00A) ∧
      ((v.stage5 op x).map fun c => if c.st = 0x0107 then 0 else if c.st = 0x0101 then 1 else 2).Pairwise (· ≤ ·)

/-- A flood key reaches every slice of the plan as two shares whose exclusive or is the key, under the host function's tag, and
the descriptor keeps no copy of it; one that has a checkpoint gets the key of that checkpoint again, and one that has started goes on
(R11, R234 to R236). -/
def Obligations.FloodKeySharesCombineToKey : Prop :=
  ∀ (r : RingId) (p : W32) (d : Slot) (s : State), s.pclkRuns = true → s.slotOf r p = some d → s.keyReady r p d = true →
    Runs (.floodKeyDelivery r p) s fun t => ∃ (u : State) (k : FloodKey), t = State.bindWaiting u ∧
      (∀ n ∈ (s.planned d).slices, (tget u.slices n {}).share1 = k.k1 ∧
        (tget u.slices n {}).share1 ^^^ (tget u.slices n {}).share2 = k.k ∧ (tget u.slices n {}).seed = k.seeds.getD n 0 ∧
        (tget u.slices n {}).shareHf = some (s.ringHost r) ∧ (tget t.slices n {}).share1 = (tget u.slices n {}).share1 ∧
        (tget t.slices n {}).share2 = (tget u.slices n {}).share2) ∧
      (match s.emb.ckpts.find? fun c => c.r == r && c.p == p with
        | some c => k = c.key ∧ t.emb = s.emb
        | none => t.emb = { s.emb with ckpts := s.emb.ckpts ++ [{ r := r, p := p, key := k }] }) ∧
      SlotBecomes r p (fun e => { e with
        keyed := true, slices := (s.planned d).slices, phase := if e.phase = .started then .started else .checked }) s u ∧
      (∀ m, m ∉ (s.planned d).slices → tget u.slices m {} = tget s.slices m {}) ∧
      t = { s with slices := t.slices, ctxs := t.ctxs, ports := t.ports, emb := t.emb, clk := { s.clk with free := t.clk.free } }

/-! ### Scheduling -/

/-- A dispatch starts every member of its unit in the current cycle, and charges the unit's cost to the host function's
deficit and the kilobytes moved to each stack's tokens (R286); the issue queues, of 32, have room for all of it (R13). That work which a
fence has put back after its charge is not charged again is the model's choice (R337, log entry 77). A refusal with DUR 256
at the head of its ring starts in the cycle after its pre-check or after the record before it, with its run complete and 256
charged, and not while dispatch is held (R227, R290, R344). When no waiting host function has a positive deficit, each of them gets
the same number k of rounds of WT × 256, the smallest that makes one deficit positive; the others keep no positive deficit (R288). -/
def Obligations.DispatchAndRefusalStart : Prop :=
  (
    ∀ (r : RingId) (p : W32) (d : Slot) (s : State), s.pclkRuns = true → s.dispatchable r p = true → s.slotOf r p = some d →
      let ds := s.unit r d
      let due := ds.filter fun d => !d.charged
      Runs (.dispatch r p) s fun t =>
        (t.host (s.ringHost r)).deficit = (s.host (s.ringHost r)).deficit - unitCost due ∧
        (∀ n, n < 24 → t.tokens n = s.tokens n - (ceilDiv (s.unitBytes due n) 1024 : Nat)) ∧
        (∀ e ∈ t.slotsOf r, e.idx ∈ ds.map (·.idx) → e.phase = .started ∧ e.start = s.clk.pclk) ∧
        (t.slotsOf r).length = (s.slotsOf r).length ∧
        (((s.slotsOf r).map fun e => e.idx).Nodup → s.roomFor r (ds.map s.planned) = true) ∧
        (∀ g, g ≠ s.ringHost r → t.host g = s.host g) ∧
        t = { s with hosts := t.hosts, sched := t.sched, ctxs := t.ctxs, slices := t.slices, ports := t.ports
                     clk := { s.clk with free := t.clk.free } }) ∧
  (
    ∀ (r : RingId) (p : W32) (s : State), s.pclkRuns = true → s.refusalReady r p = true →
      (s.held = true → exec (.sealedRefusalStart r p) s = .next s) ∧
      (s.held = false → Runs (.sealedRefusalStart r p) s fun t =>
        let c := max (((s.slotOf r p).map (·.readyAt)).getD 0) (((s.ctxOf r).map fun e => e.2.recordAt).getD 0) + 1
        SlotBecomes r p (fun d => { d with phase := .ran, start := c, doneAt := some c }) s t ∧
        (t.host (s.ringHost r)).deficit = (s.host (s.ringHost r)).deficit - 256 ∧
        (∀ g, g ≠ s.ringHost r → t.host g = s.host g) ∧
        t = { s with hosts := t.hosts, ctxs := t.ctxs, clk := { s.clk with pclk := max s.clk.pclk c } })) ∧
  (
    ∀ s : State, s.pclkRuns = true → s.ctl.stage = .banked → s.spent = true → (∀ h ∈ s.waitingHosts, 1 ≤ (s.host h).wt) →
      Runs .deficitReplenish s fun t => ∃ k : Nat, 1 ≤ k ∧
        (∀ h ∈ s.waitingHosts, (t.host h).deficit = (s.host h).deficit + k * (s.host h).wt * 256) ∧
        (∀ h, h ∉ s.waitingHosts → (t.host h).deficit = min (s.host h).deficit 0) ∧
        (∃ h ∈ s.waitingHosts, 0 < (t.host h).deficit) ∧
        (∀ j, j < k → ∀ h ∈ s.waitingHosts, (s.host h).deficit + j * (s.host h).wt * 256 ≤ 0) ∧
        t = { s with hosts := t.hosts })

/-- A scheduling round refreshes the tokens of its instance's stacks: by TK[n], up to twice TK[n] (R289). A message port is a
queue of 32 messages of 64 bytes at most; a send to a full one is kept and repeated at the sender's next activation (R280). -/
def Obligations.RoundRefreshesTokens : Prop :=
  (∀ (fw : Firmware) (k : Nat) (m : List Byte),
    ((tget fw.ports k []).length < 32 → tget (fw.send k m).ports k [] = tget fw.ports k [] ++ [m.take 64] ∧ (fw.send k m).unsent = fw.unsent) ∧
    (32 ≤ (tget fw.ports k []).length → (fw.send k m).ports = fw.ports ∧ (fw.send k m).unsent = fw.unsent ++ [(k, m)]) ∧
    (∀ j, j ≠ k → tget (fw.send k m).ports j [] = tget fw.ports j []) ∧
    (∀ a, fw.unsent = [(k, m)] → k / 16 = a.key → fw.resend a = ({ fw with unsent := [] } : Firmware).send k m) ∧
    (∀ a, (∀ j, (tget fw.ports j []).length ≤ 32) → ∀ j, (tget (fw.resend a).ports j []).length ≤ 32)) ∧
  ∀ (inst : Fin 2) (f : Nat) (s : State), s.roundRuns inst.val = true →
    Runs (.schedulingRound inst f) s fun t =>
      ∀ n, let tk := (if (tget s.slices n {}).fenced then 600 else 2048) - 480 * tget s.sched.resv n 0
        let mine := n < s.nslices ∧ (if n < 12 then 0 else 1) = inst.val
        (mine → t.tokens n = min (s.tokens n + (tk : Nat)) (2 * tk : Nat) ∧ tget t.sched.tk n 0 = tk) ∧
        (¬ mine → t.tokens n = s.tokens n ∧ tget t.sched.tk n 0 = tget s.sched.tk n 0)

/-- A scheduling round gives up the context of a ring that has no descriptor without a record and nothing pending, and unbinds one whose
ring has started nothing for 20 µs while another waits: its descriptors that have not started go back to the ring, which is pending
again (R285). Free contexts of the instance go to its own waiting rings, in the order PRIO, then hosts below half of MINCTX, then the
longest wait, up to half of MAXCTX and beyond what others are to keep, until none may be bound (R283, R284). The next waiting Sealed descriptor is
let in when its stacks and the host port have free shares, its slices and Flue ports are held by no started Sealed descriptor, its pools
and units are free, its host's deficit is positive and none that has waited 16 rounds needs what it takes; its DUR is charged, and no
tokens (R230, R290); any other waits one round more. -/
def Obligations.ContextsAndAdmission : Prop :=
  -- contexts given up
  (∀ (inst f n : Nat) (c : Ctx) (s : State), (s.ctxs.map fun e => e.2.ring).Nodup → (n, c) ∈ s.ctxs →
    let t := s.roundCtxs inst f
    (n / 96 = inst → c.slots = [] → (s.ring c.ring).pend = false → s.inFlight c.ring = 0 → t.ctxOf c.ring = none) ∧
    (n / 96 ≠ inst → (n, c) ∈ t.ctxs) ∧
    (n / 96 = inst → (c.slots ≠ [] ∨ (s.ring c.ring).pend = true) → c.leaving = false → c.lastStart + 24000 ≤ f →
      (∃ x ∈ s.waitingRings inst, x ≠ c.ring) → (∀ e ∈ c.kept, e.chain = none ∧ e.phase.begun = true) →
      (∀ e, c.slots.head? = some e → e.awaits = false) →
      (t.ring c.ring).pend = true ∧ ∀ e ∈ t.slotsOf c.ring, e.idx ∈ c.kept.map (·.idx))) ∧
  -- contexts bound
  (∀ (inst k : Nat) (s : State), inst < 2 → (s.ctxs.map fun e => e.2.ring).Nodup →
    let t := State.bindRings inst k s
    (t.ctxs.map fun e => e.2.ring).Nodup ∧ (∀ e ∈ s.ctxs, e ∈ t.ctxs) ∧
    (∀ e ∈ t.ctxs, e ∉ s.ctxs → e.1 / 96 = inst ∧ e.2.ring.val / 256 % 2 = inst ∧ (s.ring e.2.ring).pend = true ∧ s.ctxOf e.2.ring = none ∧
      e.2.slots = [] ∧ t.ctxHeld inst (s.ringHost e.2.ring) ≤ ceilDiv (s.host (s.ringHost e.2.ring)).maxctx 2) ∧
    (96 ≤ k → ∀ r ∈ t.waitingRings inst, t.mayBind inst r = false)) ∧
  (∀ (inst k c : Nat) (r : RingId) (s : State), r ∈ s.waitingRings inst → s.mayBind inst r = true → (s.freeCtxs inst).head? = some c →
    (∀ x ∈ s.waitingRings inst, s.mayBind inst x = true → x ≠ r →
      let prio (r : RingId) : Nat := (s.ringEntry r).prio
      let below (r : RingId) : Prop := s.ctxHeld inst (s.ringHost r) < ceilDiv (s.host (s.ringHost r)).minctx 2
      let since (r : RingId) : Nat := (s.ring r).waitSince.getD 0
      prio r < prio x ∨ (prio r = prio x ∧ ((below r ∧ ¬ below x) ∨ ((below r ↔ below x) ∧ since r < since x)))) →
    State.bindRings inst (k + 1) s = State.bindRings inst k (s.bind c r)) ∧
  -- Sealed descriptors let in
  ∀ (inst k : Nat) (rs : List RingId) (r : RingId) (d : Slot) (s : State), s.pick rs = some r →
    (s.ctxOf r).bind (fun e => headSealed e.2) = some d →
    let x := s.planned d
    let others := s.sealedRunning
    let disjoint (a b : List Nat) : Prop := ∀ n ∈ a, n ∉ b
    let lets : Prop :=
      (∀ m ∈ x.spaces, (others.filter fun e => e.spaces.contains m).length < s.shares m) ∧
      (∀ e ∈ others, disjoint e.slices x.slices ∧ disjoint e.flue x.flue) ∧
      (∀ e ∈ s.flue.exch, ∀ n ∈ e.spec.slices, ∀ m, s.server n = some m → m < 24 → m ∉ x.flue) ∧
      (∀ n, n < 24 → s.unitNeed r [x] n ≤ (s.poolsFor n (r, x.holder)).length) ∧
      (x.opc.bindsUnit = true → ∀ n ∈ x.slices, (tget s.slices n {}).unit = none) ∧
      s.storeBusy r x = false ∧ s.unitsOk x = true ∧ s.orderOk r x = true ∧
      (∀ e ∈ s.allSlots, e.2.awaits = true → 16 ≤ e.2.rounds → x.rounds < e.2.rounds →
        disjoint (s.planned e.2).slices x.slices ∧ disjoint (s.planned e.2).spaces x.spaces ∧ disjoint (s.planned e.2).flue x.flue) ∧
      s.yields r x = false ∧ 0 < s.deficit (s.ringHost r) ∧ s.held = false ∧ s.peerAgrees inst r x = true
    let rest := rs.filter fun y => y != r
    (lets → State.admitRings inst (k + 1) rs s = State.admitRings inst k rest (s.letIn r x)) ∧
    (¬ lets → State.admitRings inst (k + 1) rs s = State.admitRings inst k rest ((s.countRound inst r d).askPeer inst r x)) ∧
    ((s.letIn r x).host (s.ringHost r)).deficit = (s.host (s.ringHost r)).deficit - x.dur ∧
    (∀ g, g ≠ s.ringHost r → ((s.letIn r x).host g).deficit = (s.host g).deficit) ∧ (∀ n, (s.letIn r x).tokens n = s.tokens n) ∧
    (∀ e ∈ (s.letIn r x).slotsOf r, e.idx = x.idx → e.phase = if x.status = stDone then .started else .ran) ∧
    (((s.slotsOf r).map fun e => e.idx).Nodup → ∀ e ∈ (s.countRound inst r d).slotsOf r, e.idx = d.idx → e.rounds = d.rounds + 1)

/-! ### The rows of Table 00-5 -/

/-- Each of the twenty tensor opcodes, with its reads returned and its keys and sources sound, writes the values of its
effect to its destinations, issues its writes, keeps its counts and has then run; FLOOD zeroes the share units of its
slices, TILEPROG their tile units, and outside a chain no other row changes a slice, but for the drain of its pools, or the units
that it releases when it has nothing to write; the writes of a Sealed one, and of a FLOOD, are issued in its drain's published cycle
(R111, R240), and what passes have drained already is not written again (R110); then what waits in the issue queues binds what is free. That a destination holds its values from the row on,
and not only from its record on, is the model's choice (log entry 63). -/
def Obligations.OpcodeWritesItsEffect : Prop :=
  ∀ row ∈ opcodeRows, ∀ (r : RingId) (p : W32) (d : Slot) (s : State), s.pclkRuns = true → s.slotOf r p = some d →
    s.runnable row.2 r d = true → d.corrupt = none →
    let e := s.effectFor row.2 r d
    let ws := s.writeReqs r d e
    let ended := ws.isEmpty && !s.outstanding r p
    e.keyBad = false → Runs (row.1 r p) s fun t => ∃ u, t = State.bindWaiting u ∧
      u.mem = (s.writeVals r d (s.clk.free + effectFree) e.vals).mem ∧
      u.poison = (s.writeVals r d (s.clk.free + effectFree) e.vals).poison ∧
      u.ports = (ws.foldl State.request (if ended then s else s.notBefore r d (s.coreSpan d).2)).ports ∧
      SlotBecomes r p (fun x => { x with
        phase := .ran, fills := e.fills, drops := e.drops, dups := e.dups, doneAt := if ended then some s.clk.pclk else none
        keyed := if row.2 = .flood then false else x.keyed }) s u ∧
      (row.2 = .flood → ∀ n ∈ d.slices, (tget u.slices n {}).share1 = 0 ∧ (tget u.slices n {}).share2 = 0 ∧ (tget u.slices n {}).seed = 0 ∧
        (tget u.slices n {}).expander = [] ∧ (tget u.slices n {}).conv = 0 ∧ (tget u.slices n {}).adder = 0) ∧
      (row.2 = .tileprog → ∀ n ∈ d.slices, (tget u.slices n {}).tu = {} ∧ (tget u.slices n {}).issued = some (s.clk.pclk, some (r, p))) ∧
      (row.2 ≠ .flood → row.2 ≠ .tileprog → d.chain = none → u.slices = if ended then (s.freeUnit r p).slices else (s.startDrains r d).slices) ∧
      t.mem = u.mem ∧ t.poison = u.poison ∧
      t = { s with mem := t.mem, poison := t.poison, ports := t.ports, ctxs := t.ctxs, slices := t.slices, xl := t.xl
                   clk := { s.clk with free := t.clk.free } }

/-- A run that met a poisoned source ends with that status and issues no write, so that no granule loses its poison but for what blocks
drained before have written; a key that
does not read back as it was registered gives KEY_CORRUPT, and sets the POISON bit of the card at a valid PCARD, whose other bytes keep
their contents (R44, R160). Later members of its Open chain are FLUSHED (R16, R160, R266, R380). -/
def Obligations.CorruptRunEndsWithItsStatus : Prop :=
  ∀ row ∈ opcodeRows, ∀ (r : RingId) (p : W32) (d : Slot) (st : W16) (s : State), s.pclkRuns = true → s.slotOf r p = some d →
    s.runnable row.2 r d = true → (d.corrupt = some st ∨ (d.corrupt = none ∧ (s.effectFor row.2 r d).keyBad = true ∧ st = 0x0302)) →
    Runs (row.1 r p) s fun t => ∃ u, t = State.bindWaiting u ∧
      u.ports = s.ports ∧ (d.sent = [] → t.poison = s.poison) ∧
      (∀ e ∈ t.slotsOf r, e.idx = p → e.phase = .ran ∧ e.status = st ∧ e.corrupt = some st ∧ e.doneAt = some s.clk.pclk ∧
        e.detail = if d.corrupt = none then 0xA008 else d.detail) ∧
      (dSealed d.bytes = false → d.chain.isSome = true → ∀ e ∈ t.slotsOf r, e.chain = d.chain → e.idx ≠ p →
        (e.idx - p).toNat < 16 → e.status = stFlushed) ∧
      (st = 0x0302 → row.2 = .ksip → bit (field d.bytes 104 8) 45 = true →
        let w := field d.bytes 104 8
        let free (a : Nat) : Prop := ∀ kv ∈ undefinedVals d, (d.opD kv.1).res = false → ∀ iv ∈ kv.2, ∀ b, b < (d.opD kv.1).card.elBytes →
          let l := (d.opD kv.1).locate ((d.opD kv.1).card.byteOf ((d.opD kv.1).card.offsetAt iv.1) + b)
          a ≠ memKey l.1 l.2.1
        ∀ j, j < 64 →
          let a := memKey (w / 2 ^ 40 % 32) (w % 2 ^ 40) + j
          free a → readMem t.mem a = if j = 20 then readMem s.mem a ||| 2 else readMem s.mem a) ∧
      t = { s with mem := t.mem, poison := t.poison, ports := t.ports, ctxs := t.ctxs, slices := t.slices
                   clk := { s.clk with free := t.clk.free } }

/-- A tensor opcode leaves every byte of memory alone but the bytes of the elements that its effect lists: in each
destination operand that lies in memory, the places that its layout gives them, and for KSIP with a PCARD the byte of that
card which holds POISON. -/
def Obligations.OpcodeMemoryFrame : Prop :=
  ∀ row ∈ opcodeRows, ∀ (r : RingId) (p : W32) (d : Slot) (s t : State) (a : Nat), s.slotOf r p = some d →
    exec (row.1 r p) s = .next t →
    (∀ kv ∈ (s.effectFor row.2 r d).vals ++ undefinedVals d, (d.opD kv.1).res = false → ∀ iv ∈ kv.2,
      ∀ b, b < (d.opD kv.1).card.elBytes →
        let l := (d.opD kv.1).locate ((d.opD kv.1).card.byteOf ((d.opD kv.1).card.offsetAt iv.1) + b)
        a ≠ memKey l.1 l.2.1) →
    (row.2 = .ksip → bit (locOf d.bytes 104) 45 = true → a ≠ memKey (locStack (locOf d.bytes 104)) (locAddr (locOf d.bytes 104) + 20)) →
    readMem t.mem a = readMem s.mem a

/-- AUTOMORPH moves coefficient j of the source to position j × k mod N, negated exactly when j × k mod 2N is N or more
(R118), for every odd k, and slot (k (2e + 1) mod 2N − 1) / 2 to slot e in the evaluation domain. What COPY, RELAYOUT, TRANSPOSE, BITREV,
NEGROT and AUTOMORPH give a destination element, and which elements they give a value (R112, R114, R115, R117 to R119): AUTOMORPH, with
k' the inverse of k modulo 2N, the source coefficient at m mod N for m = j k' mod 2N, or the source slot of the evaluation domain, under
ORDER = 1 by bit-reversed positions, in every limb and polynomial; and a negated residue x is q − x modulo the limb's own modulus q, each
half of a U32P word by its own (R59). -/
def Obligations.ReorderingsMoveElements : Prop :=
  (
    ∀ n k j, 1 ≤ n → n ≤ 18 → k % 2 = 1 → k < 2 * 2 ^ n → j < 2 ^ n →
      autoSource n k false false (j * k % (2 * 2 ^ n) % 2 ^ n) = (j, decide (2 ^ n ≤ j * k % (2 * 2 ^ n))) ∧
      autoSource n k false true j = ((k * (2 * j + 1) % (2 * 2 ^ n) - 1) / 2, false) ∧
      (∀ eval, autoSource n k true eval (brev n j) = (brev n (autoSource n k false eval j).1, (autoSource n k false eval j).2)) ∧
      brev n (brev n j) = j) ∧
  (
    ∀ (s : State) (r : RingId) (d : Slot),
      let src := s.source r (d.opD 0)
      let dst := (d.opD 4).card
      let gives (e : Effect) (f : Nat → Nat) : Prop := ∃ vs, e.vals = [(4, vs)] ∧ vs.map (·.1) = List.range dst.count ∧
        ∀ k, k < dst.count → vs[k]? = some (k, some (f k))
      let negated (q : Nat × Nat) (w : Nat) : Nat :=
        if dst.ty = tyU32P then (q.1 - w % 2 ^ 32 % q.1) % q.1 + 2 ^ 32 * ((q.2 - w / 2 ^ 32 % q.2) % q.2)
        else if dst.ty = tyS64 then wrapNat (-(s64 w)) 64
        else (q.1 - w % q.1) % q.1
      gives (effectOf .copy s r d) src ∧ gives (effectOf .relayout s r d) src ∧
      gives (effectOf .transpose s r d) (fun k => src (flatten (d.opD 0).card.dims (transposeSource d.bytes (unflatten dst.dims k)))) ∧
      (∀ n, dst.dims.getLastD 1 = 2 ^ n → gives (effectOf .bitrev s r d) (fun k => src (k / 2 ^ n * 2 ^ n + brev n (k % 2 ^ n)))) ∧
      (∀ cc, d.scard = some cc → dst.dims.getLastD 1 = 2 ^ cc.log2n → field d.bytes 84 4 < 2 * 2 ^ cc.log2n → isResidue dst.ty = true →
        gives (effectOf .negrot s r d) (fun k =>
          let N := 2 ^ cc.log2n
          let m := (k % N + 2 * N - field d.bytes 84 4) % (2 * N)
          let q := s.limbModuli cc (k / N % dst.dims.getD 1 1)
          if N ≤ m then negated q (src (k / N * N + m % N)) else src (k / N * N + m % N))) ∧
      (∀ cc k', d.scard = some cc → dst.dims.getLastD 1 = 2 ^ cc.log2n → 1 ≤ cc.log2n → cc.log2n ≤ 18 → isResidue dst.ty = true →
        let N := 2 ^ cc.log2n
        let g := field d.bytes 84 4
        g < 2 * N → g * k' % (2 * N) = 1 →
        gives (effectOf .automorph s r d) (fun k =>
          let place (j : Nat) : Nat := if cc.order then brev cc.log2n j else j
          let j := place (k % N)
          let m := j * k' % (2 * N)
          let q := s.limbModuli cc (k / N % dst.dims.getD 1 1)
          if cc.eval then src (k / N * N + place ((g * (2 * j + 1) % (2 * N) - 1) / 2))
          else if N ≤ m then negated q (src (k / N * N + place (m % N))) else src (k / N * N + place (m % N)))))

/-- What FILL, GATHER, SCATTER, WINDOW, LUTPOLY, EXTRACT and PATTERN give each destination element, and which elements they leave alone
(R113, R120 to R122, R124, R132 to R134, R140, Table 06-3). FILL is reduced by the element's moduli (R47, R105), a negated value negated as
its type has it (R59). A SCATTER sets an element to the last, the first or the sum of the entries that name it; an Open one leaves the
others alone. The padding of WINDOW takes the FILL of the destination's card, which is the model's choice (log entry 94). A
PATTERN fills PIN, runs its steps in order, each on the pools as the steps before leave them, and drains POUT. -/
def Obligations.IndexedAndReorderedValues : Prop :=
  (∀ n k row bank n' k' row' bank', k < 8 → row < 1024 → bank < 128 → k' < 8 → row' < 1024 → bank' < 128 →
    ppKey n k row bank = ppKey n' k' row' bank' → n = n' ∧ k = k' ∧ row = row' ∧ bank = bank') ∧
  ∀ (s : State) (r : RingId) (d : Slot),
    let par (i : Nat) : Nat := byteAt d.bytes i
    let x := d.opD 0
    let y := d.opD 4
    let src := s.source r x
    let q (k : Nat) : Nat × Nat := boundModuli s d y.card k
    let place (E : Nat) (i : Int) : Option (Nat × Bool) :=
      if par 84 % 4 = 1 then some ((i % (E : Int)).toNat, false)
      else if 0 ≤ i ∧ i < E then some (i.toNat, false)
      else if par 84 % 4 = 2 ∧ -(E : Int) ≤ i ∧ i < 0 then some ((i + E).toNat, true)
      else none
    let index (k M : Nat) : Int := signed (s.source r (d.opD 1) (if bit (par 84) 4 then k else k % M)) 32
    -- FILL
    (∀ k, k < y.card.count → GivesAt (effectOf .fill s r d) k (some (fillOf y.card (q k)))) ∧
    -- GATHER
    (let E := x.card.dims.getLastD 1
     let M := y.card.dims.getLastD 1
     (d.opD 1).card.dims.getLastD 1 = M → 0 < M →
      (∀ k, k < y.card.count → GivesAt (effectOf .gather s r d) k (some (match place E (index k M) with
        | some (p, true) => negatedBits y.card.ty (q k) (src (k / M * E + p))
        | some (p, false) => src (k / M * E + p)
        | none => fillOf y.card (q k)))) ∧
      (effectOf .gather s r d).fills = ((List.range y.card.count).filter fun k => (place E (index k M)).isNone).length) ∧
    -- SCATTER
    (let E := y.card.dims.getLastD 1
     let M := x.card.dims.getLastD 1
     (d.opD 1).card.dims.getLastD 1 = M → 0 < M → 0 < E →
      (effectOf .scatter s r d).drops =
        ((List.range (x.card.count / M * M)).filter fun k => (place E (index k M)).isNone).length ∧
      ∀ b p, b < x.card.count / M → p < E →
        let k := b * E + p
        let hits := (List.range M).filter fun j => ((place E (index (b * M + j) M)).map (·.1)) == some p
        let vs := hits.map fun j =>
          if place E (index (b * M + j) M) = some (p, true) then negatedBits x.card.ty (q k) (src (b * M + j)) else src (b * M + j)
        let gives := GivesAt (effectOf .scatter s r d) k
        let policy := par 84 / 4 % 4
        (hits = [] → y.res = false → dSealed d.bytes = false → LeavesAt (effectOf .scatter s r d) k) ∧
        (hits = [] → y.res = false → dSealed d.bytes = true → gives (some (s.elem y k))) ∧
        (hits ≠ [] → policy = 0 → gives vs.getLast?) ∧ (hits ≠ [] → policy = 1 → gives vs.head?) ∧
        (hits ≠ [] → 2 ≤ policy → isResidue y.card.ty = false → gives (some (sumOf vs % 2 ^ tyBits y.card.ty))) ∧
        (hits ≠ [] → 2 ≤ policy → isResidue y.card.ty = true → y.card.ty ≠ tyU32P →
          gives (if vs.all fun v => (canonIn y.card.ty (q k).1 v).isSome then
            some (canonOut y.card.ty (q k).1 (sumOf (vs.map fun v => (canonIn y.card.ty (q k).1 v).getD 0) % (q k).1)) else none)) ∧
        (hits ≠ [] → 2 ≤ policy → y.card.ty = tyU32P →
          gives (if vs.all fun v => decide (v % 2 ^ 32 < (q k).1) && decide (v / 2 ^ 32 < (q k).2) then
            some (sumOf (vs.map fun v => v % 2 ^ 32) % (q k).1 + 2 ^ 32 * (sumOf (vs.map fun v => v / 2 ^ 32) % (q k).2)) else none))) ∧
    -- WINDOW
    (let a := par 84 % 8
     let n := if bit (par 84) 3 then 2 else 1
     let coord (k w : Nat) : Int :=
      let idx := unflatten y.card.dims k
      (idx.getD (a + w) 0 * (par (88 + w) % 64 + 1) + idx.getD (a + n + w) 0 * (par (90 + w) % 128) : Nat) - (par (92 + w) : Int)
     let inside (k : Nat) : Bool := (List.range n).all fun w => decide (0 ≤ coord k w) && decide (coord k w < x.card.dims.getD (a + w) 0)
     (∀ k, k < y.card.count →
      let idx := unflatten y.card.dims k
      GivesAt (effectOf .window s r d) k (some (if inside k then
        src (flatten x.card.dims (idx.take a ++ ((List.range n).map fun w => (coord k w).toNat) ++ idx.drop (a + 2 * n)))
        else fillOf y.card (q k)))) ∧
     (effectOf .window s r d).fills = ((List.range y.card.count).filter fun k => !inside k).length) ∧
    -- LUTPOLY
    (∀ delta k, delta * 2 ^ (par 85 % 32) = 2 ^ (par 84 % 32) → par 82 % 8 = 6 → k < y.card.count →
      let m := s.modulus (par 80) (par 81 % 64)
      let e := (k + if bit (par 86) 0 then delta / 2 else 0) / delta
      GivesAt (effectOf .lutpoly s r d) k (
        if 2 ^ (par 84 % 32) ≤ k then some 0
        else if e < 2 ^ (par 85 % 32) then (if src e < m then some (src e) else none)
        else if src 0 < m then some ((m - src 0) % m) else none)) ∧
    -- EXTRACT
    (∀ cc k, d.scard = some cc → k < y.card.count →
      let N := 2 ^ cc.log2n
      let m0 := s.modulus cc.chain 0
      let i := k % (N + 1)
      let iota := (field d.bytes 84 4 % 2 ^ 18 + k / (N + 1) * (field d.bytes 88 4 % 2 ^ 18)) % N
      (i = N → GivesAt (effectOf .extract s r d) k (canonIn x.card.ty m0 (src iota))) ∧
      (i < N → ∀ m, m < 2 * N → (m + i) % (2 * N) = iota →
        GivesAt (effectOf .extract s r d) k ((canonIn x.card.ty m0 (src (N + m % N))).map fun v => if N ≤ m then (m0 - v) % m0 else v))) ∧
    -- PATTERN
    (let ty := x.card.ty
     let ms := boundModuli s d x.card 0
     let slices := (List.range 24).filter fun n => (field d.image 8 3).testBit n
     let steps := byteAt d.image 3
     let pin := byteAt d.image 4 % 8
     let pout := byteAt d.image 5 % 8
     6 ≤ par 82 % 8 → (∀ n ∈ slices, (x.block n).length ≤ 131072) →
      ∃ (P : Nat → Nat → Option Nat) (free : Nat → Nat),
        (∀ n ∈ slices, ∀ j k, (x.block n)[j]? = some k → P 0 (ppKey n pin (j / 128) (j % 128)) = some (widen ty (src k))) ∧
        (∀ key, (∀ n ∈ slices, ∀ j, j < (x.block n).length → key ≠ ppKey n pin (j / 128) (j % 128)) → P 0 key = none) ∧
        (∀ i, i < steps →
          let st := (d.image.drop (256 + 16 * i)).take 16
          let read (n pool row bank : Nat) : Nat := (P i (ppKey n pool row bank)).getD (free (ppKey n pool row bank))
          let spec := parseSched slices (tget d.aux (100 + i) [])
          let writes : List (Nat × Nat) :=
            if byteAt st 0 = 1 then
              (onesOf 24 (field st 8 3)).flatMap fun n => (List.range (field st 6 2)).flatMap fun c =>
                (patternRow (read n (byteAt st 1)) ty ms.1 ms.2 (imageEntry (tget d.aux n []) (field st 4 2 + c))).map fun w =>
                  (ppKey n (byteAt st 2) w.1 w.2.1, w.2.2)
            else (exchangeRoute spec).filterMap fun e =>
              match streamAt spec.send e.2.1, streamAt spec.recv e.2.2.2 with
              | some a, some b => some (ppKey e.2.2.1 b.1 b.2.1 b.2.2, read e.1 a.1 a.2.1 a.2.2)
              | _, _ => none
          ∀ key, P (i + 1) key = ((writes.reverse.find? fun w => w.1 == key).map (·.2)).orElse fun _ => P i key) ∧
        ∀ n ∈ slices, ∀ j k, (y.block n)[j]? = some k →
          GivesAt (effectOf .pattern s r d) k ((P steps (ppKey n pout (j / 128) (j % 128))).map (narrow ty)))

/-- What DIGITS, BASECONV, RESCALE, KSIP, CONVERT, FLOOD and TILEPROG give each destination element (R151, R152, R156, R161, R163, R213,
R237, R238): the prescaled residue of DIGITS; the sums over the source basis, or over the digit, of BASECONV; the rescaled residue; the two
sums over the digits, by the key words and by the expanded words, of KSIP; the converted element; the coefficient with its noise from
the key whose shares its slice holds, or as it is outside PMASK; and for TILEPROG, of the positions that the program writes, the words of the slot's pool after
its last instruction, from the source blocks in their pools on. A residue out of range, or a constant that is not below its modulus,
leaves what it enters undefined (R144). -/
def Obligations.FusedAndEngineValues : Prop :=
  ∀ (s : State) (r : RingId) (d : Slot),
    let par (i : Nat) : Nat := byteAt d.bytes i
    let x := d.opD 0
    let y := d.opD 4
    let src := s.source r x
    let second := s.source r (d.opD 1)
    let blocks := tableBlocks d.image
    (∀ cc : CipherCard, d.scard = some cc →
      let N := 2 ^ cc.log2n
      let m (i : Nat) : Nat := s.modulus cc.chain i
      let alpha := par 85 % 64
      let scaled (q off pre : Nat) (a : Option Nat) : Option Nat := if off < q ∧ pre < q then a.map fun v => (v + off) * pre % q else none
      -- DIGITS
      (∀ k, k < y.card.count →
        let w := src (par 84 % 4 * y.card.dims.getD 0 1 * N + k)
        let i := k / N
        let one (ty i w : Nat) : Option Nat := match blocks[i / alpha]? with
          | some b => scaled (m i) (b.offset (i % alpha)) (b.pre (i % alpha)) (canonIn ty (m i) w)
          | none => none
        let gives := GivesAt (effectOf .digits s r d) k
        (cc.paired = false → x.card.ty ≠ tyU32P → i ≤ cc.level → gives ((one x.card.ty i w).map (canonOut y.card.ty (m i)))) ∧
        (cc.paired = true → x.card.ty = tyU32P → 2 * i + 1 ≤ cc.level → m (2 * i + 1) ≠ 0 →
          gives (halves (one tyU64 (2 * i) (w % 2 ^ 32)) (one tyU64 (2 * i + 1) (w / 2 ^ 32)))) ∧
        (cc.paired = true → x.card.ty = tyU32P → 2 * i = cc.level → gives (one tyU64 cc.level (w % 2 ^ 32)))) ∧
      -- BASECONV over one basis
      (∀ b bs k, bit (par 84) 0 = false → blocks = b :: bs → k < y.card.count →
        let S := basisOf b.smask
        let T := basisOf b.tmask
        let t := k / N % T.length
        let g := k / (T.length * N)
        let term (e : Nat × Nat) : Option Nat × Nat :=
          let a := canonIn x.card.ty (m e.1) (src ((g * S.length + e.2) * N + k % N))
          (if bit (par 84) 1 then scaled (m e.1) (b.offset e.2) (b.pre e.2) a else a, b.mat t e.2)
        GivesAt (effectOf .baseconv s r d) k ((sumOfProducts (m (T.getD t 0)) (S.zipIdx.map term)).map (canonOut y.card.ty (m (T.getD t 0))))) ∧
      -- BASECONV digit by digit
      (let nt := y.card.dims.getD 1 1
       let rest (g : Nat) : List Nat := digitRest (s.chain cc.chain) cc.level alpha g
       ∀ g t j, bit (par 84) 0 = true → g < y.card.dims.getD 0 1 → t < nt → j < N → (∀ g', g' < y.card.dims.getD 0 1 → (rest g').length ≤ nt) →
        let k := (g * nt + t) * N + j
        (∀ i b, (rest g)[t]? = some i → blocks[g]? = some b →
          GivesAt (effectOf .baseconv s r d) k ((sumOfProducts (m i) ((digitOf cc.level alpha g).zipIdx.map fun e =>
            (canonIn x.card.ty (m e.1) (src (e.1 * N + j)), b.mat t e.2))).map (canonOut y.card.ty (m i)))) ∧
        ((rest g)[t]? = none → LeavesAt (effectOf .baseconv s r d) k)) ∧
      -- RESCALE
      (∀ b bs k, blocks = b :: bs → k < y.card.count →
        let kept := basisOf b.smask
        let w := k / N % y.card.dims.getD 1 1
        let one (i : Nat) (a c : Option Nat) : Option Nat :=
          let q := m (kept.getD i 0)
          if b.add i < q ∧ b.dinv i < q then a.bind fun a => c.map fun c => (a + b.add i + q - c) % q * b.dinv i % q else none
        let half (h i : Nat) : Option Nat :=
          let q := m (kept.getD i 0)
          one i (canonIn tyU64 q (src k / 2 ^ (32 * h) % 2 ^ 32)) (canonIn tyU64 q (second k / 2 ^ (32 * h) % 2 ^ 32))
        let gives := GivesAt (effectOf .rescale s r d) k
        (y.card.ty ≠ tyU32P → let q := m (kept.getD w 0)
          gives ((one w (canonIn x.card.ty q (src k)) (canonIn (d.opD 1).card.ty q (second k))).map (canonOut y.card.ty q))) ∧
        (y.card.ty = tyU32P → 2 * w + 1 < kept.length → gives (halves (half 0 (2 * w)) (half 1 (2 * w + 1)))) ∧
        (y.card.ty = tyU32P → 2 * w + 1 = kept.length → gives (half 0 (2 * w)))) ∧
      -- KSIP
      (let QP := extBasis (s.chain cc.chain) cc.level
       let L := QP.length
       let entry (g i : Nat) : List Byte := tget d.aux (g * L + i) []
       let stored (g i off n : Nat) : Nat := leNat (s.readBytes (byteAt (entry g i) 8) (field (entry g i) 0 8 + off) n)
       ∀ k, k < y.card.count →
        let i := k / N % L
        let j := k % N
        let c := QP.getD i 0
        let operand (g : Nat) : Option Nat :=
          if (digitOf cc.level alpha g).contains c then canonIn x.card.ty (m c) (src ((par 84 % 4 * (cc.level + 1) + c) * N + j))
          else canonIn (d.opD 1).card.ty (m c)
            (second ((g * (d.opD 1).card.dims.getD 1 1 + (digitRest (s.chain cc.chain) cc.level alpha g).findIdx fun z => z == c) * N + j))
        let word (g : Nat) : Nat :=
          if k / (L * N) = 0 then stored g i (64 + j / 8192 * (64 + 65536) + 64 + 8 * (j % 8192)) 8
          else
            let head := (entry g i).drop 16
            let stream (blk : Nat) : List Byte := ts128 ((head.drop 16).take 32 ++ head.take 16 ++ natLe c 2 ++ natLe blk 4) 0x4B
            let o := 16 * j % 168
            let v := if 168 < o + 16 then stream (16 * j / 168) ++ stream (16 * j / 168 + 1) else stream (16 * j / 168)
            leNat ((v.drop o).take 16) % m c
        let ops := (List.range (digitCount cc.level alpha)).map operand
        GivesAt (effectOf .ksip s r d) k (if ops.all Option.isSome then
          some (canonOut y.card.ty (m c) (sumOf ((List.range (digitCount cc.level alpha)).map fun g => (operand g).getD 0 * word g) % m c)) else none)) ∧
      -- FLOOD
      (∀ k, k < y.card.count →
        let p := k / (cc.limbs * N)
        let j := k % N
        let q := m (k / N % cc.limbs)
        let v := tget s.slices (s.limbSlice x (k / N * N)) {}
        let noise := field (ts128 (natLe (v.share1 ^^^ v.share2).toNat 32 ++ natLe p 1 ++ natLe (j / 10) 4) 0x46) (16 * (j % 10)) 16
        let size : Int := (noise % 2 ^ (par 84 % 128) : Nat)
        let e : Int := if 2 ^ 127 ≤ noise then -size else size
        let gives := GivesAt (effectOf .flood s r d) k
        ((par 85 % 8).testBit p = true → 0 < q →
          gives ((canonIn x.card.ty q (src k)).map fun a => canonOut y.card.ty q (((a : Int) + e) % q).toNat)) ∧
        ((par 85 % 8).testBit p = false → x.card.ty = y.card.ty → gives (some (src k))) ∧
        ((par 85 % 8).testBit p = false → x.card.ty ≠ y.card.ty → gives ((canonIn x.card.ty q (src k)).map (canonOut y.card.ty q))))) ∧
    -- CONVERT
    (∀ k, k < y.card.count →
      let q (ty : Nat) : Nat × Nat := if isResidue ty = false then (0, 0) else match d.scard with
        | some cc => s.limbModuli cc ((unflatten y.card.dims k).getD 1 0)
        | none => boundModuli s d y.card k
      let ofCard (c : LayoutCard) : ElTy := { ty := c.ty, tp := c.tparam, q0 := (q c.ty).1, q1 := (q c.ty).2 }
      let sigma := field d.bytes 86 2
      GivesAt (effectOf .convert s r d) k (convertElem (ofCard x.card) (ofCard y.card) (if sigma = 0 then (1, 1) else scaleOf sigma)
        (par 84 % 8) (bit (par 84) 3) (stochR (field d.bytes 88 8) k) (src k))) ∧
    -- TILEPROG
    (∀ n ∈ piSlices d.image, ∀ (run : Nat → Slice) (T : Nat), run 0 = tileStart s r d n → T ≤ programFuel →
      (∀ i, i < T → ∃ w, (run i).tu.prog[(run i).tu.pc]? = some w ∧
        run (i + 1) = tileDo s n (s.clk.free + n * 2 ^ 40 + (run i).tu.ord * tileFree) (run i) (tiOf w)) →
      (run T).tu.prog[(run T).tu.pc]? = none →
      (run 0).tu.prog = piProg d.image ∧ (run 0).tu.pc = 0 ∧
      (∀ o z, (o, z) ∈ tileSlots d → o.slot < 4 → ∀ j k, (o.block n)[j]? = some k →
        ((run 0).pool z).word (j / 128) (j % 128) = widen o.card.ty (s.source r o k) % 2 ^ 64) ∧
      ∀ o z, (o, z) ∈ tileSlots d → 4 ≤ o.slot → ∀ j k, (o.block n)[j]? = some k →
        ∃ vs, (o.slot, vs) ∈ (effectOf .tileprog s r d).vals ∧
          ∀ w, (k, w) ∈ vs ↔ tget (run T).tu.written (131072 * o.slot + j) false = true ∧
            w = some (narrow o.card.ty (((run T).pool z).word (j / 128) (j % 128))))

/-- FENCE passes when the counter of its host function has reached VALUE and the collector has room for its record, and waits
otherwise; a waiting FENCE passes when both hold. That it needs room in the collector is the model's choice (log entry 66). Neither changes anything but the descriptor and the places of records in the collector
(R262, R272). SIGNAL sets the counter of its host function to VALUE, or adds VALUE with OP = 1, and with WR = 1 writes the 8 bytes of
VALUE to WADDR on its stack, where nothing races with it; no other counter and no other byte changes (R51, R261). -/
def Obligations.FenceAndSignalUseCounter : Prop :=
  (
    ∀ (r : RingId) (p : W32) (d : Slot) (s : State), s.pclkRuns = true → s.slotOf r p = some d →
      let passes : Prop := (dValue d.bytes).toNat ≤ (s.syncCounter (s.ringHost r) (dSync d.bytes)).toNat ∧ s.retires r [d] = true
      let recorded (t : State) : Prop :=
        (t.slotsOf r).map unqueued = ((s.slotsOf r).map fun e => if e.idx = p then unqueued { d with phase := .recorded } else unqueued e) ∧
        t = { s with ctxs := t.ctxs }
      (s.fenceReady r d = true → s.held = false → passes → Runs (.fence r p) s recorded) ∧
      (s.fenceReady r d = true → s.held = false → ¬ passes → Runs (.fence r p) s fun t =>
        SlotBecomes r p (fun e => { e with phase := .waiting }) s t ∧ t = { s with ctxs := t.ctxs }) ∧
      (d.isFence = true → d.phase = .waiting → passes → Runs (.fenceSatisfied r p) s recorded) ∧
      (d.isFence = true → d.phase = .waiting → ¬ passes → exec (.fenceSatisfied r p) s = .next s)) ∧
  (
    ∀ (r : RingId) (p : W32) (d : Slot) (s : State), s.pclkRuns = true → s.slotOf r p = some d → s.signalReady r d = true →
      s.held = false → Runs (.signal r p) s fun t =>
        let h := s.ringHost r
        let k := byteAt d.bytes 85
        let v := BitVec.ofNat 64 (field d.bytes 88 8)
        t.syncCounter h k = (if bit (byteAt d.bytes 84) 0 then s.syncCounter h k + v else v) ∧
        (∀ (g : HF) (j : Nat), j < 256 → (g, j) ≠ (h, k) → t.syncCounter g j = s.syncCounter g j) ∧
        (sigWr d.bytes = false → t.mem = s.mem ∧ t.ports = s.ports) ∧
        (sigWr d.bytes = true → sigLoc d.bytes ≠ 0xFF →
          (s.racesInto r d = [] → d.sigStale = false → t.readBytes (sigLoc d.bytes) (sigAddr d.bytes) 8 = natLe v.toNat 8) ∧
          (∀ a, (a < memKey (sigLoc d.bytes) (sigAddr d.bytes) ∨ memKey (sigLoc d.bytes) (sigAddr d.bytes) + 8 ≤ a) →
            readMem t.mem a = readMem s.mem a)) ∧
        (∀ e ∈ t.slotsOf r, e.idx = p → e.phase = .ran ∧ e.start = s.clk.pclk) ∧
        t = { s with sync := t.sync, mem := t.mem, poison := t.poison, ports := t.ports, ctxs := t.ctxs, xl := t.xl })

/-! ### Slices and the Flue -/

/-- A complete fill leaves the widened words of a block of the slot in the pool, owned by the descriptor's host function and
ready, in the role of the unit that reads it, or the mover's where it goes on with the pool's next limb slot; with the slice's last block
the mover's role ends on the descriptor's other pools, and before it the mover may take others of the descriptor's for its next fills; the
end of a wipe leaves the pool empty and owned by no host function, bound as it was (R11, R54 to R58, R110). Blocks that passes have written
are drained from their pool as soon as the passes have released it: the mover takes it, its words stay, and the requests go out from the
next cycle on (R54, R110). -/
def Obligations.FillAndWipeOfPools : Prop :=
  ∀ (n : SliceId) (k : PoolId) (s : State), s.pclkRuns = true → n.val < s.nslices →
    (∀ (r : RingId) (p : W32) (j : Fin 6) (d : Slot) (b : Nat × Nat × List Nat), s.slotOf r p = some d →
      s.fillDone n.val k.val r d j.val b = true →
      Runs (.moverFillComplete n k r p j) s fun t =>
        let v := s.pool n.val k.val
        (∃ role, (role = d.opc.fillRole ∨ (role = .moverFill ∧ s.lastFill d j.val n.val = false)) ∧
          t.pool n.val k.val = { v.write (s.blockWords r d (d.opD j.val) b.1 b.2.2) with
            role := role, hf := some (s.ringHost r), ready := true, stage := 0
            holds := if b.1 % d.perPool (d.opD j.val) = 0 then some (j.val, if d.opc.movesWhole then b.1 else b.2.1) else v.holds }) ∧
        (t.pool n.val k.val).user = some (r, d.holder) ∧
        (s.lastFill d j.val n.val = true → ∀ i, i ≠ k.val → t.pool n.val i =
          if (s.pool n.val i).user = some (r, d.holder) ∧ (s.pool n.val i).role = .moverFill
          then { s.pool n.val i with role := .free } else s.pool n.val i) ∧
        (s.lastFill d j.val n.val = false → ∀ i, i ≠ k.val → t.pool n.val i = s.pool n.val i ∨
          ((s.pool n.val i).user = some (r, d.holder) ∧ (s.pool n.val i).kept = none ∧
            ((s.pool n.val i).role = .free ∨ (s.pool n.val i).role = d.opc.fillRole) ∧
            t.pool n.val i = { s.pool n.val i with role := .moverFill })) ∧
        SlotBecomes r p (fun _ => { d with filled := tput d.filled (8 * n.val + j.val) (b.1 + 1) }) s t ∧
        (∀ m : SliceId, m ≠ n → t.slice m = s.slice m) ∧ t = { s with slices := t.slices, ctxs := t.ctxs }) ∧
    ((s.pool n.val k.val).role = .wipe → Runs (.poolWipeComplete n k) s fun t =>
        (∀ row bank, (t.pool n.val k.val).word row bank = 0) ∧ (t.pool n.val k.val).hf = none ∧
        (t.pool n.val k.val).user = (s.pool n.val k.val).user ∧ (t.pool n.val k.val).role = .free ∧
        (t.pool n.val k.val).ready = false ∧ (∀ i, i ≠ k.val → t.pool n.val i = s.pool n.val i) ∧ OnlySlice n.val s t) ∧
    (∀ (c : Nat) (w : RingId × W32) (d : Slot), (s.pool n.val k.val).user = some w → s.runner w = some d → d.maps = false →
      (s.pool n.val k.val).role = .free → (s.pool n.val k.val).drains ≠ [] →
      let ks := (s.pool n.val k.val).drains
      let e : Slot := { d with sent := d.sent ++ ks }
      let t := s.drainBlocks n.val k.val c
      t.pool n.val k.val = { s.pool n.val k.val with role := .moverDrain } ∧ SlotBecomes w.1 d.idx (fun _ => e) s t ∧
        t.ports = ((s.operandReqs w.1 e true (d.opD 4) ks).foldl
          (fun (x : State) q => x.request { q with issued := max q.issued (c + 1) }) s).ports ∧
        (∀ i, i ≠ k.val → t.pool n.val i = s.pool n.val i) ∧ t = { s with slices := t.slices, ctxs := t.ctxs, ports := t.ports })

/-- A pass that may issue takes its pools, a free pool in place of the destination when it is the pool that it reads; its words
reach the destination pool when it ends, rows + 39 cycles after its first row, or rows + 47 through the turner, and not before;
a pass back then follows for one pool read and written (R54, R65 to R67, R75); the drains of what it has written follow (R110). A LOCAL
step of a PATTERN moves its program on (R124). Up to cycle c the Flue and the release of sources have run on. -/
def Obligations.PassTakesAndReleasesPools : Prop :=
  ∀ (n : SliceId) (c : Nat) (s : State), s.pclkRuns = true → n.val < s.nslices →
    let u := s.toPclk c
    (∀ (src dst m : PoolId) (g : Gen) (first rows : Nat) (ty : Byte) (q0 q1 : W64) (w : RingId × W32) (d : Slot),
      (u.pool n.val src.val).user = some w → (u.slice n).target src dst = some m → u.runner w = some d →
      u.passReady n w.1 d src dst g first rows ty q0 q1 c = true →
      Runs (.passStart n src dst g first rows ty q0 q1 c) s fun t =>
        (t.pool n.val src.val).role = .passSource ∧ (t.pool n.val m.val).role = .passDest ∧
        (src ≠ dst → m = dst) ∧ m ≠ src ∧
        (t.pool n.val m.val).user = some w ∧ (t.pool n.val m.val).hf = (u.pool n.val src.val).hf ∧
        (t.pool n.val m.val).ready = false ∧ (∀ i, (t.pool n.val i).data = (u.pool n.val i).data) ∧
        (t.slice n).passes = (u.slice n).passes ++
          [(u.updSlice n (u.passUnit n w.1 d src.val dst.val rows g)).passOf n w.1 d src dst m g first rows ty q0 q1 c] ∧
        (t.slice n).issued = some (c + issuedRows g rows, some (w.1, d.idx)) ∧
        ((∀ e0, coreGen g ≠ .pattern e0) → t.ctxs = u.ctxs) ∧
        (∀ e0 h, coreGen g = .pattern e0 → u.localRole w.1 d n.val src.val dst.val e0 rows = some h →
          SlotBecomes w.1 d.idx (fun x => { x with steps := tput x.steps h ((d.nextStep h).getD 0 + 1) }) u t) ∧
        (∀ i : SliceId, i ≠ n → t.slice i = u.slice i) ∧ t = { u with slices := t.slices, ctxs := t.ctxs }) ∧
    (∀ (dst : PoolId) (x : Pass), (u.slice n).endingPass dst.val c = some x →
      c = x.start + x.rows + (if usesTurner x.gen then 47 else 39) ∧ Runs (.passEnd n dst c) s fun t =>
        ∃ v : State, t = v.drainBlocks n.val dst.val c ∧
        (t.pool n.val dst.val).data = x.words.foldl (fun m w => tset 0 m w.1 w.2) (u.pool n.val dst.val).data ∧
        (x.back = none → (t.slice n).passes = (u.slice n).passes.erase x ∧
          (v.pool n.val dst.val).drains = (u.pool n.val dst.val).drains ++ x.block ∧
          (((u.slice n).passes.erase x).all (fun z => z.dst != x.dst) = true →
            (v.pool n.val dst.val).ready = true ∧ (v.pool n.val dst.val).role = u.restRole n.val dst.val)) ∧
        (∀ b, x.back = some b → b ≠ dst → (t.pool n.val dst.val).role = .passSource ∧ (t.pool n.val b.val).role = .passDest ∧
          ∃ y, (t.slice n).passes = (u.slice n).passes.erase x ++ [y] ∧ y.src = dst ∧ y.dst = b ∧ y.words = x.words ∧ c < y.start) ∧
        (∀ i : SliceId, i ≠ n → t.slice i = u.slice i) ∧ v = { u with slices := v.slices } ∧
        t = { v with slices := t.slices, ctxs := t.ctxs, ports := t.ports })

/-- An exchange that may start is appended with its start and length; one whose ports or pools are taken waits in the order of
dispatch; a delivered one leaves the Flue, no later than 23 cycles after its last beat, and one with a flit for a pool of another
host function aborts its descriptor. No beat is sent while one of its flits lacks a credit (R78, R80 to R82, R86, R88). -/
def Obligations.ExchangeOccupiesFlue : Prop :=
  (∀ (k : Nat) (s : State) (y : Exch), (∃ f ∈ (s.xfers y.spec).flatMap (s.flitsOf y y.sent k), 512 ≤ s.spentAt f) → s.sendBeat k y = s) ∧
  ∀ (x : Fin 4) (c : Nat) (s : State), s.pclkRuns = true →
    let u := s.toPclk c
    (∀ (r : RingId) (p : W32) (e : ExchSpec) (d : Slot), u.slotOf r p = some d →
      (u.exchangeReady x.val r d e c = true → Runs (.exchangeStart x r p e c) s fun t =>
        t.flue = { u.flue with
          exch := u.flue.exch ++ [{ x := x.val, spec := e, start := c, beats := u.exchangeBeats e, user := (r, p), hf := u.ringHost r }]
          waits := u.flue.waits.filter fun w => w != (r, p), now := min u.flue.now c } ∧
        (d.opc ≠ .pattern → t.ctxs = u.ctxs) ∧ t = { u with slices := t.slices, flue := t.flue, ctxs := t.ctxs }) ∧
      (u.exchangeReady x.val r d e c = false → u.exchangeFits r d e = true → u.flue.waits.contains (r, p) = false →
        Runs (.exchangeStart x r p e c) s fun t => t = { u with flue := { u.flue with waits := u.flue.waits ++ [(r, p)] } })) ∧
    (∀ y, u.delivering x.val c = some y → y.start + y.beats ≤ c ∧ c ≤ y.start + y.beats + 23 ∧
      (u.strayed (c + 23) y = false → Runs (.exchangeDelivered x c) s fun t =>
        t.flue.exch = u.flue.exch.filter (fun z => z.x != x.val) ∧ (∀ f ∈ t.flue.buffer, f ∈ u.flue.buffer) ∧
        t = { u with slices := t.slices, flue := t.flue }) ∧
      (u.strayed (c + 23) y = true → RunsIn u y.user.1 y.user.2 → Runs (.exchangeDelivered x c) s fun t =>
        (∀ z ∈ t.flue.exch, z.x ≠ x.val) ∧ Aborted y.user.1 y.user.2 1 none t))

/-! ### Memory ports -/

/-- A response retires its request, and the tag passes only to a request that waits for one. A poisoned granule or an error status
ends a reading descriptor with SOURCE_CORRUPT, or KEY_CORRUPT for a key of KSIP, and drops its requests that have no tag; the last
write acknowledged ends a run; a corrected word is counted; an uncorrectable word aborts the running descriptor (R92, R93, R99,
R160, R271, R329, R367). -/
def Obligations.ResponseRetiresRequest : Prop :=
  ∀ (m : Nat) (tag : Fin 512) (wr : Bool) (q : Req) (s : State), s.pclkRuns = true → q.stray = false →
    let freed := (s.reachGrant m wr tag).retire q tag
    let mine (x : Req) : Prop := x.r = q.r ∧ x.p = q.p
    let outcome (bad : Bool) (t : State) : Prop :=
      (wr = false → bad = false → (∀ d, s.slotOf q.r q.p = some d → q.item = 8 → d.tableHalves ≤ 1) →
        t.ports.reqs = freed.ports.reqs ∧ t.ctxs = s.ctxs) ∧
      (wr = false → bad = true → ∀ d, s.slotOf q.r q.p = some d →
        SlotBecomes q.r q.p (fun e => if e.corrupt.isSome then e else { e with corrupt := some (if d.opc = .ksip ∧ q.item = 8 then stKeyCorrupt else stSourceCorrupt), detail := BitVec.ofNat 16 (0xA000 + q.item) }) s t ∧
        ∀ x ∈ t.ports.reqs, mine x → x.tag.isSome = true) ∧
      (wr = true → (∀ x ∈ s.ports.reqs, mine x → x.master = m ∧ x.wr = true ∧ x.tag = some tag) → ∀ d, s.slotOf q.r q.p = some d →
        d.phase = .ran → d.doneAt = none → ∀ e ∈ t.slotsOf q.r, e.idx = q.p → e.doneAt = some t.clk.pclk)
    let quiet (t : State) : Prop := t = { s with ports := t.ports, ctxs := t.ctxs, slices := t.slices, clk := { s.clk with pclk := t.clk.pclk, free := t.clk.free } }
    let aborts (t : State) : Prop := RunsIn s q.r q.p → Aborted q.r q.p 1 (if m < 24 ∧ m = q.port.val ∧ s.repeated 4 m s.clk.fclk then some m else none) t
    (q ∈ s.ports.reqs → q.master = m → q.wr = wr → q.tag = some tag → ∀ x ∈ freed.ports.reqs, x.master = m → x.wr = wr → x.tag = some tag →
      ∃ y ∈ s.ports.reqs, y.tag = none ∧ x = { y with tag := some tag, issued := x.issued }) ∧
    (∀ port : SliceId, port.val < s.nslices → s.answered (Fin.ofNat 25 port.val) m tag wr = some q →
      (Runs (.stackResponse port m tag wr .clean) s fun t => outcome (s.poisoned port.val q.addr q.len) t ∧ quiet t) ∧
      (Runs (.stackResponse port m tag wr .corrected) s fun t => t.ports.corr = tcount s.ports.corr port.val 32 1) ∧
      (Runs (.stackResponse port m tag wr .uncorrectable) s aborts)) ∧
    (∀ err : Bool, s.answered 24 m tag wr = some q →
      (Runs (.hostCompletion m tag wr .clean err) s fun t => outcome err t ∧ quiet t) ∧
      (Runs (.hostCompletion m tag wr .corrected err) s fun t => t.ports.corr = tcount s.ports.corr 24 32 1 ∧ outcome err t) ∧
      (Runs (.hostCompletion m tag wr .uncorrectable err) s aborts))

/-- A translation completion ends its request: the page enters the cache, or is known to have no translation. An
invalidation removes every entry that it meets and is answered at once, and the pages of it that an Open descriptor in flight uses
hold undefined data, unless a Sealed descriptor pins one of them; then it waits (R35 to R38). That the page is aligned to its size, and
that an invalidation which meets a pinned page waits whole, the cache unchanged, are the model's choices (log entry 34). -/
def Obligations.TranslationsEnterAndLeave : Prop :=
  ∀ (h : HF) (pasid : Option (BitVec 20)) (iova : W64) (s : State), s.pclkRuns = true →
    let x : XReq := ⟨h, pasid, iova.toNat⟩
    let quiet : Prop := ∀ e ∈ s.allSlots, e.2.isSignal = true → e.2.phase = .ran → e.2.doneAt ≠ none
    (∀ res, s.xl.reqs.contains x = true → Runs (.translationCompletion h pasid iova res) s fun t =>
      t = { s with xl := t.xl, ctxs := t.ctxs, out := t.out, hosts := t.hosts, mem := t.mem, poison := t.poison, ports := t.ports }) ∧
    (s.xl.reqs.contains x = true → quiet → Runs (.translationCompletion h pasid iova none) s fun t =>
      x ∈ t.xl.absent ∧ t.xl.cache = s.xl.cache ∧ (∀ g, t.host g = { s.host g with tele := (t.host g).tele }) ∧
      t = { s with xl := t.xl, ctxs := t.ctxs, out := t.out, hosts := t.hosts, clk := { s.clk with free := t.clk.free } }) ∧
    (∀ (size : Nat) (phys : W64) (wr : Bool), s.xl.reqs.contains x = true → quiet →
      Runs (.translationCompletion h pasid iova (some (size, phys, wr))) s fun t =>
        (∃ e ∈ t.xl.cache, e.hf = h ∧ e.pasid = pasid ∧ e.iova ≤ iova.toNat ∧ iova.toNat < e.iova + e.size ∧ e.write = wr ∧
          4096 ≤ e.size ∧ e.size ∣ e.phys) ∧ (∀ g, t.host g = { s.host g with tele := (t.host g).tele }) ∧
        t = { s with xl := t.xl, ctxs := t.ctxs, out := t.out, hosts := t.hosts, clk := { s.clk with free := t.clk.free } }) ∧
    (∀ size : Nat, (s.xl.cache.any fun e => e.meets x size && !e.pins.isEmpty) = false →
      Runs (.invalidationRequest h pasid iova size) s fun t =>
        (∀ e ∈ t.xl.cache, e.meets x size = false) ∧ t.out = s.out ++ [.invDone h iova.toNat] ∧
        (∀ r, s.ringHost r = h → ∀ e ∈ t.slotsOf r, dSealed e.bytes = false → ∀ o ∈ e.ops, ∀ m ∈ o.xl, m.pas = pasid →
          m.iova < iova.toNat + size → iova.toNat < m.iova + m.size → m.stale = true) ∧
        t = { s with xl := t.xl, ctxs := t.ctxs, out := t.out }) ∧
    (∀ size : Nat, (s.xl.cache.any fun e => e.meets x size && !e.pins.isEmpty) = true →
      Runs (.invalidationRequest h pasid iova size) s fun t =>
        t.xl.cache = s.xl.cache ∧ t.xl.invals = s.xl.invals ++ [(x, size)] ∧ t = { s with xl := t.xl })

/-! ### Records and events -/

/-- COMMIT: an unpadded refusal whose record has room enters its reorder slot with DUR 0; an Open unit that is complete and has room in the collector
commits whole, each member after its destination cipher card is written (R42, R266, R272); one without room is held. That a refusal too
needs room in the collector is the model's choice (log entry 66: R272 speaks of the retires of slices). The padding of FLOOD holds its record back (R240). A Sealed record enters the collector in the first cycle start + k × DUR, k ≥ 1, in which the run is complete, and LATE
tells k ≥ 2; in any other cycle nothing happens (R217, R231). The destination cipher card that a completed descriptor writes holds the
fields of its source card but for those that the opcode defines: ORDER inverted for BITREV, LEVEL, LIMBS and SCALE for a RESCALE that drops
e ordinary moduli, BUDGET for a FLOOD with NBV = 1, and every field of LUTPOLY's (R44, R106, R157, R237, Table 05-2). -/
def Obligations.RecordsEnterCollector : Prop :=
  (
    ∀ (r : RingId) (p : W32) (c : Nat) (d : Slot) (s : State), s.pclkRuns = true → s.slotOf r p = some d → (s.ring r).stopped = false →
      (d.unpadded = true → s.commits r d c = false →
        Runs (.commit r p c) s fun t => t = { s with clk := { s.clk with pclk := max s.clk.pclk c } }) ∧
      (d.unpadded = true → (s.before r p).all (fun e => e.phase.begun) = true → s.retires r [d] = true → Runs (.commit r p c) s fun t =>
        t.mem = s.mem ∧ ∀ e ∈ t.slotsOf r, e.idx = p → e.phase = .recorded ∧ e.status = d.status ∧ e.dur = 0) ∧
      (d.unpadded = false → dSealed d.bytes = false → s.retires r (s.unit r d) = true →
        (∀ e ∈ s.unit r d, s.complete r e = true ∧ floodTime e c = true) →
        Runs (.commit r p c) s fun t =>
          (∀ e ∈ t.slotsOf r, e.idx ∈ (s.unit r d).map (·.idx) → e.phase = .recorded) ∧
          t.mem = ((s.unit r d).foldl (fun (x : State) e => x.writeCard e) s).mem) ∧
      (d.unpadded = false → dSealed d.bytes = false → (s.retires r (s.unit r d) = false ∨ ∃ e ∈ s.unit r d, e.phase ≠ .recorded ∧ floodTime e c = false) →
        Runs (.commit r p c) s fun t => t = { s with clk := { s.clk with pclk := max s.clk.pclk c } })) ∧
  (
    ∀ (r : RingId) (p : W32) (c e : Nat) (d : Slot) (s : State), s.pclkRuns = true → s.slotOf r p = some d → (s.ring r).stopped = false →
      dSealed d.bytes = true → s.complete r d = true → d.doneAt = some e → 0 < d.dur →
      (∀ k, 1 ≤ k → c = d.start + k * d.dur → e ≤ c → (∀ j, 1 ≤ j → e ≤ d.start + j * d.dur → k ≤ j) →
        Runs (.sealedRecordCycle r p c) s fun t =>
          ∀ x ∈ t.slotsOf r, x.idx = p → x.phase = .recorded ∧ x.late = decide (2 ≤ k) ∧ x.dur = d.dur ∧ x.status = d.status) ∧
      ((∀ k, 1 ≤ k → c = d.start + k * d.dur → e ≤ c → ∃ j, 1 ≤ j ∧ e ≤ d.start + j * d.dur ∧ j < k) →
        Runs (.sealedRecordCycle r p c) s fun t => t = { s with clk := { s.clk with pclk := max s.clk.pclk c } })) ∧
  (
    ∀ (d : Slot) (img : List Byte) (cc c : CipherCard) (s u : State), (dcardPtr d.bytes).valid = true →
      u.destCard d.opc d.bytes img (some cc) = some c → d.dcard = some c → d.status = stDone →
      d.races.any (dcardPtr d.bytes).range.meets = false → cc.level < 64 → cc.limbs ≤ 64 → cc.npoly ≤ 1 →
      let b := (s.writeCard d).readBytes (dcardPtr d.bytes).stack (dcardPtr d.bytes).addr 64
      let e := (droppedOrdinary (u.chain cc.chain) img).length
      let flag (x : Bool) (i : Nat) : Nat := if x then 2 ^ i else 0
      (d.opc ≠ .lutpoly →
        byteAt b 0 = cc.scheme % 256 ∧ byteAt b 1 = cc.log2n % 256 ∧
        byteAt b 2 = (if d.opc = .rescale then cc.level - e else cc.level) ∧
        byteAt b 3 = (if d.opc = .rescale then cc.level - e + 1 else cc.limbs) ∧
        field b 4 2 = cc.chain % 2 ^ 16 ∧ field b 8 4 = cc.keyset.toNat ∧
        field b 12 2 = (if d.opc = .rescale then field d.bytes 86 2 else cc.scale.toNat) ∧
        field b 14 2 = (if d.opc = .flood ∧ bit (byteAt d.bytes 85) 3 = true then field d.bytes 86 2 else cc.budget.toNat) ∧
        field b 16 4 = cc.slots.toNat ∧ field b 24 8 = cc.ptmod.toNat ∧ field b 32 4 = cc.lweN.toNat ∧
        field b 20 4 = flag cc.valid 0 + flag cc.poison 1 + flag (if d.opc = .bitrev then !cc.order else cc.order) 2 + flag cc.eval 3 +
          flag cc.paired 4 + 256 * cc.npoly) ∧
      (d.opc = .lutpoly →
        byteAt b 0 = 4 ∧ byteAt b 1 = byteAt d.bytes 84 % 32 ∧ byteAt b 2 = 0 ∧ byteAt b 3 = 1 ∧ field b 4 2 = byteAt d.bytes 80 ∧
        field b 8 4 = field d.bytes 88 4 ∧ field b 12 2 = 0 ∧ field b 14 2 = field d.bytes 92 2 ∧ field b 16 4 = 0 ∧ field b 20 4 = 1 ∧
        field b 24 8 = 0 ∧ field b 32 4 = 0) ∧
      field b 6 2 = 0 ∧ field b 36 28 = 0)

/-- The collector writes the oldest records of a ring in a stack at CBASE + 32 × (index mod SIZE): 32 bytes, or 64 for two
that share a granule. DONE_I moves by as many; every other byte stays as it was, unless an invalidation has made what a descriptor wrote
undefined (R31, R34, R38, R249, R252, R273). An Open record waits behind
the Sealed one of another ring, and one in a slice queue until the merge buffer takes it (R272). -/
def Obligations.CollectorWritesRecords : Prop :=
  ∀ (r : RingId) (m : Nat) (d : Slot) (ds : List Slot) (s : State), (s.ring r).stopped = false → s.ctl.inReset = false →
    s.nextRecords r = d :: ds → (s.ringEntry r).loc ≠ 0xFF → s.ringGone r = false →
    let e := s.ringEntry r
    let a := e.cbase + 32 * (d.idx.toNat % 2 ^ e.log2size)
    s.inGrant (s.ringHost r) e.loc a 1 = true →
    let bs := (d :: ds).flatMap fun x => recordBytes x e.log2size (s.host (s.ringHost r)).freezing
    let intact : Prop := ∀ x ∈ d :: ds, x.sigStale = false ∧ ∀ o ∈ x.ops, ∀ m ∈ o.xl, m.stale = false
    (Runs (.collectorWrite r true m) s fun t =>
      t.readBytes e.loc a bs.length = bs ∧ bs.length = 32 * (d :: ds).length ∧
      (∀ k, (k < memKey e.loc a ∨ memKey e.loc a + bs.length ≤ k) →
        readMem t.mem k = readMem ((d :: ds).foldl State.spoil s).mem k ∧ (intact → readMem t.mem k = readMem s.mem k)) ∧
      (t.ring r).doneI = (s.ring r).doneI + BitVec.ofNat 32 (d :: ds).length ∧
      (t.slotsOf r).map (·.idx) = ((s.slotsOf r).drop (d :: ds).length).map (·.idx) ∧
      (s.xl.invals = [] → (t.slotsOf r).map unqueued = ((s.slotsOf r).drop (d :: ds).length).map unqueued) ∧
      (((d :: ds).any fun x => dEvt x.bytes || x.status != 0 || (s.host (s.ringHost r)).freezing) = true →
        ((t.host (s.ringHost r)).vec e.vec).pend = true) ∧
      (∀ x ∈ t.emb.ckpts, x.r = r → ∀ y ∈ d :: ds, x.p ≠ y.idx) ∧
      t = { s with
        mem := t.mem, poison := t.poison, ctxs := t.ctxs, rings := t.rings, hosts := t.hosts, slices := t.slices, ports := t.ports
        xl := t.xl, out := t.out, emb := { s.emb with ckpts := t.emb.ckpts }, ctl := { s.ctl with ostRun := t.ctl.ostRun }
        clk := { s.clk with nclk := max s.clk.nclk m, free := t.clk.free } }) ∧
    (Runs (.collectorWrite r false m) s fun t =>
      (t.ring r).st = .error ∧ (t.ring r).cause = 3 ∧ (t.ring r).doneI = (s.ring r).doneI ∧ (t.ring r).pend = false ∧
      ((t.host (s.ringHost r)).vec e.vec).pend = true ∧ ∀ x ∈ t.slotsOf r, x.phase.active = true) ∧
    (∀ c : Ctx, ∀ x xs, (s.ctxOf r).map (·.2) = some c → c.ready = x :: xs →
      (x.queue.isSome = true ∨ (dSealed x.bytes = false ∧ s.sealedFirst r = true)) → s.nextRecords r = [])

/-- A record that has waited ETIME × 1024 nclk cycles signals its ring's vector; a vector that is due sends one message of
DATA to ADDR and clears PEND, and one that is masked, not pending or held off sends none (R274, R275, R357). -/
def Obligations.EventsSignalAndSend : Prop :=
  (∀ (r : RingId) (m t0 : Nat) (s : State), (s.ring r).oldest = some t0 → (s.ringEntry r).etime ≠ 0 →
    t0 + 1024 * (s.ringEntry r).etime ≤ m → Runs (.eventAgeTrigger r m) s fun t =>
      ((t.host (s.ringHost r)).vec (s.ringEntry r).vec).pend = true ∧ (t.ring r).unsig = 0 ∧ (t.ring r).oldest = none ∧
      (∀ x, x ≠ r → t.ring x = s.ring x) ∧ (∀ g, g ≠ s.ringHost r → t.host g = s.host g) ∧
      t = { s with rings := t.rings, hosts := t.hosts, clk := { s.clk with nclk := max s.clk.nclk m } }) ∧
  (∀ (h : HF) (v : Fin 64) (m : Nat) (s : State), s.ctl.stage ≠ .reset → s.ctl.inReset = false →
    let e := (s.host h).vec v.val
    let due : Prop := e.pend = true ∧ e.mask = false ∧ ∀ x, e.last = some x → x + 1024 * e.holdoff.toNat ≤ m
    (due → Runs (.eventMessage h v m) s fun t =>
      t.out = s.out ++ [.message h v.val (e.addr ++ (0 : BitVec 2)) e.data] ∧
      (t.host h).vec v.val = { e with pend := false, last := some m } ∧
      (∀ i, i ≠ v.val → (t.host h).vec i = (s.host h).vec i) ∧ (∀ g, g ≠ h → t.host g = s.host g) ∧
      t = { s with hosts := t.hosts, out := t.out, clk := { s.clk with nclk := max s.clk.nclk m } }) ∧
    (¬ due → Runs (.eventMessage h v m) s fun t => t = { s with clk := { s.clk with nclk := max s.clk.nclk m } }))

/-! ### Tile instructions -/

/-- Every tile row but LOOP and ENDL advances the index and the ordinal by 1, touches only its own slice, and within it
only what the tables give it: pools for TST and ASTR, shapes for TCFG, accumulators for TCFG, AZERO and the TMAC family,
Char registers for a Char instruction with a Char destination, and no tile but the destination; the slice's issue gap counts from it (R376).
LOOP opens a loop of COUNT + 1 iterations at the next instruction; ENDL goes back to its body while iterations are left
and goes on otherwise (R184). At the end of the program a slice that acts for a fenced one begins it anew on the next share (R10, R180; that
it works the shares one after another is the model's choice, log entry 69). -/
def Obligations.TileRowFrame : Prop :=
  (∀ row ∈ tileControlRows ++ charRows, row.2 ≠ 0x10 → row.2 ≠ 0x11 →
    ∀ (n : SliceId) (dst sa sb : Byte) (md : W32) (s : State), TileRuns s n (tiWith row.2 dst sa sb md) →
    RunsTile n (row.1 n dst sa sb md) s fun t =>
      let v := s.slice n
      let w := t.slice n
      OnlyTile n s t ∧ w = { v with tu := w.tu, pools := w.pools, issued := some (t.clk.pclk, v.unit) } ∧
      w.tu.pc = v.tu.pc + 1 ∧ w.tu.ord = v.tu.ord + 1 ∧ w.tu.loops = v.tu.loops ∧ w.tu.prog = v.tu.prog ∧ w.tu.tables = v.tu.tables ∧
      w.tu.hf = v.tu.hf ∧ w.tu.slotPool = v.tu.slotPool ∧ w.tu.chain = v.tu.chain ∧ w.tu.mbase = v.tu.mbase ∧ w.tu.seed = v.tu.seed ∧
      w.tu.share = v.tu.share ∧
      (row.2 ≠ 0x09 → row.2 ≠ 0x0A → w.pools = v.pools ∧ w.tu.written = v.tu.written) ∧
      (row.2 ≠ 0x01 → w.tu.shape = v.tu.shape) ∧
      (row.2 ∉ [0x01, 0x03, 0x40, 0x41, 0x42] → w.tu.acc = v.tu.acc ∧ w.tu.accMod = v.tu.accMod) ∧
      (row.2 < 0x80 ∨ isTile dst.toNat = true → w.tu.vt = v.tu.vt) ∧
      (row.2 ∈ [0x00, 0x03, 0x09, 0x0A, 0x40, 0x41, 0x42] ∨ (0x80 ≤ row.2 ∧ isTile dst.toNat = false) → w.tu.tile = v.tu.tile) ∧
      (row.2 ≠ 0x01 → ShapesFit v.tu → ∀ b r l, b ≠ dst.toNat → r < 128 → l < 128 → w.tu.el b r l = v.tu.el b r l)) ∧
  (∀ (n : SliceId) (dst sa sb : Byte) (md : W32) (s : State),
    let u := (s.slice n).tu
    let only (w : TileUnit) (t : State) : Prop :=
      OnlyTile n s t ∧ t.slice n = { s.slice n with tu := w, issued := some (t.clk.pclk, (s.slice n).unit) }
    (TileRuns s n (tiWith 0x10 dst sa sb md) → RunsTile n (.loop n dst sa sb md) s
      (only { u with loops := (u.pc, 0, md.toNat % 2 ^ 12) :: u.loops, pc := u.pc + 1 })) ∧
    (∀ b k c rest, u.loops = (b, k, c) :: rest → TileRuns s n (tiWith 0x11 dst sa sb md) →
      (k < c → RunsTile n (.endl n dst sa sb md) s (only { u with loops := (b, k + 1, c) :: rest, pc := b + 1 })) ∧
      (c ≤ k → RunsTile n (.endl n dst sa sb md) s (only { u with loops := rest, pc := u.pc + 1 })))) ∧
  (∀ (n : SliceId) (u : State), n.val < u.nslices →
    let v := (u.slice n).tu
    (v.pc < v.prog.length → u.nextShare n.val = u) ∧
    (∀ r d m, u.tileSlot n.val = some (r, d) → v.prog.length ≤ v.pc →
      ((u.servedOf (piSlices d.image) n.val)[v.share + 1]? = none → u.nextShare n.val = u) ∧
      ((u.servedOf (piSlices d.image) n.val)[v.share + 1]? = some m →
        let w := ((u.nextShare n.val).slice n).tu
        w.pc = 0 ∧ w.ord = 0 ∧ w.share = v.share + 1 ∧ w.prog = piProg d.image ∧ w.tables = piTables d.image ∧ w.tile = [] ∧ w.vt = [] ∧ w.acc = [] ∧
          w.mbase = piMb d.image m ∧ w.slotPool = v.slotPool ∧ w.slotLen = d.ops.map fun o => (o.slot, (o.block m).length))))

/-- The data of the tile and control rows (Table 08-5): NOP changes no data, TCFG installs its table and empties what
changes, TZERO and AZERO clear, TMOV copies, TLD and TST move rows between a tile and a slot's pool, ASTR delivers the
canonical residues of an accumulator. A word at or beyond the slot's block is dropped (R176, R180, R183). -/
def Obligations.TileMovesData : Prop :=
  ∀ (n : SliceId) (dst sa sb : Byte) (md : W32) (s : State), ShapesFit (s.slice n).tu →
    let v := s.slice n
    let u := v.tu
    let d := dst.toNat
    let a := sa.toNat
    let i (op : Nat) := tiWith op dst sa sb md
    let h := u.sh d
    let g := u.sh a
    let pos (op r l : Nat) : Nat := 128 * (firstRow u (i op) + r) + l
    (TileRuns s n (i 0x00) → RunsTile n (.nop n dst sa sb md) s fun t =>
      (t.slice n).tu.tile = u.tile ∧ (t.slice n).tu.acc = u.acc ∧ (t.slice n).tu.vt = u.vt ∧ (t.slice n).pools = v.pools) ∧
    (TileRuns s n (i 0x01) → RunsTile n (.tcfg n dst sa sb md) s fun t => ∀ k, k < 20 →
      let table := u.tables.getD (md.toNat % 16) []
      (t.slice n).tu.entry k = tableEntry table k ∧
      (u.entry k ≠ tableEntry table k → k < 16 → ∀ r l, r < 128 → l < 128 → (t.slice n).tu.el k r l = 0)) ∧
    (TileRuns s n (i 0x02) → RunsTile n (.tzero n dst sa sb md) s fun t => ∀ r l, r < 128 → l < 128 → (t.slice n).tu.el d r l = 0) ∧
    (TileRuns s n (i 0x03) → 16 ≤ d → RunsTile n (.azero n dst sa sb md) s fun t =>
      ∀ r l, r < 8 → l < 128 → (t.slice n).tu.accEl d r l = {}) ∧
    (TileRuns s n (i 0x04) → RunsTile n (.tmov n dst sa sb md) s fun t =>
      ∀ r l, r < h.rows → l < h.cols → (t.slice n).tu.el d r l = u.el a r l) ∧
    (TileRuns s n (i 0x08) → RunsTile n (.tld n dst sa sb md) s fun t => ∀ r l, r < h.rows → l < h.cols →
      (t.slice n).tu.el d r l = narrow h.ty ((v.pool (tget u.slotPool (a - 0x80) 0)).word (firstRow u (i 0x08) + r) l)) ∧
    (TileRuns s n (i 0x09) → RunsTile n (.tst n dst sa sb md) s fun t => ∀ r l, r < g.rows → l < g.cols →
      let q := tget u.slotPool (d - 0x80) 0
      if pos 0x09 r l < tget u.slotLen (d - 0x80) 0 then
        ((t.slice n).pool q).word (firstRow u (i 0x09) + r) l = widen g.ty (u.el a r l) ∧
          tget (t.slice n).tu.written (131072 * (d - 0x80) + pos 0x09 r l) false = true
      else ((t.slice n).pool q).word (firstRow u (i 0x09) + r) l = (v.pool q).word (firstRow u (i 0x09) + r) l) ∧
    (TileRuns s n (i 0x0A) → RunsTile n (.astr n dst sa sb md) s fun t => ∀ r l, r < g.rows → l < g.cols →
      pos 0x0A r l < tget u.slotLen (d - 0x80) 0 →
      let y := accRead s u a r l
      let q := match u.accMod.find? fun m => m.1 == a - 16 with
        | some (_, sel, _) => (tileModuli s u sel).1
        | none => 1
      ((t.slice n).pool (tget u.slotPool (d - 0x80) 0)).word (firstRow u (i 0x0A) + r) l =
        (if tget u.slotTy (d - 0x80) 0 = tyU32P then y else canonOut (tget u.slotTy (d - 0x80) 0) q y) % 2 ^ 64)

/-- The multiply-accumulate rows take each element of the destination accumulator through R143 to R146: TMACE by the
elements of both tiles, TMACR by row BROW of SB, TMACB by the row of SA with the rows of SB in turn. TMULE gives the
product of two canonical residues (Table 08-6). The residue types hold every residue: what the lane writes it reads back (R21, R144,
Montgomery form included). An accumulation of canonical residues adds their product exactly and counts it; the 32nd reduces the element;
and the shadow stays equal to the value modulo 8191 (R143, R145, R146). -/
def Obligations.MultiplyAccumulateRows : Prop :=
  (∀ ty q y, (ty = tyU64 ∨ ty = tyS64 ∨ ty = tyU64M) → q % 2 = 1 → 1 < q → q < 2 ^ 62 → y < q →
    canonOut ty q y < 2 ^ 64 ∧ canonIn ty q (canonOut ty q y) = some y) ∧
  (∀ (ta tb q0 q1 f x y a b : Nat) (e : Acc), canonIn ta q0 x = some a → canonIn tb q0 y = some b → 0 < q0 →
    e.v.toNat + a * b < 2 ^ 128 → e.sh0 = e.v.toNat % 8191 →
    let z := accumulate false ta tb (q0, q1) f e x y
    z.sh0 = z.v.toNat % 8191 ∧ z.v.toNat % q0 = (e.v.toNat + a * b) % q0 ∧
    (e.cnt ≠ 31 → z.v.toNat = e.v.toNat + a * b ∧ z.cnt = e.cnt + 1) ∧ (e.cnt = 31 → z.v.toNat < q0 ∧ z.cnt = 0)) ∧
  ∀ (n : SliceId) (dst sa sb : Byte) (md : W32) (s : State), ShapesFit (s.slice n).tu →
    let u := (s.slice n).tu
    let d := dst.toNat
    let i (op : Nat) := tiWith op dst sa sb md
    let h := u.sh d
    let q := tileModuli s u (i 0).msel
    let ta := (u.sh sa.toNat).ty
    let tb := (u.sh sb.toNat).ty
    let free (r l : Nat) : Nat := s.clk.free + 2 * (128 * r + l)
    let acc (t : State) (r l : Nat) : Acc := (t.slice n).tu.accEl d r l
    (TileRuns s n (i 0x40) → RunsTile n (.tmace n dst sa sb md) s fun t => ∀ r l, r < h.rows → l < h.cols →
      acc t r l = accumulate (i 0).pm ta tb q (free r l) (u.accEl d r l) (u.el sa.toNat r l) (u.el sb.toNat r l)) ∧
    (TileRuns s n (i 0x42) → RunsTile n (.tmacr n dst sa sb md) s fun t => ∀ r l, r < h.rows → l < h.cols →
      acc t r l = accumulate (i 0).pm ta tb q (free r l) (u.accEl d r l) (u.el sa.toNat r l) (u.el sb.toNat (i 0).brow l)) ∧
    (TileRuns s n (i 0x41) → RunsTile n (.tmacb n dst sa sb md) s fun t => ∀ r l, r < (u.sh sa.toNat).rows → l < h.cols →
      acc t r l = (List.range (u.sh sa.toNat).cols).foldl (fun e k =>
        accumulate (i 0).pm ta tb q (free r l) e (u.el sa.toNat r k) (u.el sb.toNat k l)) (u.accEl d r l)) ∧
    (TileRuns s n (i 0x48) → (i 0).pm = false → RunsTile n (.tmule n dst sa sb md) s fun t => ∀ r l x y, r < h.rows → l < h.cols →
      canonIn ta q.1 (u.el sa.toNat r l) = some x → canonIn tb q.1 (u.el sb.toNat r l) = some y →
      (t.slice n).tu.el d r l = canonOut h.ty q.1 (x * y % q.1) % 2 ^ 64) ∧
    (TileRuns s n (i 0x48) → (i 0).pm = true → RunsTile n (.tmule n dst sa sb md) s fun t => ∀ r l, r < h.rows → l < h.cols →
      let a := u.el sa.toNat r l
      let b := u.el sb.toNat r l
      a % 2 ^ 32 < q.1 → b % 2 ^ 32 < q.1 → a / 2 ^ 32 < q.2 → b / 2 ^ 32 < q.2 →
      (t.slice n).tu.el d r l = ((a % 2 ^ 32) * (b % 2 ^ 32) % q.1 + 2 ^ 32 * ((a / 2 ^ 32) * (b / 2 ^ 32) % q.2)) % 2 ^ 64)

/-- The bitwise, shift, select, move and splat rows, lane by lane (R202, R204). -/
def Obligations.CharBitRows : Prop :=
  ∀ (n : SliceId) (dst sa sb : Byte) (md : W32) (s : State), ShapesFit (s.slice n).tu →
    let u := (s.slice n).tu
    let i (op : Nat) := tiWith op dst sa sb md
    let w := tyBits (i 0).sty
    let cnt := md.toNat / 2 ^ 26
    let a (r l : Nat) : Nat := charOperand u (i 0).sty sa.toNat (charRow (i 0) r) l
    let b (r l : Nat) : Nat := charOperand u (i 0).sty sb.toNat (charRow (i 0) r) l
    let old (r l : Nat) : Nat := if isTile dst.toNat then u.el dst.toNat (charRow (i 0) r) l else u.vtLane dst.toNat l
    let gives (c : Instr) (op : Nat) (f : Nat → Nat → Nat) : Prop := TileRuns s n (i op) →
      RunsTile n c s fun t => CharWrites u (t.slice n).tu (i op) f
    gives (.vand n dst sa sb md) 0x8D (fun r l => a r l &&& b r l) ∧
    gives (.vor n dst sa sb md) 0x8E (fun r l => a r l ||| b r l) ∧
    gives (.vxor n dst sa sb md) 0x8F (fun r l => a r l ^^^ b r l) ∧
    gives (.vmov n dst sa sb md) 0x9B a ∧
    gives (.vsel n dst sa sb md) 0x99 (fun r l => if old r l = 0 then b r l else a r l) ∧
    gives (.vshl n dst sa sb md) 0xA0 (fun r l => if w ≤ cnt then 0 else a r l * 2 ^ cnt % 2 ^ w) ∧
    gives (.vshr n dst sa sb md) 0xA1 (fun r l => a r l / 2 ^ cnt) ∧
    gives (.vsra n dst sa sb md) 0xA2 (fun r l => wrapNat (signed (a r l) w / (2 ^ cnt : Nat)) w) ∧
    gives (.vspl n dst sa sb md) 0x9A (fun _ l =>
      u.vtLane sa.toNat (if (i 0).cond = 0 then 16 * ((i 0).trow % 8) + l % 16 else 16 * (l / 16) + (i 0).trow % 16) % 2 ^ w)

/-- The integer and fixed-point rows: the exact result, wrapped to the width, or with SAT = 1 held in the type's range; the
smaller and the larger of two integers, and of two floating values, −0 below +0, a NaN giving way to the other operand and two to the
canonical one; a comparison gives 0 or 1, of residues by r, and of S64 by its centred c (R202, R203). That fixed-point operands of different
TPARAM work on the raw integers is the model's choice (log entry 94). -/
def Obligations.CharIntegerRows : Prop :=
  ∀ (n : SliceId) (dst sa sb : Byte) (md : W32) (s : State), ShapesFit (s.slice n).tu →
    let u := (s.slice n).tu
    let i (op : Nat) := tiWith op dst sa sb md
    let ty := (i 0).sty
    let w := tyBits ty
    let ra (r l : Nat) : Nat := charOperand u ty sa.toNat (charRow (i 0) r) l
    let rb (r l : Nat) : Nat := charOperand u ty sb.toNat (charRow (i 0) r) l
    let a (r l : Nat) : Int := rawInt ty (ra r l)
    let b (r l : Nat) : Int := rawInt ty (rb r l)
    let x (r l : Nat) : Val := floatVal (fmtOf ty) (ra r l)
    let y (r l : Nat) : Val := floatVal (fmtOf ty) (rb r l)
    let q := (tileModuli s u (i 0).msel).1
    let res (raw : Nat) : Int :=
      let z := (canonIn ty q raw).getD 0
      if ty = tyS64 ∧ (q - 1) / 2 < z then z - q else z
    let holds (c : Nat) (x y : Int) : Bool :=
      if c = 0 then x == y else if c = 1 then x != y else if c = 2 then decide (x < y) else if c = 3 then decide (x ≤ y)
      else if c = 4 then decide (y < x) else decide (y ≤ x)
    let held (z : Int) : Nat := wrapNat (if (i 0).sat then max (typeMin ty) (min (typeMax ty) z) else z) w
    let gives (c : Instr) (op : Nat) (f : Nat → Nat → Nat) : Prop := TileRuns s n (i op) →
      RunsTile n c s fun t => CharWrites u (t.slice n).tu (i op) f
    gives (.vadd n dst sa sb md) 0x88 (fun r l => held (a r l + b r l)) ∧
    gives (.vsub n dst sa sb md) 0x89 (fun r l => held (a r l - b r l)) ∧
    gives (.vmul n dst sa sb md) 0x8A (fun r l => held (a r l * b r l)) ∧
    (isFloat ty = false → gives (.vmin n dst sa sb md) 0x8B (fun r l =>
      if a r l < b r l then ra r l else rb r l)) ∧
    (isFloat ty = false → gives (.vmax n dst sa sb md) 0x8C (fun r l =>
      if a r l < b r l then rb r l else ra r l)) ∧
    (isFloat ty = true → gives (.vmin n dst sa sb md) 0x8B (fun r l =>
      if (x r l).isNan && (y r l).isNan then nanCode (fmtOf ty) false else if (x r l).isNan then rb r l else if (y r l).isNan then ra r l
      else if (x r l).lt true (y r l) then ra r l else rb r l)) ∧
    (isFloat ty = true → gives (.vmax n dst sa sb md) 0x8C (fun r l =>
      if (x r l).isNan && (y r l).isNan then nanCode (fmtOf ty) false else if (x r l).isNan then rb r l else if (y r l).isNan then ra r l
      else if (x r l).lt true (y r l) then rb r l else ra r l)) ∧
    (isResidue ty = true →
      (∀ r l, (if isTile dst.toNat then r < (u.sh dst.toNat).rows ∧ l < (u.sh dst.toNat).cols else r = 0 ∧ l < 128) →
        (canonIn ty q (ra r l)).isSome = true ∧ (canonIn ty q (rb r l)).isSome = true) →
      gives (.vcmp n dst sa sb md) 0x98 (fun r l => (holds (i 0).cond (res (ra r l)) (res (rb r l))).toNat)) ∧
    (isResidue ty = false → gives (.vcmp n dst sa sb md) 0x98 (fun r l =>
      (compareVal (i 0).cond (elemVal ty (charTp u ty s.clk.free sa.toNat) (ra r l)) (elemVal ty (charTp u ty s.clk.free sb.toNat) (rb r l))).toNat))

/-- The modular rows on canonical residues of one type, and on the halves of U32P, each with its own modulus; VACC delivers
an accumulator's canonical residue (R144, R202, R205). -/
def Obligations.CharModularRows : Prop :=
  ∀ (n : SliceId) (dst sa sb : Byte) (md : W32) (s : State), ShapesFit (s.slice n).tu →
    let u := (s.slice n).tu
    let i (op : Nat) := tiWith op dst sa sb md
    let ty := (i 0).sty
    let q := tileModuli s u (i 0).msel
    let a (r l : Nat) : Nat := charOperand u ty sa.toNat (charRow (i 0) r) l
    let b (r l : Nat) : Nat := charOperand u ty sb.toNat (charRow (i 0) r) l
    let written (r l : Nat) : Prop :=
      if isTile dst.toNat then r < (u.sh dst.toNat).rows ∧ l < (u.sh dst.toNat).cols else r = 0 ∧ l < 128
    let single (c : Instr) (op : Nat) (f : Nat → Nat → Nat) : Prop := TileRuns s n (i op) → isResidue ty = true → ty ≠ tyU32P →
      (∀ r l, written r l → ∃ x y, canonIn ty q.1 (a r l) = some x ∧ (op ≠ 0x83 → canonIn ty q.1 (b r l) = some y)) →
      RunsTile n c s fun t => CharWrites u (t.slice n).tu (i op) fun r l =>
        canonOut (i 0).dty q.1 (f ((canonIn ty q.1 (a r l)).getD 0) ((canonIn ty q.1 (b r l)).getD 0))
    let paired (c : Instr) (op : Nat) (f : Nat → Nat → Nat → Nat) : Prop := TileRuns s n (i op) → ty = tyU32P →
      (∀ r l, written r l → a r l % 2 ^ 32 < q.1 ∧ a r l / 2 ^ 32 < q.2 ∧ (op ≠ 0x83 → b r l % 2 ^ 32 < q.1 ∧ b r l / 2 ^ 32 < q.2)) →
      RunsTile n c s fun t => CharWrites u (t.slice n).tu (i op) fun r l =>
        f q.1 (a r l % 2 ^ 32) (b r l % 2 ^ 32) + 2 ^ 32 * f q.2 (a r l / 2 ^ 32) (b r l / 2 ^ 32)
    single (.vaddm n dst sa sb md) 0x80 (fun x y => (x + y) % q.1) ∧ paired (.vaddm n dst sa sb md) 0x80 (fun m x y => (x + y) % m) ∧
    single (.vsubm n dst sa sb md) 0x81 (fun x y => (x + q.1 - y) % q.1) ∧ paired (.vsubm n dst sa sb md) 0x81 (fun m x y => (x + m - y) % m) ∧
    single (.vmulm n dst sa sb md) 0x82 (fun x y => x * y % q.1) ∧ paired (.vmulm n dst sa sb md) 0x82 (fun m x y => x * y % m) ∧
    single (.vnegm n dst sa sb md) 0x83 (fun x _ => (q.1 - x) % q.1) ∧ paired (.vnegm n dst sa sb md) 0x83 (fun m x _ => (m - x) % m) ∧
    (let y (r l : Nat) : Nat := if l < (u.sh sa.toNat).cols then accRead s u sa.toNat (charRow (i 0) r) l else 0
     TileRuns s n (i 0x84) →
      (sb = 0xFF → RunsTile n (.vacc n dst sa sb md) s fun t => CharWrites u (t.slice n).tu (i 0x84) fun r l =>
        if (i 0).dty = tyU32P then y r l else canonOut (i 0).dty q.1 (y r l)) ∧
      (sb ≠ 0xFF → (i 0).dty ≠ tyU32P → (∀ r l, written r l → (canonIn ty q.1 (b r l)).isSome = true) →
        RunsTile n (.vacc n dst sa sb md) s fun t => CharWrites u (t.slice n).tu (i 0x84) fun r l =>
          canonOut (i 0).dty q.1 ((y r l + (canonIn ty q.1 (b r l)).getD 0) % q.1)) ∧
      (sb ≠ 0xFF → (i 0).dty = tyU32P →
        (∀ r l, written r l → y r l % 2 ^ 32 < q.1 ∧ y r l / 2 ^ 32 < q.2 ∧ b r l % 2 ^ 32 < q.1 ∧ b r l / 2 ^ 32 < q.2) →
        RunsTile n (.vacc n dst sa sb md) s fun t => CharWrites u (t.slice n).tu (i 0x84) fun r l =>
          (y r l % 2 ^ 32 + b r l % 2 ^ 32) % q.1 + 2 ^ 32 * ((y r l / 2 ^ 32 + b r l / 2 ^ 32) % q.2)))

/-- The floating-point rows round the exact result once, in the mode RND (R203). VCVT converts each lane from SRCTY to DSTTY with RND, SAT and
the modulus of MSEL, VENC with its SCALE into U64, or U32P with PM = 1, and VDEC from U64 by the centred value over S; the random value is that
of the slice's share, the instruction's ordinal, row-op and lane (R206, R208, R210, R211). A conversion rounds the exact value, times S, to an
integer, or to a multiple of 2^(−f), then clamps or wraps it, or stores it modulo q, 0 at 2^127 and beyond; a residue keeps r in another form
and converts by its centred value otherwise; NaN and the infinities are those of Table 09-6; and Table 09-7's samples come out (R206, R207,
R209, R210). -/
def Obligations.CharFloatAndConvertRows : Prop :=
  (∀ (n : SliceId) (dst sa sb : Byte) (md : W32) (s : State), ShapesFit (s.slice n).tu →
    let u := (s.slice n).tu
    let i (op : Nat) := tiWith op dst sa sb md
    let ty := (i 0).sty
    let dty := (i 0).dty
    let rnd := (i 0).rnd
    let src (t r l : Nat) : Nat := charOperand u t sa.toNat (charRow (i 0) r) l
    let x (r l : Nat) : Val := elemVal ty 0 (src ty r l)
    let y (r l : Nat) : Val := elemVal ty 0 (charOperand u ty sb.toNat (charRow (i 0) r) l)
    let z (r l : Nat) : Val := elemVal ty 0 ((if isTile dst.toNat then u.el dst.toNat (charRow (i 0) r) l else u.vtLane dst.toNat l) % 2 ^ tyBits ty)
    let q := tileModuli s u (i 0).msel
    let m := if isResidue ty || isResidue dty then q else (0, 0)
    let R (r l : Nat) : Nat := stochR u.seed.toNat (((s.tileStack n.val * 2 ^ 20 + u.ord) * 128 + r) * 128 + l)
    let free (r l : Nat) : Nat := (Config.freeWord (s.clk.free + 1 + 128 * r + l)).toNat
    let S := scaleOf (md.toNat / 2 ^ 9 % 2 ^ 16)
    let srnd := md.toNat / 2 ^ 6 % 2 ^ 3
    let gives (c : Instr) (op : Nat) (f : Nat → Nat → Nat) : Prop := TileRuns s n (i op) →
      RunsTile n c s fun t => CharWrites u (t.slice n).tu (i op) f
    gives (.vfadd n dst sa sb md) 0x90 (fun r l => arith ty rnd ((x r l).add rnd (y r l))) ∧
    gives (.vfsub n dst sa sb md) 0x91 (fun r l => arith ty rnd ((x r l).add rnd (y r l).neg)) ∧
    gives (.vfmul n dst sa sb md) 0x92 (fun r l => arith ty rnd ((x r l).prod (y r l))) ∧
    gives (.vfma n dst sa sb md) 0x93 (fun r l => arith ty rnd (((x r l).prod (y r l)).add rnd (z r l))) ∧
    gives (.vcvt n dst sa sb md) 0xA8 (fun r l => (convertElem ⟨ty, charTp u ty s.clk.free sa.toNat, m.1, m.2⟩
      ⟨dty, charTp u dty s.clk.free dst.toNat, m.1, m.2⟩ (1, 1) rnd (i 0).sat (R r l) (src ty r l)).getD (free r l)) ∧
    gives (.venc n dst sa sb md) 0xA9 (fun r l => (convertElem ⟨ty, charTp u ty s.clk.free sa.toNat, 0, 0⟩
      ⟨if (i 0).pm then tyU32P else tyU64, 0, q.1, q.2⟩ S srnd false (R r l) (src ty r l)).getD (free r l)) ∧
    gives (.vdec n dst sa sb md) 0xAA (fun r l =>
      (convertElem ⟨tyU64, 0, q.1, q.2⟩ ⟨ty, 0, 0, 0⟩ S srnd false (R r l) (src tyU64 r l)).getD (free r l))) ∧
  (∀ (a b : ElTy) (S : Nat × Nat) (rnd R w : Nat) (sat : Bool), rnd ≤ 4 → 0 < S.1 → 0 < S.2 → isResidue a.ty = false →
    let v := elemVal a.ty a.tp w
    let out := convertElem a b S rnd sat R w
    (isResidue b.ty = false → isFloat b.ty = false →
      (∀ neg k d, v = .fin neg k d → 0 < d → ∃ z : Int, RoundsTo rnd R (sgn neg k * 2 ^ (if isFixed b.ty then b.tp else 0)) d z ∧
        out = some (wrapNat (if sat then max (typeMin b.ty) (min (typeMax b.ty) z) else z) (tyBits b.ty))) ∧
      (∀ neg, v = .nan neg → out = some 0) ∧
      (∀ neg, v = .inf neg → tyBits b.ty ≤ 64 →
        out = some (if sat then wrapNat (if neg then typeMin b.ty else typeMax b.ty) (tyBits b.ty) else 0))) ∧
    (isResidue b.ty = true → b.ty ≠ tyU32P → 0 < b.q0 →
      (∀ neg k d, v = .fin neg k d → 0 < d → ∃ z : Int, RoundsTo rnd R (sgn neg k * S.1) (d * S.2) z ∧
        out = some (canonOut b.ty b.q0 (if 2 ^ 127 ≤ z.natAbs then 0 else (z % b.q0).toNat))) ∧
      (∀ neg, v = .nan neg ∨ v = .inf neg → out = some (canonOut b.ty b.q0 0))) ∧
    (isFloat b.ty = true →
      (∀ neg, v = .nan neg → out = some (nanCode (fmtOf b.ty) neg)) ∧
      (∀ neg, v = .inf neg → out = some
        (if b.ty = 0x24 ∧ sat = true then signBit (fmtOf b.ty) neg + 0x7E else infCode (fmtOf b.ty) neg)))) ∧
  (∀ (a b : ElTy) (S : Nat × Nat) (rnd R w r : Nat) (sat : Bool), rnd ≤ 4 → 0 < S.1 → 0 < S.2 → isResidue a.ty = true →
    canonIn a.ty a.q0 w = some r → r < a.q0 → a.q0 < 2 ^ 62 →
    let c : Int := if (a.q0 - 1) / 2 < r then r - a.q0 else r
    (isResidue b.ty = true → b.q0 = a.q0 → convertElem a b S rnd sat R w = some (canonOut b.ty b.q0 r)) ∧
    (isResidue b.ty = false → isFloat b.ty = false →
      ∃ z : Int, RoundsTo rnd R (c * S.2 * 2 ^ (if isFixed b.ty then b.tp else 0)) S.1 z ∧
        convertElem a b S rnd sat R w = some (wrapNat (if sat then max (typeMin b.ty) (min (typeMax b.ty) z) else z) (tyBits b.ty)))) ∧
  (let cv (a b rnd : Nat) (sat : Bool) (w : Nat) : Option Nat := convertElem ⟨a, 0, 1073725441, 0⟩ ⟨b, 0, 0, 0⟩ (1, 1) rnd sat 0 w;
    cv 0x21 0x22 0 false 0x3F808000 = some 0x3F80 ∧ cv 0x21 0x22 3 false 0x3F808000 = some 0x3F81 ∧
    cv 0x21 0x24 0 true 0x43FA0000 = some 0x7E ∧ cv 0x21 0x24 0 false 0x43FA0000 = some 0x7F ∧
    cv 0x21 0x12 0 true 0xC348B333 = some 0x80 ∧ cv 0x21 0x12 0 false 0xC348B333 = some 0x37 ∧
    cv tyU64 0x10 0 false (1073725441 - 5) = some 0xFFFFFFFB ∧ cv 0x20 0x25 1 false 0x7FF0000000000000 = some 0x7C)

/-! ### The admin channel -/

/-- A submission is staged into the request ring, or sets OVF when 64 requests wait and is discarded, and renews the lease of an active
session either way; APOP releases the oldest response (R291, R299, R358). An unknown TYPE is answered INVALID (R293). The end of the zeroing
of a grant: every byte that another host function held reads 0, the grant takes effect and its request is answered (R295). A waiting request
that can be served within 100 ms is served and answered; after 100 ms it is answered BUSY with nothing changed (R292). -/
def Obligations.AdminQueues : Prop :=
  (∀ (h : HF) (s : State),
      (∀ f, s.writes (.host h) (.host h) = true → s.submits = true →
        ((s.host h).api - (s.host h).taken < 64 → Runs (.asub h h f) s fun t =>
          (t.host h).api = (s.host h).api + 1 ∧ (t.host h).ovf = (s.host h).ovf ∧
          t.readBytes 0 (reqSlot h (s.host h).api) 64 = (s.host h).staged ∧ t.readBytes 12 (reqSlot h (s.host h).api) 64 = (s.host h).staged ∧
          ((s.host h).session = .active → (t.host h).deadline = max s.clk.fclk f + (s.host h).lease * 1200000) ∧
          (∀ g, g ≠ h → t.host g = s.host g)) ∧
        (64 ≤ (s.host h).api - (s.host h).taken → Runs (.asub h h f) s fun t =>
          (t.host h).api = (s.host h).api ∧ (t.host h).ovf = true ∧ t.mem = s.mem ∧
          ((s.host h).session = .active → (t.host h).deadline = max s.clk.fclk f + (s.host h).lease * 1200000) ∧
          (∀ g, g ≠ h → t.host g = s.host g))) ∧
      (s.writes (.host h) (.host h) = true → (s.host h).rspOut < (s.host h).rspIn → Runs (.apop h h) s fun t =>
        (t.host h).rspOut = (s.host h).rspOut + 1 ∧ OnlyHost h s t) ∧
      (∀ f q, (s.atFclk f).nextRequest h = some q → adminTypes.contains (rqType q) = false → Runs (.adminInvalidType h f) s fun t =>
        Answers h q 4 [] s t ∧ (t.host h).taken = (s.host h).taken + 1 ∧ t.fw.adminLast = h.val)) ∧
  (∀ (h : HF) (f : Nat) (w : Waiting) (s : State), (s.host h).cur = some w → w.req.length = 64 → s.adminRuns = true →
      (let g := grantOf w.req
       rqType w.req = 0x40 → s.zeroing.contains g = true → max s.clk.fclk f ≤ w.since + 120000000 → meetsHearthstone g.stack g.base g.size = false → g.base + g.size ≤ 2 ^ 40 →
        Runs (.grantZeroed h f) s fun t => Answers h w.req 0 [] s t ∧ t.grants = s.grants ++ [g] ∧ t.zeroing = s.zeroing.erase g ∧
          ∀ z ∈ s.foreignHeld g, ∀ a, z.1 ≤ a → a < z.1 + z.2 → byteOf t g.stack a = 0) ∧
      ((s.atFclk f).waitOver h w = true → max s.clk.fclk f ≤ w.since + 120000000 → ∀ x result payload,
        serveAny h w.req (s.atFclk f) = .answer x result payload → Runs (.adminWaitSatisfied h f) s (Answers h w.req result payload x)) ∧
      ((s.atFclk f).mayTimeOut h w.req = true → w.since + 120000000 ≤ max s.clk.fclk f → Runs (.adminBusyTimeout h f) s fun t =>
        Answers h w.req 2 [] s t ∧ t.grants = s.grants ∧ t.rings = s.rings ∧ t.keysets = s.keysets ∧ t.sched = s.sched))

/-- The requests of a session: HELLO opens, resumes or restarts it or is refused by version, and waits while no token can be drawn through
KEYS; KEEPALIVE and LEASE_SET renew the lease, TIME_HINT sets the date, GOODBYE ends it (R292, R294, R297 to R299, R301, R325). That GOODBYE,
and a HELLO over an active session, are answered at once with every ring DISABLED while the flush goes on is the model's choice (log entry
39). -/
def Obligations.SessionRequests : Prop :=
  ∀ (h : HF) (f : Nat) (q : List Byte) (s : State),
    let now := max s.clk.fclk f
    let opened (t : State) : Prop := (t.host h).session = .active ∧ (t.host h).lease = hLease q ∧
      (t.host h).deadline = now + hLease q * 1200000 ∧ (t.host h).avec = some (hAvec q) ∧ (t.host h).frozenAt = none ∧ (t.host h).freezing = false
    (Takes s h f 0x01 q → helloOk q = true → s.versionOk q = true → s.tokenReady = true → ((s.host h).session = .none ∨ (s.host h).session = .refused) →
      Runs (.hello h f) s fun t => opened t ∧ Answers h q 0 (helloPayload s h q false (rqXf q) (t.host h).epoch) s t ∧ t.rings = s.rings) ∧
    (Takes s h f 0x01 q → helloOk q = true → s.versionOk q = true → s.tokenReady = true → s.inGrace h now = true → rqXf q = true → hEpoch q = (s.host h).epoch →
      Runs (.hello h f) s fun t => opened t ∧ Answers h q 0 (helloPayload s h q true false (t.host h).epoch) s t ∧
        ∀ r, s.ringOwner r = h → (s.ring r).st = .frozen → (t.ring r).st = .enabled ∧ (t.ring r).pend = ((s.ring r).fetch != (s.ring r).pi)) ∧
    (Takes s h f 0x01 q → helloOk q = true → s.versionOk q = true → s.tokenReady = true → (s.host h).session = .frozen → (rqXf q = false ∨ s.inGrace h now = false) →
      Runs (.hello h f) s fun t => opened t ∧ Answers h q 0 (helloPayload s h q false true (t.host h).epoch) s t ∧ Wiped h t) ∧
    (Takes s h f 0x01 q → helloOk q = true → s.versionOk q = true → s.tokenReady = true → (s.host h).session = .active →
      Runs (.hello h f) s fun t => opened t ∧ Answers h q 0 (helloPayload s h q false true (t.host h).epoch) s t ∧ Wiped h t) ∧
    (Takes s h f 0x01 q → helloOk q = true → s.versionOk q = true → s.tokenReady = false →
      ((s.host h).session ≠ .frozen ∨ rqXf q = false) → Runs (.hello h f) s fun t =>
        Waits h q (s.atFclk f) t ∧ (t.host h).session = (s.host h).session ∧ (t.host h).epoch = (s.host h).epoch ∧ t.rings = s.rings) ∧
    (Takes s h f 0x01 q → helloOk q = true → s.versionOk q = false → Runs (.hello h f) s fun t =>
      Answers h q 1 (natLe s.fmaj 1 ++ natLe s.fmin 1) s t ∧
      (t.host h).session = (if (s.host h).session = .none then .refused else (s.host h).session)) ∧
    ((s.host h).session = .active →
      (Takes s h f 0x02 q → headerOk q false = true → payloadOk q [] = true → Runs (.keepalive h f) s fun t =>
        Answers h q 0 [] s t ∧ (t.host h).deadline = now + (s.host h).lease * 1200000 ∧
        t = { s with mem := t.mem, poison := t.poison, hosts := t.hosts, clk := { s.clk with fclk := now }, fw := { s.fw with adminLast := h.val } }) ∧
      (Takes s h f 0x03 q → headerOk q false = true → payloadOk q [] = true → Runs (.goodbye h f) s fun t =>
        Answers h q 0 [] s t ∧ (t.host h).session = .none ∧ Wiped h t) ∧
      (Takes s h f 0x04 q → headerOk q false = true → payloadOk q [(8, 8)] = true → Runs (.timeHint h f) s fun t =>
        Answers h q 0 [] s t ∧ t.log.hint = some (field q 8 8, now)) ∧
      (Takes s h f 0x05 q → headerOk q false = true → payloadOk q [(8, 2)] = true → 1 ≤ field q 8 2 → field q 8 2 ≤ 1000 →
        Runs (.leaseSet h f) s fun t =>
        Answers h q 0 [] s t ∧ (t.host h).lease = field q 8 2 ∧ (t.host h).deadline = now + field q 8 2 * 1200000 ∧
        t = { s with mem := t.mem, poison := t.poison, hosts := t.hosts, clk := { s.clk with fclk := now }, fw := { s.fw with adminLast := h.val } }))

/-- A lease check freezes every host function with an active session whose deadline has passed, its ENABLED rings entering
FROZEN, and no other; the end of grace answers and discards what waits before the first HELLO, wipes a host function and ends its
session (R276, R299, R300). That a deadline equal to the count of the check has passed, and which requests the end of grace takes when a
HELLO is among them, are the model's choices (log entries 39 and 95). -/
def Obligations.LeaseFreezesAndGraceWipes : Prop :=
  ∀ (f : Nat) (s : State), s.adminRuns = true →
    (Runs (.leaseCheck f) s fun t => ∀ h,
      let due : Prop := (s.host h).session = .active ∧ (s.host h).deadline ≤ max s.clk.fclk f
      (due → (t.host h).session = .frozen ∧ (t.host h).frozenAt = some (max s.clk.fclk f) ∧ (t.host h).freezing = true ∧
        ∀ r, s.ringOwner r = h → (s.ring r).st = .enabled → (t.ring r).st = .frozen) ∧
      (¬ due → t.host h = s.host h ∧ ∀ r, s.ringOwner r = h → t.ring r = s.ring r)) ∧
    (∀ h, s.graceOver h (max s.clk.fclk f) = true →
      let before := (s.untakenRequests h).takeWhile fun q => rqType q != 0x01
      Runs (.graceEnd h f) s fun t => (t.host h).session = .none ∧ (t.host h).lease = 0 ∧
        (t.host h).taken = (s.host h).taken + before.length ∧ (t.host h).api = (s.host h).api ∧
        (t.host h).rspOut = (t.host h).rspIn ∧
        (t.host h).rspIn = (s.host h).rspIn + before.length + (if (s.host h).cur = none then 0 else 1) ∧ (t.host h).cur = none ∧ Wiped h t)

/-- The requests on rings, counters and chains of an active session (R45, R247 to R250, R277, R294). That RING_DISABLE with FLUSH is
answered OK with the ring DISABLED at once, while the flush goes on, is the model's choice (log entry 39). -/
def Obligations.RingAndChainRequests : Prop :=
  ∀ (h : HF) (f : Nat) (q : List Byte) (s : State), (s.host h).session = .active →
    let r := rqRing q
    let ok (xf : Bool) (used : List (Nat × Nat)) : Prop := headerOk q xf = true ∧ payloadOk q used = true
    let done (payload : List Byte) (t : State) : Prop := Answers h q 0 payload s t ∧ (t.host h).taken = (s.host h).taken + 1
    (Takes s h f 0x10 q → ok false [(8, 2), (32, 32)] → s.ringOwner r = h → s.isFallback r = false → (s.ring r).st = .disabled →
      s.entryOk h (parseRingEntry ((q.drop 32).take 32)) = true → Runs (.ringSetup h f) s fun t =>
        done [] t ∧ t.readBytes 0 (ringTableAddr r) 32 = (q.drop 32).take 32 ∧ t.rings = s.rings) ∧
    (Takes s h f 0x11 q → ok false [(8, 2), (12, 4)] → s.ringOwner r = h → (s.ring r).st = .disabled → leNat (s.tableEntryOf r) ≠ 0 →
      s.drained r = true → (s.ring r).flushing = false → Runs (.ringEnable h f) s fun t =>
        done [] t ∧ (∀ x, x ≠ r → t.ring x = s.ring x) ∧
        let start := BitVec.ofNat 32 (field q 12 4)
        t.ring r = { st := .enabled, cause := 0, pi := start, doneI := start, fetch := start, pend := false, unsig := 0, oldest := none, image := s.tableEntryOf r, waitSince := none }) ∧
    (Takes s h f 0x12 q → ok true [(8, 2)] → s.ringOwner r = h → (s.ring r).st ≠ .disabled →
      (rqXf q = true ∨ s.disableReady r = true) → Runs (.ringDisable h f) s fun t =>
        done [] t ∧ (t.ring r).st = .disabled ∧ (rqXf q = false → (t.ring r).pend = false) ∧
        (rqXf q = true → (s.ring r).stopped = false → (t.ring r).flushing = ((s.ring r).doneI != (s.ring r).pi) ∧
          ∀ d ∈ t.slotsOf r, d.phase.begun = false → d.status = stFlushed)) ∧
    (Takes s h f 0x13 q → ok false [(8, 2)] → s.ringOwner r = h → Runs (.ringQuery h f) s fun t =>
      done (ringInfo (s.ring r)) t ∧ t.rings = s.rings) ∧
    (Takes s h f 0x14 q → ok false [(8, 2)] → byteAt q 8 + byteAt q 9 ≤ 255 → Runs (.syncReset h f) s fun t =>
      done [] t ∧ (∀ (g : HF) (k : Nat), k < 256 → t.syncCounter g k =
        if g = h ∧ byteAt q 8 ≤ k ∧ k ≤ byteAt q 8 + byteAt q 9 then 0 else s.syncCounter g k)) ∧
    (Takes s h f 0x20 q → ok true [(8, 1), (16, 8)] → bits (field q 16 8) 45 19 = 0 → s.mayLoad h (byteAt q 8) (rqXf q) = true →
      s.chainImageOk h (bits (field q 16 8) 40 5) (bits (field q 16 8) 0 40) = true → s.chainInUse (byteAt q 8) = false →
      let image := s.chainImage (bits (field q 16 8) 40 5) (bits (field q 16 8) 0 40)
      let kept := setBytes (setBytes image 3 (natLe (if rqXf q then 0xFF else h.val) 1)) 8 [1]
      Runs (.chainLoad h f) s fun t => done [] t ∧ t.readBytes 0 (chainAddr (byteAt q 8)) kept.length = kept ∧
        t.readBytes 12 (chainAddr (byteAt q 8)) kept.length = kept) ∧
    (Takes s h f 0x21 q → ok false [(8, 1)] → s.mayUnload h (byteAt q 8) = true → s.chainInUse (byteAt q 8) = false →
      Runs (.chainUnload h f) s fun t => done [] t ∧ byteOf t 0 (chainAddr (byteAt q 8) + 8) = 0 ∧ byteOf t 12 (chainAddr (byteAt q 8) + 8) = 0)

/-- Key sets, and the two requests that fill an admin buffer: every byte of the buffer reads at its translated address as the
view of the log or the telemetry page has it (R294, R296, R302, R349). -/
def Obligations.KeysetAndBufferRequests : Prop :=
  ∀ (h : HF) (f : Nat) (q : List Byte) (s : State), (s.host h).session = .active →
    let id : W32 := BitVec.ofNat 32 (field q 8 4)
    let chain : W16 := BitVec.ofNat 16 (field q 12 2)
    let a := field q 24 8
    let done (payload : List Byte) (t : State) : Prop := Answers h q 0 payload s t ∧ (t.host h).taken = (s.host h).taken + 1
    let fits (n : Nat) : Prop := (∀ i, i < n → ∃ e, s.translation h (s.host h).pasid ((a + i) / 4096 * 4096) = some e ∧ e.write = true ∧ e.iova ≤ (a + i) / 4096 * 4096) ∧
      ∀ i j, i < n → j < n → bufferAddr s h (a + i) = bufferAddr s h (a + j) → i = j
    let filled (bs : List Byte) (t : State) : Prop := ∀ i p, i < bs.length → bufferAddr s h (a + i) = some p → byteOf t 24 p = bs.getD i 0
    (Takes s h f 0x22 q → headerOk q false = true → payloadOk q [(8, 6)] = true → field q 12 2 ≤ 255 →
      (s.keyset id = none → s.keysets.length < 4096 → Runs (.keysetRegister h f) s fun t =>
        done [] t ∧ t.keysets = s.keysets ++ [(id, chain, h)]) ∧
      (∀ k, s.keyset id = some k → k.2.2 = h → Runs (.keysetRegister h f) s fun t => done [] t ∧ t.keyset id = some (id, chain, h)) ∧
      (∀ k, s.keyset id = some k → k.2.2 ≠ h → Runs (.keysetRegister h f) s fun t => Answers h q 3 [] s t ∧ t.keysets = s.keysets)) ∧
    (Takes s h f 0x23 q → headerOk q false = true → payloadOk q [(8, 4)] = true → ∀ k, s.keyset id = some k → k.2.2 = h →
      Runs (.keysetRelease h f) s fun t => done [] t ∧ t.keyset id = none ∧ ∀ j, j ≠ id → t.keyset j = s.keyset j) ∧
    (Takes s h f 0x30 q → headerOk q false = true → payloadOk q [(8, 4), (16, 2), (24, 8)] = true → 1 ≤ field q 16 2 → field q 16 2 ≤ 4096 →
      let es := s.logView h (Nat.max (field q 8 4) s.log.oldest) logEntries (field q 16 2)
      let next := if es.length = field q 16 2 then (es.getLast?.map (·.1 + 1)).getD s.log.seq else s.log.seq
      let bs := es.flatMap (·.2)
      fits bs.length → Runs (.logRead h f) s fun t =>
        done (natLe es.length 2 ++ [0, 0] ++ natLe next 4 ++ natLe (s.logLost h (field q 8 4)) 4) t ∧ filled bs t) ∧
    (Takes s h f 0x31 q → headerOk q false = true → payloadOk q [(8, 1), (24, 8)] = true → byteAt q 8 ≤ 1 →
      let bs := s.telemetryPage h (byteAt q 8)
      fits bs.length → Runs (.telemetryRead h f) s fun t => done [] t ∧ filled bs t)

/-- The manager's requests: a grant takes effect, at once or after the zeroing of what other host functions held; the others set
what they name and are answered (R229, R247, R284, R288, R294, R295, R300). -/
def Obligations.ManagerRequests : Prop :=
  ∀ (h : HF) (f : Nat) (q : List Byte) (s : State), (s.host h).session = .active → s.ctl.manager = some h →
    let g := rqHost q
    let ok (used : List (Nat × Nat)) : Prop := headerOk q false = true ∧ payloadOk q used = true ∧ byteAt q 8 < 16
    let done (payload : List Byte) (t : State) : Prop := Answers h q 0 payload s t ∧ (t.host h).taken = (s.host h).taken + 1
    (Takes s h f 0x40 q → ok [(8, 2), (16, 16)] → byteAt q 9 < s.nslices → s.grantOk (grantOf q) = true → s.grantsFull (grantOf q) = false →
      (s.foreignHeld (grantOf q) = [] → Runs (.grantSet h f) s fun t => done [] t ∧ t.grants = s.grants ++ [grantOf q] ∧ grantOf q ∈ t.heldBy) ∧
      (s.foreignHeld (grantOf q) ≠ [] → Runs (.grantSet h f) s fun t =>
        Waits h q (s.atFclk f) t ∧ t.zeroing = s.zeroing ++ [grantOf q] ∧ t.grants = s.grants)) ∧
    (Takes s h f 0x41 q → ok [(8, 2), (16, 8)] → byteAt q 9 < s.nslices → s.hasWork g = false →
      ∀ x, s.grants.find? (fun x => x.hf == g && x.stack == byteAt q 9 && x.base == field q 16 8) = some x →
      Runs (.grantClear h f) s fun t => done [] t ∧ t.grants = s.grants.erase x) ∧
    (Takes s h f 0x42 q → headerOk q false = true → payloadOk q [(8, 2)] = true → byteAt q 9 < 16 → s.blockIdle (byteAt q 8) = true →
      Runs (.blockMove h f) s fun t => done [] t ∧
        ∀ r : RingId, t.ringOwner r = if r.val / 256 = byteAt q 8 then Fin.ofNat 16 (byteAt q 9) else s.ringOwner r) ∧
    (Takes s h f 0x43 q → ok [(8, 4)] → 1 ≤ byteAt q 9 → byteAt q 10 ≤ 16 → 1 ≤ byteAt q 11 → byteAt q 11 ≤ 192 →
      s.minctxSum g (byteAt q 10) ≤ 64 → byteAt q 10 ≤ byteAt q 11 → Runs (.schedSet h f) s fun t =>
        done [] t ∧ (t.host g).wt = byteAt q 9 ∧ (t.host g).minctx = byteAt q 10 ∧ (t.host g).maxctx = byteAt q 11) ∧
    (Takes s h f 0x44 q → headerOk q false = true → payloadOk q [(8, 5)] = true → sharesOk (byteAt q 11) = true → sharesOk (byteAt q 12) = true →
      (∀ n ∈ resvStacks q, n < s.nslices) → s.ctl.stage = .banked → s.resvFree q = true → Runs (.sealedResv h f) s fun t =>
        done [] t ∧ t.sched.hresv = (if byteAt q 12 = 0xFF then s.sched.hresv else byteAt q 12) ∧
        ∀ n, tget t.sched.resv n 0 = if n ∈ resvStacks q ∧ byteAt q 11 ≠ 0xFF
          then (if (tget s.slices n {}).fenced then min (byteAt q 11) 1 else byteAt q 11) else tget s.sched.resv n 0) ∧
    (Takes s h f 0x45 q → ok [(8, 1), (12, 4)] → 1000 ≤ field q 12 4 → field q 12 4 ≤ 3600000 → Runs (.graceSet h f) s fun t =>
      done [] t ∧ (t.host g).grace = field q 12 4) ∧
    (Takes s h f 0x46 q → ok [(8, 1)] → Runs (.hostQuery h f) s fun t => done (s.hostInfo g) t)

/-- Tests of 14: an in-service test drains its slice, fences and wipes it, and returns it or fences it hard with cause 6;
calibration walks the sensors; the offline self-test holds dispatch, wipes the memories once nothing runs, reads the aging monitors and
fences what failed (R243, R342 to R344). That it holds dispatch of its own, beside HOLD of PTU_GCTL, which it leaves as it is, is the
model's choice (log 41). -/
def Obligations.TestsRunTheirSteps : Prop :=
  (∀ (h : HF) (f : Nat) (q : List Byte) (s : State), (s.host h).session = .active → s.ctl.stage = .banked → s.testersRun = true →
    Takes s h f 0x38 q → testReqOk q s = true →
    (byteAt q 8 = 1 → s.testRefused (byteAt q 9) = false → Runs (.inServiceTest h f) s fun t =>
      Waits h q (s.atFclk f) t ∧ (tget t.slices (byteAt q 9) {}).drain = true ∧ t.ctl.ist = some (Fin.ofNat 24 (byteAt q 9), h, false)) ∧
    (byteAt q 8 = 2 → s.ctl.cal = none → Runs (.calibration h f) s fun t =>
      Waits h q (s.atFclk f) t ∧ t.ctl.cal = some h ∧ (t.sensor 0).cal = true) ∧
    (byteAt q 8 = 3 → s.ctl.manager = some h → s.ctl.ist = none → s.ctl.ost = none →
      (∀ g, (taken s h f).idleOrFrozen g = true) → Runs (.offlineSelfTest h f) s fun t =>
      Waits h q (s.atFclk f) t ∧ t.ctl.ost = some h ∧ t.held = true ∧
      ((s.allSlots.any fun e => e.2.phase.begun) = false → s.ctl.ostRun = false → t.ctl.ostRun = true ∧
        ∀ n, (t.slice n).fenced = false → SliceEmpty (t.slice n)))) ∧
  (∀ (n : SliceId) (h : HF) (f : Nat) (s : State), s.testersRun = true →
    (s.ctl.ist = some (n, h, false) → (s.slice n).drain = true → s.queueDrained n.val = true → (s.slice n).fenced = false →
      s.wouldOrphan n.val = false → Runs (.inServiceTestRun f) s fun t =>
        t.ctl.ist = some (n, h, true) ∧ (t.slice n).fenced = true ∧ (t.slice n).testing = true ∧ (t.slice n).pools = [] ∧
        (t.slice n).tu = {} ∧ (t.slice n).pstore = [] ∧ ∀ m : SliceId, m ≠ n → (t.slice m).fenced = (s.slice m).fenced) ∧
    (∀ failed : BitVec 3, s.ctl.ist = some (n, h, true) → (s.slice n).fenced = true → (s.slice n).testing = true → (s.slice n).cause = 0 →
      Runs (.inServiceTestEnd failed f) s fun t => t.ctl.ist = none ∧ (t.slice n).drain = false ∧ (t.slice n).testing = false ∧
        (failed = 0 → (t.slice n).fenced = false) ∧ (failed ≠ 0 → (t.slice n).fenced = true ∧ (t.slice n).cause = 6))) ∧
  (∀ (t0 : Fin 28) (pass : Bool) (reading : Int) (h : HF) (s : State), s.ctl.cal = some h → (s.sensor t0.val).cal = true → s.testersRun = true →
    Runs (.sensorCalibrationEnd t0 pass reading) s fun t =>
      (t.sensor t0.val).temp = reading ∧ (t.sensor t0.val).valid = true ∧ (t.sensor t0.val).cal = false ∧
      (pass = false → (t.sensor t0.val).subst = true) ∧
      (∀ k, s.sensors.find? (fun k => decide (t0.val < k)) = some k → (t.sensor k).cal = true ∧ t.ctl.cal = some h) ∧
      (s.sensors.find? (fun k => decide (t0.val < k)) = none → t.ctl.cal = none)) ∧
  (∀ (rick kiln retort : BitVec 24) (planes : BitVec 4) (ember : Bool) (counts : List W16) (f : Nat) (h : HF) (s : State),
    s.ctl.ost = some h → s.testersRun = true →
    (s.ctl.ostRun = false → Runs (.offlineSelfTestEnd rick kiln retort planes ⟨ember, counts⟩ f) s fun t => t = atF s f) ∧
    (s.ctl.ostRun = true → Runs (.offlineSelfTestEnd rick kiln retort planes ⟨ember, counts⟩ f) s fun t =>
      t.ctl.ost = none ∧ t.ctl.hold = s.ctl.hold ∧
      (∀ n : SliceId, n.val < s.nslices → (t.slice n).ageLatest = counts.getD n.val 0 ∧
        (t.slice n).ageMax.toNat = max (s.slice n).ageMax.toNat (counts.getD n.val 0).toNat) ∧
      (∀ n : SliceId, n.val < s.nslices → (rick ||| kiln ||| retort).getLsbD n.val = true → (t.slice n).fenced = true) ∧
      t.flue.fenced = s.flue.fenced ||| planes ∧ (ember = true → t.emb.healthOk = false ∧ t.emb.keysOk = false)))

/-! ### Faults -/

/-- An uncorrectable word is found where Table 14-1 says: in a slice it raises UECNT and sets HSn_UE, on a plane it raises
UNCORR; the work that runs on it is aborted for replay, with the unit when it is the second within the window of Table 14-2;
a unit on which nothing runs is fenced at once, or as soon as HEALTH runs again; a SIGNAL only repeats its write. The other places
recover as their rows say: a pinned translation stays pinned while it is requested again (R37); work that a fence has aborted meets no
further fault; and an uncorrectable word at any place that the part has ends with the machine going on (R329, R334, R336, R346). That a
lost entry whose descriptor's run is complete, or whose record only waits in the collector, is run again too is the model's reading (log
93). -/
def Obligations.UncorrectableWords : Prop :=
  ∀ (pl : Place) (r : RingId) (p : W32) (f : Nat) (s : State),
    let now := max s.clk.fclk f
    -- the units of a slice
    (∀ n w cause, sliceWord pl = some (n, w, cause) → n.val < s.nslices →
      (RunsIn s r p → Runs (.uncorrectableWord pl r p f) s fun t =>
        (t.slice n).uecnt = min ((s.slice n).uecnt + 1) 255 ∧ (t.slice n).ue = w ∧ (t.slice n).fenced = (s.slice n).fenced ∧
        Aborted r p cause (if secondWord s now pl then some n.val else none) t) ∧
      (RunsNot s r p → s.fenceAborted r p = false → secondWord s now pl = true → Runs (.uncorrectableWord pl r p f) s fun t =>
        (t.slice n).uecnt = min ((s.slice n).uecnt + 1) 255 ∧ (t.slice n).ue = w ∧
        (s.compRuns .health = true → (t.slice n).fenced = true) ∧
        (s.compRuns .health = false → t.hl.due = s.hl.due ++ [(n.val, 1)] ∧ (t.slice n).fenced = (s.slice n).fenced)) ∧
      (RunsNot s r p → s.fenceAborted r p = false → secondWord s now pl = false → Runs (.uncorrectableWord pl r p f) s fun t =>
        (t.slice n).uecnt = min ((s.slice n).uecnt + 1) 255 ∧ (t.slice n).ue = w ∧ (t.slice n).fenced = (s.slice n).fenced ∧
        (∀ m : SliceId, m ≠ n → t.slice m = s.slice m) ∧
        t = { atF s f with slices := t.slices, ctxs := t.ctxs, hl := t.hl, led := t.led })) ∧
    -- the Flue and the paths to memory
    (∀ q, pl = .flit q → s.fenceAborted r p = false → Runs (.uncorrectableWord pl r p f) s fun t =>
      tget t.flue.err (4 * q.val + 1) 0 = min (tget s.flue.err (4 * q.val + 1) 0 + 1) 65535 ∧
      (RunsIn s r p → Aborted r p 1 (if s.repeated 5 q.val now then some (0x20 + q.val) else none) t) ∧
      (RunsNot s r p → s.repeated 5 q.val now = true → s.compRuns .health = true → t.flue.fenced.getLsbD q.val = true)) ∧
    ((pl = .hostPath ∨ ∃ n : SliceId, pl = .bypass n ∧ n.val < s.nslices) → s.fenceAborted r p = false →
      Runs (.uncorrectableWord pl r p f) s fun t =>
      (RunsIn s r p → Aborted r p 1 none t) ∧ (∀ n, (t.slice n).fenced = (s.slice n).fenced) ∧
      (RunsNot s r p → t = { atF s f with led := t.led })) ∧
    -- Stoke
    (pl = .stokeEntry → ∀ q d, s.quarterOf r = some q → s.slotOf r p = some d → d.rerunnable = true →
      Runs (.uncorrectableWord pl r p f) s (Aborted r p 1 (if s.repeated 6 q now then some (0x30 + q) else none))) ∧
    (∀ w, pl = .pendingVector w → Runs (.uncorrectableWord pl r p f) s fun t =>
      (∀ x : RingId, t.ring x = if x.val / 64 = w.val then { s.ring x with pend := true } else s.ring x) ∧
      t = { atF s f with rings := t.rings }) ∧
    (∀ h k, pl = .syncCounter h k → Runs (.uncorrectableWord pl r p f) s fun t => t = atF s f) ∧
    (∀ i e, pl = .xlateCache i → s.xl.cache[i]? = some e → Runs (.uncorrectableWord pl r p f) s fun t =>
      t.xl.cache = (if e.pins = [] then s.xl.cache.eraseIdx i else s.xl.cache.set i { e with lost := true }) ∧
      ((⟨e.hf, e.pasid, e.iova⟩ : XReq) ∈ t.xl.reqs ∨ (⟨e.hf, e.pasid, e.iova⟩ : XReq) ∈ t.xl.waiting) ∧
      t = { atF s f with xl := t.xl, hosts := t.hosts, out := t.out }) ∧
    -- the Bellows, and the write of a SIGNAL
    (∀ c, pl = .bellowsSram c → s.compRuns c = true → c ≠ .kernel → c ≠ .boot → Runs (.uncorrectableWord pl r p f) s fun t =>
      (t.component c).st ≠ .running ∧ (t.component c).cause = 3) ∧
    (∀ d, pl = .signalWrite → s.slotOf r p = some d → d.isSignal = true → d.running = true → sigWr d.bytes = true →
      sigLoc d.bytes ≠ 0xFF → Runs (.uncorrectableWord pl r p f) s fun t =>
      (d.races = [] → d.sigStale = false → t.readBytes (sigLoc d.bytes) (sigAddr d.bytes) 8 = natLe (dValue d.bytes).toNat 8) ∧
      t = { atF s f with mem := t.mem, poison := t.poison, ports := t.ports, ctxs := t.ctxs }) ∧
    -- work that a fence has aborted meets no further fault; and at every place of the part the machine goes on
    (placeOfDescriptor pl = true → s.fenceAborted r p = true → (∀ n, placeSlice pl = some n → n.val < s.nslices) →
      Runs (.uncorrectableWord pl r p f) s fun t => t = atF s f) ∧
    ((∀ n, placeSlice pl = some n → n.val < s.nslices) → Runs (.uncorrectableWord pl r p f) s fun t =>
      t.clk.fclk = now ∧ t.sync = s.sync ∧ t.grants = s.grants ∧ t.keysets = s.keysets ∧ t.part = s.part)

/-- The other detection points of Table 14-1: a residue mismatch, 64 cycles without credit, a pass that has not ended, 65536
cycles without progress, a quarter that does not fetch, a request that is overdue; no cycle of pclk is counted while it stands (R87,
R146, R330, R331, R336, R377). -/
def Obligations.OtherDetectionPoints : Prop :=
  ∀ (n : SliceId) (f : Nat) (s : State), n.val < s.nslices →
    let now := max s.clk.fclk f
    (∀ r p, RunsIn s r p → Runs (.residueMismatch n r p f) s fun t =>
      (t.slice n).resid = min ((s.slice n).resid + 1) 255 ∧ Aborted r p 2 (if s.repeated 3 n.val now then some n.val else none) t) ∧
    (∀ (pl : PlaneId) (cycles : Nat) (r : RingId) (p : W32),
      (s.pclkRuns = true → 64 ≤ cycles → RunsIn s r p → Runs (.creditStarvation pl n cycles r p f) s fun t =>
        tget t.flue.err (4 * pl.val) 0 = min (tget s.flue.err (4 * pl.val) 0 + 1) 65535 ∧
        t.flue.starved = tcount s.flue.starved (4 * n.val + pl.val) 64 1 ∧
        Aborted r p 5 (if s.repeated 5 pl.val now then some (0x20 + pl.val) else none) t) ∧
      (s.pclkRuns = true → cycles < 64 → Runs (.creditStarvation pl n cycles r p f) s fun t => t = atF s f) ∧
      (s.pclkRuns = false → exec (.creditStarvation pl n cycles r p f) s = .next s)) ∧
    (∀ (dst : PoolId) (c : Nat) (x : Pass), s.pclkRuns = true → (s.slice n).latePass dst.val c = some x →
      (∀ u, x.user = some u → RunsIn s u.1 u.2 → Runs (.passEndWatchdog n dst c f) s (Aborted u.1 u.2 4 (some n.val))) ∧
      (x.user = none → s.compRuns .health = true → Runs (.passEndWatchdog n dst c f) s fun t => (t.slice n).fenced = true)) ∧
    (∀ cycles : Nat, s.pclkRuns = true → 65536 ≤ cycles → s.idleWith n.val = true →
      (∀ x ∈ s.runningOn n.val, s.slotOf x.1 x.2.idx = some x.2 ∧ x.2.isSignal = false) → Runs (.progressWatchdog n cycles f) s fun t =>
        ∀ x ∈ s.runningOn n.val, Aborted x.1 x.2.idx 4 (some n.val) t) ∧
    (∀ q : QuarterId, s.pclkRuns = true → s.compRuns .health = true → Runs (.quarterFetchWatchdog q f) s fun t =>
      t.hl.qfenced.getLsbD q.val = true) ∧
    (∀ (port : PortId) (m : Nat) (tag : Fin 512) (wr : Bool) (c : Nat) (q : Req), s.pclkRuns = true →
      (s.ports.reqs.find? fun x => x.port == port && x.master == m && x.tag == some tag && x.wr == wr) = some q →
      (q.issued + 2400000 ≤ c → q.overdue = false → Runs (.requestOverdue port m tag wr c) s fun t =>
        t.ports.reqs = s.ports.reqs.map (fun x => if x = q then { x with overdue := true } else x) ∧
        t.hl.tele = tcount s.hl.tele 13 64 1 ∧
        t.log.seq = s.log.seq + (if s.compRuns .log = true ∧ ∀ x ∈ s.ports.reqs, x.port = q.port → x.overdue = false then 1 else 0)) ∧
      (c < q.issued + 2400000 ∨ q.overdue = true → Runs (.requestOverdue port m tag wr c) s fun t =>
        t = { s with clk := { s.clk with pclk := max s.clk.pclk c } }))

/-- HEALTH decides on aborted work and fences a hard-faulted unit first; a replay starts again every member that is decided, a
Sealed one and a FLOOD with their start unchanged, and counts it (R240, R332 to R335, R347). -/
def Obligations.ReplaysStartAgain : Prop :=
  ∀ (r : RingId) (p : W32) (d : Slot) (s : State), s.slotOf r p = some d →
    (∀ f, d.phase = .aborted → s.compRuns .health = true →
      (d.unit = none → Runs (.replayDecision r p f) s fun t =>
        ((t.slotOf r p).map fun e => e.phase) = some .decided ∧ t = { atF s f with ctxs := t.ctxs }) ∧
      (∀ n : SliceId, d.unit = some n.val → Runs (.replayDecision r p f) s fun t =>
        ((t.slotOf r p).map fun e => e.phase) = some .decided ∧ (t.slice n).fenced = true)) ∧
    (∀ c, s.pclkRuns = true → d.phase = .decided → (∀ e ∈ s.unit r d, e.phase ≠ .aborted) → 1 ≤ d.cause →
      let now := s.atPclk c
      now.roomFor r (now.replaySet r d) = true → (∀ e ∈ now.replaySet r d, now.replayOk r e = true) → ((s.slotsOf r).map fun e => e.idx).Nodup →
      Runs (.replay r p c) s fun t =>
        (∀ e ∈ now.replaySet r d, ∀ x ∈ t.slotsOf r, x.idx = e.idx → x.bytes = e.bytes ∧
          (e.status = 0 → x.phase = .started ∧ x.start = (if dSealed e.bytes ∨ e.opc = .flood then e.start else max s.clk.pclk c)) ∧
          (e.status ≠ 0 → x.phase = .ran)) ∧
        tget (t.host (s.ringHost r)).tele 1 0 = min (tget (s.host (s.ringHost r)).tele 1 0 + 1) (2 ^ 64 - 1) ∧
        (∀ g, g ≠ s.ringHost r → t.host g = s.host g))

/-- Fences that firmware asks for: FREQ fences a slice hard, and makes the fence of a test a hard one; TFENCE fences for a test unless a
stack would be orphaned; TRET returns such a slice, and is ignored for any other; what is carried out clears REFUSED. Planes and quarters
are fenced by their masks; a write that is not permitted is discarded, and is a fault of a component that writes outside its windows. A
fence leaves the slice empty and raises event 1 (R279, R337 to R340, R362). -/
def Obligations.FirmwareFences : Prop :=
  ∀ (who : Who) (n : SliceId) (s : State),
    (s.fenceWrites who n.val = true →
      (∀ cause, (s.slice n).fenced = false → Runs (.freq who n cause) s fun t =>
        (t.slice n).fenced = true ∧ (t.slice n).testing = false ∧ (t.slice n).cause = cause ∧ (t.slice n).refused = false ∧
        SliceEmpty (t.slice n) ∧ AllEvents 1 t ∧
        (s.ctl.ist = none → ∀ m : SliceId, m ≠ n → (t.slice m).fenced = (s.slice m).fenced)) ∧
      (∀ cause, (s.slice n).fenced = true → (s.slice n).testing = true → Runs (.freq who n cause) s fun t =>
        t.slice n = { s.slice n with testing := false, cause := cause, refused := false } ∧
        (∀ m : SliceId, m ≠ n → t.slice m = s.slice m) ∧ t.ctxs = s.ctxs ∧ t.hosts = s.hosts) ∧
      (∀ cause, (s.slice n).fenced = true → (s.slice n).testing = false → exec (.freq who n cause) s = .next s) ∧
      ((s.slice n).fenced = false → s.wouldOrphan n.val = false → Runs (.tfence who n) s fun t =>
        (t.slice n).fenced = true ∧ (t.slice n).testing = true ∧ (t.slice n).cause = 0 ∧ (t.slice n).refused = false ∧ SliceEmpty (t.slice n) ∧ AllEvents 1 t ∧
        ∀ m : SliceId, m ≠ n → (t.slice m).fenced = (s.slice m).fenced) ∧
      ((s.slice n).fenced = false → s.wouldOrphan n.val = true → Runs (.tfence who n) s fun t =>
        t.slice n = { s.slice n with refused := true } ∧ OnlySlice n.val s t) ∧
      ((s.slice n).fenced = true → exec (.tfence who n) s = .next s) ∧
      ((s.slice n).testing = true → (s.slice n).cause = 0 → Runs (.tret who n) s fun t =>
        (t.slice n).fenced = false ∧ (t.slice n).testing = false ∧ (t.slice n).refused = false ∧ SliceEmpty (t.slice n) ∧
        (∀ m : SliceId, m ≠ n → t.slice m = s.slice m) ∧ t = { s with slices := t.slices, sched := t.sched }) ∧
      (((s.slice n).testing = false ∨ (s.slice n).cause ≠ 0) → exec (.tret who n) s = .next s)) ∧
    (s.fenceWrites who n.val = false → (∀ cause, Denied who (.slice n.val) s (exec (.freq who n cause) s)) ∧
      Denied who (.slice n.val) s (exec (.tfence who n) s) ∧ Denied who (.slice n.val) s (exec (.tret who n) s)) ∧
    (∀ (mask : BitVec 4) (cause : Nat),
      (s.writes who .flue = true → Runs (.flueFenceFreq who mask cause) s fun t => t.flue.fenced = s.flue.fenced ||| mask) ∧
      (s.writes who .flue = false → Denied who .flue s (exec (.flueFenceFreq who mask cause) s)) ∧
      (s.writes who .stoke = true → Runs (.qfreq who mask cause) s fun t => t.hl.qfenced = s.hl.qfenced ||| mask) ∧
      (s.writes who .stoke = false → Denied who .stoke s (exec (.qfreq who mask cause) s)))

/-! ### Fallback service, function-level reset -/

/-- FBCTL enables a fallback ring with the entry in FBENT, or sets ERR; a disable stops its fetching, and the ring is DISABLED
when it is empty; FBSTAT's read captures its upper word; the fallback scheduler starts one descriptor or fetches one. A
function-level reset freezes its host function, and its end resets the set-up page (R309 to R311, R359, R360, R371). -/
def Obligations.FallbackAndFunctionReset : Prop :=
  ∀ (h : HF) (s : State),
    let r := fbRing h
    (s.writes (.host h) (.host h) = true → s.fbWritable = true →
      (∀ start, (s.ring r).st = .disabled → s.fbImageOk h (parseRingEntry (s.host h).fbImage) = true →
        Runs (.fbctlEnable h h start) s fun t =>
          t.ring r = { st := .enabled, cause := 0, pi := start, doneI := start, fetch := start, pend := false, unsig := 0, oldest := none, image := (s.host h).fbImage, waitSince := none } ∧
          OnlyRing r s t) ∧
      (∀ start, ((s.ring r).st ≠ .disabled ∨ s.fbImageOk h (parseRingEntry (s.host h).fbImage) = false) →
        Runs (.fbctlEnable h h start) s fun t => t.host h = { s.host h with fbErr := true } ∧ OnlyHost h s t) ∧
      ((s.ring r).st = .disabled → exec (.fbctlDisable h h) s = .next s) ∧
      ((s.ring r).st ≠ .disabled → Runs (.fbctlDisable h h) s fun t =>
        (t.host h).fbStop = true ∧ (t.ring r).st = (s.ring r).st ∧ (∀ f ∈ t.fetches, f.r ≠ r) ∧
        (∀ d ∈ t.slotsOf r, d.idx ∈ s.keptIdx r) ∧ ∀ g, g ≠ h → t.host g = s.host g)) ∧
    (s.fbWritable = false → (∀ start, exec (.fbctlEnable h h start) s = .next s) ∧ exec (.fbctlDisable h h) s = .next s) ∧
    ((s.host h).fbStop = true → s.drained r = true → Runs (.fallbackDisabled h) s fun t =>
      (t.ring r).st = .disabled ∧ (t.ring r).pend = false ∧ (t.host h).fbStop = false ∧ t.ctxOf r = none ∧
      (s.ctl.fbAct = false → (t.host h).fbKeep = some ((s.ring r).pi, (s.ring r).doneI, (s.ring r).fetch)) ∧
      t = { s with ctxs := t.ctxs, rings := t.rings, hosts := t.hosts }) ∧
    (∀ who size, s.windowUp = true → s.mayRead who (.host h) = true → (size = 4 ∨ size = 8) → Runs (.fbstatRead who h size) s fun t =>
      t.host h = { s.host h with fbCapture := s.fbUpper h } ∧ OnlyHost h s t) ∧
    (∀ who size, (s.windowUp = false ∨ s.mayRead who (.host h) = false ∨ (size ≠ 4 ∧ size ≠ 8)) →
      DeniedRead who (.host h) s (exec (.fbstatRead who h size) s)) ∧
    (s.pclkRuns = true → s.ctl.fbAct = true → s.fbWritable = true → s.fbNext = some h →
      (∀ d, s.fbStartable r = some d → Runs .fallbackSchedule s fun t =>
        t.sched.fbLast = h.val ∧ ((t.slotOf r d.idx).map fun e => e.phase) = some .started ∧ t.fetches = s.fetches) ∧
      (s.fbStartable r = none → Runs .fallbackSchedule s fun t =>
        t.sched.fbLast = h.val ∧ t.fetches = s.fetches ++ [{ r := r, first := s.nextFetch r, n := 1 }] ∧ (t.ctxOf r).isSome = true)) ∧
    (∀ f, s.ctl.inReset = false → s.ctl.stage ≠ .reset → (s.host h).flrBusy = false → Runs (.flrHf h f) s fun t =>
      (t.host h).flrBusy = true ∧
      (s.ctl.stage = .banked → (t.host h).freezing = true ∧ ((s.host h).session = .active → (t.host h).session = .frozen) ∧
        ∀ x, s.ringOwner x = h → (s.ring x).st = .enabled → (t.ring x).st = .frozen)) ∧
    (s.flrReady h = true → Runs (.flrDone h) s fun t =>
      (t.host h).flrBusy = false ∧ (t.host h).gevt = 0 ∧ (t.host h).gevten = 0 ∧ (t.host h).gvec = 0 ∧ (t.host h).areq = [] ∧
      (t.host h).fbent = [] ∧ (t.host h).ovf = false ∧ (t.host h).rspOut = (t.host h).rspIn ∧ (t.host h).avec = none ∧
      (∀ v, ((t.host h).vec v).mask = true ∧ ((t.host h).vec v).pend = false) ∧ (∀ g, g ≠ h → t.host g = s.host g) ∧
      t.out = s.out ++ [.flrDone h] ∧ t = { s with hosts := t.hosts, out := t.out }) ∧
    (s.flrReady h = false → exec (.flrDone h) s = .next s)

/-! ### Registers -/

/-- GEVT clears the bits written 1 but for events that occur again; VCTL takes DATA, HOLDOFF and MASK, and a vector that is
unmasked while pending and due sends its message; GCTL's bits; a host function's own set-up registers, where OVF and ERR clear by a
written 1 and FBENT takes a write before BANKED alone; an access that Table 15-1 does not permit, of another size or at an unassigned
offset, is discarded, and is a fault of a component outside its windows (R7, R8, R279, R350 to R353, R356, R357, R359). An event that
occurs again as its bit is cleared is that of this page: the event itself is the rows' own, which set the other copies (log 56). -/
def Obligations.RegisterWrites : Prop :=
  ∀ (h : HF) (v : W64) (s : State),
    let at_ (off : Nat) : Nat := 0x10000 + 0x1000 * h.val + off
    (s.writes (.host h) (.host h) = true →
      (∀ again : BitVec 6, Runs (.gevtClear h h v again) s fun t =>
        (∀ i, i < 6 → (t.host h).gevt.getLsbD i = (again.getLsbD i || ((s.host h).gevt.getLsbD i && !v.getLsbD i))) ∧
        ((∃ i, i < 6 ∧ again.getLsbD i = true ∧ ((s.host h).gevt.getLsbD i && !v.getLsbD i) = false ∧ (s.host h).gevten.getLsbD i = true) →
          ((t.host h).vec (s.host h).gvec.toNat).pend = true) ∧
        (again = 0 → (t.host h).vecs = (s.host h).vecs) ∧ OnlyHost h s t) ∧
      (∀ k : Fin 64,
        let e := (s.host h).vec k.val
        let e' : EvVec := { e with data := v.setWidth 32, holdoff := (v >>> 32).setWidth 16, mask := v.getLsbD 48 }
        let sends : Prop := e.mask = true ∧ e'.due s.clk.nclk = true
        (sends → Runs (.vctlWrite h h k v) s fun t =>
          (t.host h).vec k.val = { e' with pend := false, last := some s.clk.nclk } ∧
          t.out = s.out ++ [.message h k.val (e.addr ++ (0 : BitVec 2)) e'.data] ∧ t = { s with hosts := t.hosts, out := t.out }) ∧
        (¬ sends → Runs (.vctlWrite h h k v) s fun t => (t.host h).vec k.val = e' ∧ OnlyHost h s t)) ∧
      (Runs (.registerWrite (.host h) (at_ 0x10) 8 v) s fun t => t.host h = { s.host h with gevten := v.setWidth 6 } ∧ OnlyHost h s t) ∧
      (Runs (.registerWrite (.host h) (at_ 0x18) 8 v) s fun t => t.host h = { s.host h with gvec := v.setWidth 6 } ∧ OnlyHost h s t) ∧
      (∀ k : Fin 64, Runs (.registerWrite (.host h) (at_ (0x100 + 16 * k.val)) 8 v) s fun t =>
        ((t.host h).vec k.val).addr = (v >>> 2).setWidth 62 ∧ (∀ i, i ≠ k.val → (t.host h).vec i = (s.host h).vec i) ∧ OnlyHost h s t) ∧
      (∀ k : Fin 8, Runs (.registerWrite (.host h) (at_ (0x800 + 8 * k.val)) 8 v) s fun t =>
        tget (t.host h).areq k.val 0 = v ∧ (∀ i, i ≠ k.val → tget (t.host h).areq i 0 = tget (s.host h).areq i 0) ∧ OnlyHost h s t) ∧
      (Runs (.registerWrite (.host h) (at_ 0x848) 8 v) s fun t =>
        t.host h = { s.host h with ovf := (s.host h).ovf && !v.getLsbD 16 } ∧ OnlyHost h s t) ∧
      (Runs (.registerWrite (.host h) (at_ 0x928) 8 v) s fun t =>
        t.host h = { s.host h with fbErr := (s.host h).fbErr && !v.getLsbD 2 } ∧ OnlyHost h s t) ∧
      (∀ k : Fin 4,
        (s.fbWritable = true → Runs (.registerWrite (.host h) (at_ (0x900 + 8 * k.val)) 8 v) s fun t =>
          t.host h = { s.host h with fbent := (t.host h).fbent } ∧ tget (t.host h).fbent k.val 0 = v ∧
          (∀ i, i ≠ k.val → tget (t.host h).fbent i 0 = tget (s.host h).fbent i 0) ∧ OnlyHost h s t) ∧
        (s.fbWritable = false → exec (.registerWrite (.host h) (at_ (0x900 + 8 * k.val)) 8 v) s = .next s)) ∧
      exec (.registerWrite (.host h) (at_ 0x938) 8 v) s = .next s) ∧
    (∀ who on, s.writes who .gctl = true →
      (Runs (.hold who on) s fun t => t = { s with ctl := { s.ctl with hold := on } }) ∧
      (Runs (.sealen who on) s fun t => t.ctl = { s.ctl with sealen := on } ∧ (t.sealOk = s.sealOk → t.hosts = s.hosts) ∧
        (t.sealOk ≠ s.sealOk → AllEvents 3 t) ∧ t = { s with ctl := t.ctl, hosts := t.hosts }) ∧
      (Runs (.registerWrite who 0x1000 8 v) s fun t => t.ctl = { s.ctl with hold := v.getLsbD 0, sealen := v.getLsbD 1 })) ∧
    (∀ who on, s.writes who .gctl = false → Denied who .gctl s (exec (.hold who on) s) ∧ Denied who .gctl s (exec (.sealen who on) s)) ∧
    (∀ g again k, s.writes (.host g) (.host h) = false →
      exec (.gevtClear g h v again) s = .next s ∧ exec (.vctlWrite g h k v) s = .next s) ∧
    (∀ who off size, (∀ g m, who = .host g → (areaOf off).1 ≠ .doorbell m) → s.writeTakes who off size = false →
      Denied who (areaOf off).1 s (exec (.registerWrite who off size v) s)) ∧
    (∀ off m o size, areaOf off = (.doorbell m, o) → exec (.registerWrite (.host h) off size v) s = exec (.doorbell h m o size v) s)

/-- The Bellows window: BW_DATA moves its address by 8, and writes 8 bytes where it may; HALT, WRST and STEP act on their core
alone, STEP on a halted one; a window that is locked reads 0 and takes nothing from a host function or the management port,
and it is locked in SEASONED, SERVICE and SPENT (R279, R303, R363, R364). That it lies outside the windows of every component but KERNEL,
which reaches it in every state, is the model's reading (log 9), as is cause 0 for WRST (log 47) and the PC after a STEP, which is free
(log 48). -/
def Obligations.BellowsWindow : Prop :=
  ∀ (who : Who) (s : State),
    (s.bwOpen who = true →
      (Runs (.bwDataRead who) s fun t => t = { s with fw := { s.fw with bwAddr := s.fw.bwAddr + 1 } }) ∧
      (∀ v : W64, Runs (.bwDataWrite who v) s fun t =>
        t.fw = { s.fw with bwAddr := s.fw.bwAddr + 1 } ∧
        (bwWritable (8 * s.fw.bwAddr.toNat) = true → t.readBytes 25 (8 * s.fw.bwAddr.toNat) 8 = natLe v.toNat 8 ∧
          ∀ a, (a < memKey 25 (8 * s.fw.bwAddr.toNat) ∨ memKey 25 (8 * s.fw.bwAddr.toNat) + 8 ≤ a) → readMem t.mem a = readMem s.mem a) ∧
        (bwWritable (8 * s.fw.bwAddr.toNat) = false → t.mem = s.mem) ∧ t = { s with mem := t.mem, poison := t.poison, fw := t.fw }) ∧
      (∀ (c : Fin 4) (on : Bool), Runs (.halt who c on) s fun t =>
        (t.core c.val).halted = on ∧ (t.core c.val).halt = on ∧ (t.core c.val).run = (!on && s.firmwareUp) ∧
        (∀ d, d ≠ c.val → t.core d = s.core d) ∧ t.fw.comps = s.fw.comps ∧
        ((on = true ∨ (s.hl.due = [] ∧ s.led.notice = false ∧ (∀ e ∈ s.fw.ports, logPort e.1 = false) ∧ (∀ e ∈ s.fw.unsent, logPort e.1 = false) ∧
            ∀ k, (s.component k).st = .running)) → t = { s with fw := t.fw, hosts := t.hosts })) ∧
      (∀ c : Fin 4, Runs (.wrst who c) s fun t =>
        (t.core c.val).part = 1 ∧ (t.core c.val).missed = 0 ∧ (t.core c.val).halted = (s.core c.val).halted ∧
        (∀ d, d ≠ c.val → t.core d = s.core d) ∧
        (s.firmwareUp = true → ∀ k ∈ compsOf c.val, (t.component k).st ≠ .running ∧ (t.component k).cause = 0)) ∧
      (∀ c : Fin 4, (s.core c.val).halted = true → Runs (.step who c) s fun t =>
        (∃ pc, t.core c.val = { s.core c.val with pc := pc }) ∧ (∀ d, d ≠ c.val → t.core d = s.core d) ∧
        t = { s with fw := { s.fw with cores := t.fw.cores }, clk := { s.clk with free := t.clk.free } }) ∧
      (∀ c : Fin 4, (s.core c.val).halted = false → exec (.step who c) s = .next s)) ∧
    (s.bwOpen who = false → DeniedRead who .bellows s (exec (.bwDataRead who) s) ∧ (∀ v, Denied who .bellows s (exec (.bwDataWrite who v) s)) ∧
      (∀ c on, Denied who .bellows s (exec (.halt who c on) s)) ∧
      ∀ c, Denied who .bellows s (exec (.wrst who c) s) ∧ Denied who .bellows s (exec (.step who c) s)) ∧
    (s.bwLocked = true ↔ s.part.lc = .seasoned ∨ s.part.lc = .service ∨ s.part.lc = .spent) ∧
    (s.bwLocked = true → (who = .mgmt ∨ ∃ h, who = .host h) → s.bwOpen who = false ∧ ∀ off size v, (areaOf off).1 = .bellows →
      (0x500008 ≤ off → s.regRead who off size = 0) ∧ exec (.registerWrite who off size v) s = .next s) ∧
    (s.windowUp = true → s.bwOpen (.fw .kernel) = true) ∧ ∀ c : Comp, c ≠ .kernel → fwReaches c .bellows = false

/-- A component that faults restarts; the third fault within one second resets its core, after which the next one stops it for
good; a core fault, or a fourth heartbeat missed, restarts every component of the core, but a halted core is not watched; the end of a restart
lets a component run, deadlines are extended by ADMIN's outage; HEALTH then fences what became due meanwhile (log 46), and LOG writes
the entries that wait in its ports (R279, R280, R299, R303, R305, R346, R364; log 47). -/
def Obligations.FirmwareRestarts : Prop :=
  ∀ (f : Nat) (s : State), s.firmwareUp = true →
    let now := max s.clk.fclk f
    (∀ k cause, s.compRuns k = true → k ≠ .kernel → k ≠ .boot →
      let recent := (s.component k).faults.filter fun x => decide (now ≤ x + 1200000000)
      ((s.component k).again = false → recent.length < 2 → Runs (.componentFault k cause f) s fun t =>
        t.component k = { s.component k with st := .restarting, cause := cause, faults := recent ++ [now] } ∧
        ∀ j : Comp, j ≠ k → t.component j = s.component j) ∧
      ((s.component k).again = false → 2 ≤ recent.length → Runs (.componentFault k cause f) s fun t =>
        (t.component k).again = true ∧ ∀ j ∈ compsOf k.core, (t.component j).st ≠ .running ∧ (t.component j).cause = cause) ∧
      ((s.component k).again = true → Runs (.componentFault k cause f) s fun t =>
        (t.component k).st = .stopped ∧ t.out = s.out ++ [.fatal k.code]) ∧
      (Runs (.activationDeadline k f) s fun t => (t.component k).st ≠ .running ∧ (t.component k).cause = 2)) ∧
    (∀ (c : Fin 4) (cause : Nat),
      ((s.core c.val).halted = true → Runs (.coreFault c cause f) s (fun t => t = atF s f) ∧
        ∀ seen, Runs (.heartbeat c seen f) s fun t => t = atF s f) ∧
      ((s.core c.val).halted = false →
        (Runs (.coreFault c cause f) s fun t => (t.core c.val).missed = 0 ∧
          ∀ k ∈ compsOf c.val, (t.component k).st ≠ .running ∧ (t.component k).cause = cause) ∧
        (Runs (.heartbeat c true f) s fun t => t.core c.val = { s.core c.val with missed := 0 } ∧ t = { atF s f with fw := t.fw }) ∧
        ((s.core c.val).missed ≠ 3 → Runs (.heartbeat c false f) s fun t =>
          t.core c.val = { s.core c.val with missed := (s.core c.val).missed + 1 } ∧ t = { atF s f with fw := t.fw }) ∧
        ((s.core c.val).missed = 3 → Runs (.heartbeat c false f) s fun t =>
          (t.core c.val).missed = 0 ∧ ∀ k ∈ compsOf c.val, (t.component k).st ≠ .running ∧ (t.component k).cause = 2))) ∧
    (∀ k, (s.component k).st = .restarting → Runs (.componentRestarted k f) s fun t =>
      (t.component k).st = .running ∧ (∀ j : Comp, j ≠ k → t.component j = s.component j) ∧
      (k = .admin → ∀ t0, s.fw.adminDown = some t0 → t.fw.adminDown = none ∧
        ∀ h, (s.host h).session = .active → (t.host h).deadline = (s.host h).deadline + (now - t0)) ∧
      (k ≠ .admin → (k = .health → s.hl.due = []) → t.hosts = s.hosts) ∧
      (k = .health → (s.core k.core).halted = false → t.hl.due = [] ∧ ∀ e ∈ s.hl.due, e.1 < 24 → (tget t.slices e.1 {}).fenced = true) ∧
      (k = .log → (s.core k.core).halted = false → (∀ e ∈ t.fw.ports, logPort e.1 = false) ∧
        s.log.seq + sumOf ((s.fw.ports.filter fun e => logPort e.1).map fun e => e.2.length) ≤ t.log.seq)) ∧
    (∀ k, (s.component k).st ≠ .restarting → Runs (.componentRestarted k f) s fun t => t = atF s f)

/-! ### Ember -/

/-- The mailbox and its commands: a submission is held until it is answered; every piece but the last is acknowledged with an empty
response; each command then answers as Table 15-29 says, draws its value, raises the floor to the running SVN, writes the state of the
transition that runs after its record, or seeds again (R316, R320 to R322, R326, R365). That LC_WRITE and FLOOR_RAISE are steps of a
transition and of a ROLLBACK_COMMIT that waits is the model's choice (log 95), and so are the five bytes of HEALTH (log 52). -/
def Obligations.MailboxCommands : Prop :=
  ∀ (q : List Byte) (s : State),
    let drawn (t : State) : Prop := t = { s with emb := t.emb, clk := { s.clk with free := t.clk.free } }
    let whole (cmd : Nat) : List Byte := s.embPayload cmd q
    let first (cmd : Nat) : Nat := byteAt (whole cmd) 0
    (∀ (v : W64) (c : Comp), s.writes (.fw c) .mailbox = true →
      (s.emb.req = none → s.emb.rsp = none → 1 ≤ byteAt s.txBytes 0 → byteAt s.txBytes 0 ≤ 8 →
        Runs (.registerWrite (.fw c) 0x600040 8 v) s fun t => t = { s with
          emb := { s.emb with req := some s.txBytes, reqAt := if s.emb.isolated then s.emb.reqAt else s.clk.fclk } }) ∧
      (s.emb.req ≠ none ∨ s.emb.rsp ≠ none → exec (.registerWrite (.fw c) 0x600040 8 v) s = .next s)) ∧
    (∀ (a b c : Bool), ∀ x ∈ ([(1, .health), (2, .random), (3, .nonce), (4, .imgVerify a b), (5, .lcVerify a b), (6, .lcWrite),
        (7, .floorRaise), (8, .reseed c)] : List (Nat × Instr)),
      s.embRequest x.1 = some q → embMore q = true → Runs x.2 s fun t =>
        EmberAnswers q 0 [] t ∧ t.emb.pieces = whole x.1 ∧ t.emb.pieceOf = x.1 ∧ t = { s with emb := t.emb }) ∧
    (embMore q = false →
      (s.embRequest 0x01 = some q → Runs .health s fun t =>
        EmberAnswers q 0 ([!s.emb.latest.getLsbD 0, !s.emb.latest.getLsbD 1, !s.emb.differ, s.emb.healthOk, s.emb.keysOk].map fun b =>
          BitVec.ofNat 8 b.toNat) t ∧ t.emb.pieces = [] ∧ t = { s with emb := t.emb }) ∧
      (s.embRequest 0x02 = some q → 1 ≤ first 2 → first 2 ≤ 32 → Runs .random s fun t =>
        (∃ x : BitVec 256, EmberAnswers q 0 (natLe x.toNat (first 2)) t) ∧ t.emb.pieces = [] ∧ drawn t) ∧
      (s.embRequest 0x02 = some q → (first 2 = 0 ∨ 32 < first 2) → Runs .random s (EmberAnswers q 1 [])) ∧
      (s.embRequest 0x03 = some q → Runs .nonce s fun t =>
        (∃ x : BitVec 256, t.emb.nonce = some (x, s.clk.fclk) ∧ EmberAnswers q 0 (natLe x.toNat 32) t) ∧ t.emb.pieces = [] ∧ drawn t) ∧
      (∀ ecdsa mldsa,
        (s.embRequest 0x04 = some q → Runs (.imgVerify ecdsa mldsa) s fun t =>
          let p := whole 4
          EmberAnswers q (if 4899 ≤ p.length ∧ s.keyInstalled (bits (byteAt p 5) 0 2) = true ∧ ecdsa = true ∧ mldsa = true then 0 else 1) [] t ∧
          t.emb.pieces = [] ∧ t = { s with emb := t.emb }) ∧
        (s.embRequest 0x05 = some q → Runs (.lcVerify ecdsa mldsa) s fun t =>
          let p := whole 5
          EmberAnswers q (if 4787 ≤ p.length ∧ s.tokenOk (p.take 64) = true ∧ ecdsa = true ∧ mldsa = true then 0 else 1) [] t ∧
          t.emb.pieces = [] ∧ t = { s with emb := t.emb })) ∧
      (s.embRequest 0x06 = some q →
        (∀ b, s.ctl.xfer = some b → Lifecycle.ofCode (first 6) = some b → s.part.lc ≠ b → s.workDone = true → Runs .lcWrite s fun t =>
          t.part = { s.part with lc := b } ∧ EmberAnswers q 0 [] t ∧ t.emb.nonce = none ∧ t.emb.ckpts = [] ∧
          ∃ n date, .ledger (ledgerBytes 7 n date (natLe s.part.lc.code 1 ++ natLe b.code 1 ++ natLe s.part.floor 1 ++ [0])) ∈ t.out) ∧
        ((∀ b, s.ctl.xfer = some b → Lifecycle.ofCode (first 6) = some b → s.part.lc = b ∨ s.workDone = false) →
          Runs .lcWrite s fun t => t.part = s.part ∧ EmberAnswers q 1 [] t)) ∧
      (s.embRequest 0x07 = some q →
        (s.ctl.commit = true → s.ctl.stage = .banked → s.part.floor < first 7 → first 7 = s.svn → Runs .floorRaise s fun t =>
          t.part = { s.part with floor := first 7 } ∧ t.ctl = { s.ctl with commit := false } ∧ EmberAnswers q 0 [] t ∧
          t.led.held.length = s.led.held.length + 1 ∧ t.out = s.out ++ [.mgmt "ROLLBACK_COMMIT" 0 []]) ∧
        ((s.ctl.commit = false ∨ s.ctl.stage ≠ .banked ∨ first 7 ≤ s.part.floor ∨ first 7 ≠ s.svn) → Runs .floorRaise s fun t =>
          t.part = s.part ∧ EmberAnswers q 1 [] t)) ∧
      (s.embRequest 0x08 = some q →
        (Runs (.reseed true) s fun t => t.emb.keysOk = true ∧ t.emb.healthOk = true ∧ t.emb.bad = 0 ∧ EmberAnswers q 0 [] t) ∧
        (Runs (.reseed false) s fun t => t.emb.keysOk = false ∧ EmberAnswers q 1 [] t))) ∧
    (∀ who, s.writes who .mailbox = true → Runs (.embRxpop who) s fun t => t = { s with emb := { s.emb with rsp := none } }) ∧
    (∀ who, s.writes who .mailbox = false → Denied who .mailbox s (exec (.embRxpop who) s)) ∧
    (s.emb.req = none → exec .health s = .next s ∧ exec .random s = .next s ∧ exec .nonce s = .next s ∧ exec .lcWrite s = .next s ∧
      exec .floorRaise s = .next s ∧ (∀ a b, exec (.imgVerify a b) s = .next s ∧ exec (.lcVerify a b) s = .next s) ∧
      ∀ a, exec (.reseed a) s = .next s)

/-- An unrecoverable failure of Ember leads to QUENCHED: no answer for 100 ms, both entropy sources failed, a third failed
start-up attempt, a second disagreement of the DRBG instances. One source alone stops the issue of keys; a start-up attempt that passes
lets Ember issue them (R241, R313, R314). That both sources count as failed when each has failed since the last reseed, and that the
disagreements are counted since reset, is the model's reading (log 51). -/
def Obligations.EmberFailuresQuench : Prop :=
  ∀ s : State,
    (∀ f, (s.emb.req.isSome = true ∨ s.emb.isolated = true) → s.emb.reqAt + 120000000 ≤ max s.clk.fclk f →
      (s.fbWritable = true ∨ s.ctl.stage = .banked) → s.ctl.inReset = false → Runs (.mailboxTimeout f) s Quenched) ∧
    (∀ srcs : BitVec 2, s.ctl.stage = .banked → srcs ≠ 0 →
      (s.emb.bad ||| srcs = 3 → Runs (.emberContinuousTestFail srcs) s Quenched) ∧
      (s.emb.bad ||| srcs ≠ 3 → Runs (.emberContinuousTestFail srcs) s fun t =>
        t.emb = { s.emb with bad := s.emb.bad ||| srcs, latest := s.emb.bad ||| srcs, keysOk := false } ∧ t.ctl = s.ctl)) ∧
    (s.ctl.stage = .kindling → s.emb.healthOk = false → s.emb.isolated = false → s.emb.attempts < 3 → s.emb.disagreed < 2 →
      (Runs (.emberHealthAttemptEnd 0 false) s fun t => 
        t = { s with emb := { s.emb with healthOk := true, keysOk := true, latest := 0, differ := false } }) ∧
      ∀ (failed : BitVec 2) (disagree : Bool), (failed ≠ 0 ∨ disagree = true) →
        (s.emb.attempts < 2 → s.emb.disagreed + disagree.toNat < 2 → Runs (.emberHealthAttemptEnd failed disagree) s fun t =>
          t.emb = { s.emb with
            attempts := s.emb.attempts + 1, disagreed := s.emb.disagreed + disagree.toNat, latest := failed, differ := disagree } ∧
          t.ctl = s.ctl) ∧
        ((s.emb.attempts = 2 ∨ s.emb.disagreed + disagree.toNat = 2) → Runs (.emberHealthAttemptEnd failed disagree) s Quenched))

/-! ### The management port -/

/-- The management commands on the lifecycle, the floor, the manager role and the log: a challenge draws a nonce; a transition
that is accepted stops every ring and freezes every host function, and when the work has drained it writes the state and
resets the part, and closes the scan segments that the new state does not permit; ROLLBACK_COMMIT raises the floor to the running SVN
(R245, R293, R302, R320 to R322, Table 13-9). The bytes of LC_QUERY and the answer codes are the model's (log 52), a refused
LC_TRANSITION consumes the nonce too (log 53), and a ROLLBACK_COMMIT waits while the mailbox is in use (log 95). -/
def Obligations.LifecycleCommands : Prop :=
  ∀ (f : Nat) (s : State), s.mgmtUp = true →
    let now := max s.clk.fclk f
    (s.emb.isolated = false → Runs (.lcChallenge f) s fun t =>
      ∃ x : BitVec 256, t.emb = { s.emb with nonce := some (x, now) } ∧ PortAnswers "LC_CHALLENGE" 0 (natLe x.toNat 32) s t) ∧
    (s.emb.isolated = true → Runs (.lcChallenge f) s fun t => t = { atF s f with out := s.out ++ [.mgmt "LC_CHALLENGE" 1 []] }) ∧
    (∀ token ecdsa mldsa keyBlock b, Lifecycle.ofCode (byteAt token 1) = some b →
      ((s.atFclk f).lcAccepted token ecdsa mldsa keyBlock = true → Runs (.lcTransition token ecdsa mldsa keyBlock f) s fun t =>
        t.ctl = { s.ctl with xfer := some b } ∧ t.emb.nonce = none ∧ AllEvents 5 t ∧ t.part = s.part ∧
        (∀ r : RingId, (s.ring r).st = .enabled → (t.ring r).st = .frozen) ∧
        (∀ h, (t.host h).freezing = true ∧ (t.host h).frozenAt = none ∧
          ((s.host h).session = .active → (t.host h).session = .frozen)) ∧
        t.out.getLast? = some (.mgmt "LC_TRANSITION" 0 []))) ∧
    (∀ token ecdsa mldsa keyBlock, (s.atFclk f).lcAccepted token ecdsa mldsa keyBlock = false →
      Runs (.lcTransition token ecdsa mldsa keyBlock f) s fun t =>
        t = { atF s f with emb := { s.emb with nonce := none }, out := s.out ++ [.mgmt "LC_TRANSITION" 1 []] }) ∧
    (∀ b, s.ctl.xfer = some b → s.workDone = true → s.edge.rst = false → s.edge.faultHold = false →
      (s.emb.isolated = false ∨ s.part.lc = b) → Runs .lcTransitionDrained s fun t =>
      t.part = { s.part with lc := b } ∧ t.ctl = { stage := .reset } ∧ t.emb.ckpts = [] ∧ NoService t ∧
      (∀ k, k < 7 → t.edge.segs.getLsbD k = (s.edge.segs.getLsbD k && segPermitted b k)) ∧
      t.hosts = [] ∧ t.slices = [] ∧
      (s.part.lc ≠ b → t.emb.nonce = none ∧ ∃ q date, .ledger (ledgerBytes 7 q date (natLe s.part.lc.code 1 ++ natLe b.code 1 ++ natLe s.part.floor 1 ++ [0])) ∈ t.out)) ∧
    ((s.workDone = false ∨ ∀ b, s.ctl.xfer = some b → s.emb.isolated = true ∧ s.part.lc ≠ b) → exec .lcTransitionDrained s = .next s) ∧
    (Runs .lcQuery s fun t => t = { s with out := t.out } ∧ PortAnswers "LC_QUERY" 0
      [BitVec.ofNat 8 s.part.lc.code, BitVec.ofNat 8 s.part.floor, BitVec.ofNat 8 s.part.lc.keys, BitVec.ofNat 8 s.pldm.activeB.toNat] s t) ∧
    (s.ctl.stage = .banked → s.part.floor < s.svn → s.emb.isolated = false → s.ctl.commit = false →
      (s.emb.req = none → s.emb.rsp = none → Runs .rollbackCommit s fun t =>
        t.part = { s.part with floor := s.svn } ∧ t.led.held.length = s.led.held.length + 1 ∧
        t = { s with part := t.part, led := t.led, out := s.out ++ [.mgmt "ROLLBACK_COMMIT" 0 []] }) ∧
      ((s.emb.req ≠ none ∨ s.emb.rsp ≠ none) → Runs .rollbackCommit s fun t => t = { s with ctl := { s.ctl with commit := true } })) ∧
    ((s.ctl.stage ≠ .banked ∨ s.svn ≤ s.part.floor ∨ s.emb.isolated = true ∨ s.ctl.commit = true) → Runs .rollbackCommit s fun t =>
      t = { s with out := s.out ++ [.mgmt "ROLLBACK_COMMIT" 1 []] }) ∧
    (∀ h, (s.ctl.stage = .banked → Runs (.managerSet h) s fun t =>
        t = { s with ctl := { s.ctl with manager := some h }, out := s.out ++ [.mgmt "MANAGER_SET" 0 []] }) ∧
      (s.ctl.stage ≠ .banked → Runs (.managerSet h) s fun t => t = { s with out := s.out ++ [.mgmt "MANAGER_SET" 1 []] })) ∧
    (∀ on, (s.compRuns .log = true → s.ctl.stage ≠ .quenched → Runs (.logLevel on) s fun t =>
        t = { s with log := { s.log with low := on }, out := s.out ++ [.mgmt "LOG_LEVEL" 0 []] }) ∧
      ((s.compRuns .log = false ∨ s.ctl.stage = .quenched) → Runs (.logLevel on) s fun t =>
        t = { s with out := s.out ++ [.mgmt "LOG_LEVEL" 1 []] }))

/-- The intake of a firmware image: each command is accepted in its state of Table 13-6, and refused with nothing changed in
any other, and in QUENCHED; the image is asked for and written in chunks, verified when it is complete, the result reported, and active
from the next reset (R306, R316, R317). The payloads of QueryDeviceIdentifiers, GetFirmwareParameters and GetStatus are the model's (log
52), and so is what follows a refused image: VerifyComplete 1, and a new UpdateComponent (log 55). -/
def Obligations.FirmwareUpdate : Prop :=
  ∀ s : State, s.mgmtUp = true →
    let x := s.pldm
    let spoilt (y : Pldm) : Prop := (y.slot x.spare).valid = false ∧ y.slot x.activeB = x.slot x.activeB ∧ y.activeB = x.activeB ∧
      y.pendB ≠ some x.spare ∧ y.buf = []
    let moves (c : Instr) (cmd : String) (ok : Prop) (P : Pldm → Prop) : Prop :=
      (ok → Runs c s fun t => P t.pldm ∧ t = { s with pldm := t.pldm, out := s.out ++ [.mgmt cmd 0 []] }) ∧
      (¬ ok → Runs c s fun t => t = { s with out := s.out ++ [.mgmt cmd 1 []] })
    let refuses (c : Instr) (cmd : String) : Prop := Runs c s fun t => t = { s with out := s.out ++ [.mgmt cmd 1 []] }
    (∀ code, Runs (.unsupportedPldmCommand code) s fun t => t = { s with out := s.out ++ [.mgmt "Unsupported" 1 [code]] }) ∧
    (s.ctl.stage = .quenched →
      refuses .queryDeviceIdentifiers "QueryDeviceIdentifiers" ∧ refuses .getFirmwareParameters "GetFirmwareParameters" ∧
      refuses .requestUpdate "RequestUpdate" ∧ (∀ n, refuses (.passComponentTable n) "PassComponentTable") ∧
      (∀ n, refuses (.updateComponent n) "UpdateComponent") ∧
      (∀ data a b, exec (.requestFirmwareData data a b) s = .next s) ∧ refuses .activateFirmware "ActivateFirmware" ∧
      refuses .getStatus "GetStatus" ∧ refuses .cancelUpdateComponent "CancelUpdateComponent" ∧ refuses .cancelUpdate "CancelUpdate") ∧
    (s.ctl.stage ≠ .quenched →
    (Runs .queryDeviceIdentifiers s fun t => t = { s with out := t.out } ∧
      PortAnswers "QueryDeviceIdentifiers" 0 (natLe 0x1A1C0B24B0000000 8 ++ natLe s.part.serial.toNat 8 ++ [0xB0]) s t) ∧
    (Runs .getFirmwareParameters s fun t => t = { s with out := t.out } ∧
      PortAnswers "GetFirmwareParameters" 0 (slotBytes x.slotA ++ slotBytes x.slotB ++ natLe x.activeB.toNat 1 ++
        natLe (match x.pendB with
          | none => 255
          | some b => b.toNat) 1) s t) ∧
    moves .requestUpdate "RequestUpdate" (x.st = .idle ∧ s.ctl.xfer = none) (fun y => y = { x with st := .requested }) ∧
    (∀ n, moves (.passComponentTable n) "PassComponentTable" (x.st = .requested ∧ n = 1) (fun y => y = { x with st := .table })) ∧
    (∀ n, (x.st = .table ∧ 1 ≤ n ∧ n ≤ 0x800000 → Runs (.updateComponent n) s fun t =>
        t.pldm.st = .transfer ∧ t.pldm.size = n ∧ spoilt t.pldm ∧ t = { s with
          pldm := t.pldm, out := s.out ++ [.mgmt "UpdateComponent" 0 [], .request "RequestFirmwareData" [0, min 4096 n]] }) ∧
      (¬ (x.st = .table ∧ 1 ≤ n ∧ n ≤ 0x800000) → refuses (.updateComponent n) "UpdateComponent")) ∧
    (∀ data ecdsa mldsa, x.st = .transfer → data.length = min 4096 (x.size - x.buf.length) →
      let b := x.buf ++ data
      let ok := s.imageOk b ecdsa mldsa
      (b.length ≠ x.size → Runs (.requestFirmwareData data ecdsa mldsa) s fun t => t = { s with
        pldm := { x with buf := b }, out := s.out ++ [.request "RequestFirmwareData" [b.length, min 4096 (x.size - b.length)]] }) ∧
      (b.length = x.size → Runs (.requestFirmwareData data ecdsa mldsa) s fun t =>
        t.pldm.slot x.spare = slotOfImage b ok ∧ t.pldm.slot x.activeB = x.slot x.activeB ∧ t.pldm.activeB = x.activeB ∧
        t.pldm.st = (if ok then .verified else .table) ∧ (ok = true → t.led = s.led) ∧
        (ok = false → t.led.held.length = s.led.held.length + 1) ∧ t = { s with
          pldm := t.pldm, led := t.led
          out := s.out ++ [.request "TransferComplete" [], .request "VerifyComplete" [if ok then 0 else 1]] ++
            if ok then [.request "ApplyComplete" []] else [] })) ∧
    (x.st = .verified → Runs .activateFirmware s fun t => t.pldm = { x with st := .idle, pendB := some x.spare } ∧
      t.led.held.length = s.led.held.length + 1 ∧
      t = { s with pldm := t.pldm, led := t.led, out := s.out ++ [.mgmt "ActivateFirmware" 0 []] }) ∧
    (x.st ≠ .verified → Runs .activateFirmware s fun t => t = { s with out := s.out ++ [.mgmt "ActivateFirmware" 1 []] }) ∧
    (Runs .getStatus s fun t => t = { s with out := s.out ++ [.mgmt "GetStatus" 0 (natLe (updateCode x.st) 1)] }) ∧
    moves .cancelUpdateComponent "CancelUpdateComponent" (x.st = .transfer ∨ x.st = .verified) (fun y => y.st = .table ∧ spoilt y) ∧
    moves .cancelUpdate "CancelUpdate" (x.st ≠ .idle) (fun y => y.st = .idle ∧ spoilt y))

/-- The Ledger: its interval, its restore and the timeout of the restore, its persistence at the interval and before a
shutdown, which LEDGER answers when it runs again and which changes nothing else, its bins and its aging readings (R303, R323 to R328).
That the stored power-on count becomes Ember's unless that has saturated, and that a restore which is not awaited is refused, is the
model's reading (log 54). -/
def Obligations.LedgerCommands : Prop :=
  ∀ (f : Nat) (s : State),
    let now := max s.clk.fclk f
    let full := decide (2048 ≤ s.part.powerOns)
    let allOut (t : State) : Prop := t.led.held = [] ∧ t.led.aging = [] ∧
      (∃ q d, .ledger (ledgerBytes 1 q d (activePayload s.led.totals)) ∈ t.out) ∧
      (∃ q d, .ledger (ledgerBytes 2 q d (bytesPayload s.led.totals)) ∈ t.out) ∧
      (∃ q d, .ledger (ledgerBytes 3 q d (errorsPayload s.led.totals)) ∈ t.out) ∧
      (∃ q d, .ledger (ledgerBytes 4 q d (thermalPayload s.led.totals)) ∈ t.out) ∧
      (∃ q d, .ledger (ledgerBytes 5 q d (supplyPayload s.led.totals)) ∈ t.out) ∧
      (∃ q d, .ledger (ledgerBytes 6 q d s.poweronPayload) ∈ t.out)
    (s.mgmtUp = true → s.compRuns .ledger = true → ∀ n,
      (60 ≤ n → n ≤ 86400 → s.ctl.stage ≠ .quenched → Runs (.ledgerInterval n) s fun t =>
        t = { s with led := { s.led with interval := n }, out := s.out ++ [.mgmt "LEDGER_INTERVAL" 0 []] }) ∧
      ((n < 60 ∨ 86400 < n ∨ s.ctl.stage = .quenched) → Runs (.ledgerInterval n) s fun t => t = { s with out := s.out ++ [.mgmt "LEDGER_INTERVAL" 1 []] })) ∧
    (s.mgmtUp = true → s.compRuns .ledger = true → s.ctl.stage ≠ .quenched → s.led.st = .awaited → ∀ img, Runs (.ledgerRestore (some img)) s fun t =>
      t.led.st = .restored ∧ t.led.stale = (!full && img.powerOn + 1 != s.part.powerOns) ∧
      t.led.totals = { addTotals img s.led.totals with powerOn := if full then min (img.powerOn + 1) (2 ^ 32 - 1) else s.part.powerOns } ∧
      t = { s with led := t.led, out := s.out ++ [.mgmt "LEDGER_RESTORE" 0 []] }) ∧
    (s.mgmtUp = true → (s.led.st ≠ .awaited ∨ s.ctl.stage = .quenched) → ∀ img, Runs (.ledgerRestore img) s fun t =>
      t = { s with out := s.out ++ [.mgmt "LEDGER_RESTORE" 1 []] }) ∧
    (s.compRuns .ledger = true → s.led.st = .awaited → s.ctl.kindlingAt + 12000000000 ≤ now → Runs (.ledgerRestoreTimeout f) s fun t =>
      t = { atF s f with led := { s.led with st := .restarted, totals := { s.led.totals with powerOn := s.part.powerOns } } }) ∧
    (s.mgmtUp = true →
      (s.ledgerOpen = true → Runs (.shutdownNotice f) s fun t =>
        allOut t ∧ t.out.getLast? = some (.mgmt "SHUTDOWN_NOTICE" 0 []) ∧ t = { atF s f with
          led := { s.led with held := [], aging := [], seq := t.led.seq }, out := t.out }) ∧
      (s.ledgerAway = true → Runs (.shutdownNotice f) s fun t => t = { atF s f with led := { s.led with notice := true } }) ∧
      (s.ledgerAway = false → s.ledgerOpen = false → Runs (.shutdownNotice f) s fun t =>
        t = { atF s f with out := s.out ++ [.mgmt "SHUTDOWN_NOTICE" 0 []] })) ∧
    (s.led.notice = true → s.led.st ≠ .awaited → s.firmwareUp = true → (s.component .ledger).st = .restarting →
      (s.core (Comp.ledger).core).halted = false → Runs (.componentRestarted .ledger f) s fun t =>
        allOut t ∧ t.led.notice = false ∧ t.led.last = s.led.last ∧ .mgmt "SHUTDOWN_NOTICE" 0 [] ∈ t.out) ∧
    (s.ledgerOpen = true → s.ctl.quenching = false →
      (s.led.last + s.led.interval * 1200000000 ≤ now → Runs (.ledgerPersist f) s fun t => allOut t ∧ t.led.last = now) ∧
      (now < s.led.last + s.led.interval * 1200000000 → Runs (.ledgerPersist f) s fun t =>
        t.out = s.out ++ (s.led.held.zipIdx.map fun y => .ledger (ledgerBytes y.1.ty (s.led.seq + y.2) y.1.date y.1.payload)) ∧
        t.led = { s.led with held := [], seq := s.led.seq + s.led.held.length } ∧ t = { atF s f with led := t.led, out := t.out })) ∧
    (s.ctl.quenching = true → s.workDone = true → Runs (.ledgerPersist f) s fun t =>
      t.ctl.quenching = false ∧ NoService t ∧ ∀ c, c < 4 → (t.core c).halted = true) ∧
    (∀ mv, s.compRuns .ledger = true → Runs (.ledgerBinTick mv) s fun t =>
      (∀ k b, k < 28 → b < 16 → tget t.led.totals.thermal (16 * k + b) 0 =
        if k ∈ s.sensors ∧ (s.sensor k).valid = true ∧ b = thermalBin (s.sensor k).temp
        then min (tget s.led.totals.thermal (16 * k + b) 0 + 1) (2 ^ 32 - 1) else tget s.led.totals.thermal (16 * k + b) 0) ∧
      (∀ r b, r < 3 → b < 16 → tget t.led.totals.supply (16 * r + b) 0 =
        if b = supplyBin r (mv.getD r 0)
        then min (tget s.led.totals.supply (16 * r + b) 0 + 1) (2 ^ 32 - 1) else tget s.led.totals.supply (16 * r + b) 0) ∧
      t = { s with led := { s.led with totals := t.led.totals } }) ∧
    (∀ counts, s.compRuns .ledger = true → Runs (.agingReading counts) s fun t =>
      ∀ n : SliceId, n.val < s.nslices → let c : W16 := counts.getD n.val 0
        (t.slice n).ageLatest = c ∧ (t.slice n).ageMax.toNat = max (s.slice n).ageMax.toNat c.toNat ∧
        tget t.led.aging (3 * n.val) 0 = c.toNat)

/-! ### Resets, boot, supplies -/

/-- por_n and ptu_rst_n leave no service and every register at its reset value, por_n the log and Ember too; the release wipes
the tables and makes the pending slot active, when its rails are good; a part enters TINDER, or QUENCHED when it is SPENT (R306, R308,
R314, R370, R372, R373). That service ends at the assertion, that por_n closes the scan segments and counts a power-on, and that ptu_rst_n
keeps the segments and the nonce, is the model's reading (log 49), and whether a rail that was not good is good again at the release is a
free value (log 50). -/
def Obligations.Resets : Prop :=
  ∀ s : State,
    (Runs .porN s fun t => NoService t ∧ t.ctl = { stage := .reset, inReset := true } ∧ t.hosts = [] ∧ t.slices = [] ∧ t.log = {} ∧
      t.emb = {} ∧ t.clk.fclk = 0 ∧ t.part = { s.part with powerOns := min 2048 (s.part.powerOns + 1) } ∧ t.edge = { rst := true } ∧
      ∀ a, a < 0x400000 → byteOf t 0 (0x2800000 + a) = 0 ∧ byteOf t 12 (0x2800000 + a) = 0) ∧
    (s.edge.rst = false → Runs .ptuRstNAssert s fun t => NoService t ∧ t.ctl = { stage := .reset, inReset := true } ∧ t.hosts = [] ∧
      t.slices = [] ∧ t.flue = {} ∧ t.ports = {} ∧ t.hl = {} ∧ t.dmp = {} ∧ t.fw = {} ∧ t.part = s.part ∧ t.log.seq = s.log.seq ∧
      t.emb.nonce = s.emb.nonce ∧ t.edge.segs = s.edge.segs ∧ t.edge.rst = true) ∧
    (s.edge.rst = true → exec .ptuRstNAssert s = .next s) ∧
    (s.edge.rst = true →
      let up := s.edge.railGood == 7 && s.edge.emberPwrEn
      let w := Config.freeWord s.clk.free
      let rails : BitVec 3 := if up then 7 else s.edge.railGood ||| w.setWidth 3
      let on : Bool := if up then true else s.edge.emberPwrEn || w.getLsbD 3
      Runs .ptuRstNRelease s fun t =>
        if rails = 7 ∨ (s.edge.faultHold = false ∧ rails &&& 3 = 3) then
          t.ctl = { s.ctl with inReset := false } ∧
          t.edge = { s.edge with rst := false, railGood := rails, emberPwrEn := on, pwrFault := rails != 7, faultHold := false } ∧
          t.emb.isolated = !(rails.getLsbD 2 && on) ∧ t.pldm.activeB = s.pldm.pendB.getD s.pldm.activeB ∧
          t.pldm.pendB = none ∧ t.part = s.part ∧
          (∀ a, a < 0x100000 → byteOf t 25 (0x20000000 + a) = 0) ∧ (∀ a, a < 0x2000000 → byteOf t 0 (0x4000000 + a) = 0) ∧
          (∀ r : RingId, ∀ a, a < 32 → byteOf t 0 (ringTableAddr r + a) = 0 ∧ byteOf t 12 (ringTableAddr r + a) = 0)
        else t = { s with
          clk := { s.clk with free := s.clk.free + 1 }
          edge := { s.edge with rst := false, railGood := rails, emberPwrEn := on, faultHold := true } }) ∧
    (s.edge.rst = false → exec .ptuRstNRelease s = .next s) ∧
    (s.ctl.stage = .reset → s.ctl.inReset = false →
      (s.part.lc ≠ .spent → Runs .enterTinder s fun t => t = { s with ctl := { s.ctl with stage := .tinder } }) ∧
      (s.part.lc = .spent → Runs .enterTinder s fun t =>
        t.ctl = { s.ctl with stage := .quenched, fbAct := false } ∧ AllEvents 0 t ∧ t = { s with ctl := t.ctl, hosts := t.hosts }))

/-- From TINDER to BANKED: a verified image runs and KINDLING begins, one that fails is not tried again; the groups of slices
and the planes are tested in turn, and what fails stays fenced; BANKED is entered with the fallback scheduler off and the
defaults set, and its voltage is asked for unless it would fall before a slower clock that is still to come; the boot watchdog leads back
to TINDER (R311 to R313, R318, R319, R374). That the slot of an image which fails at boot is marked invalid is the model's choice (log
55). -/
def Obligations.BootSequence : Prop :=
  ∀ s : State,
    (∀ b image ecdsa mldsa f, s.bootable b = true →
      (s.imageOk image ecdsa mldsa = true → Runs (.bootVerified b image ecdsa mldsa f) s fun t =>
        t.ctl.stage = .kindling ∧ t.ctl.cap3 = cap3Of b (slotOfImage image true) ∧ t.ctl.kindlingAt = max s.clk.fclk f ∧
        t.ctl.groupsLeft = 4 ∧ t.ctl.planesLeft = 4 ∧ AllEvents 0 t ∧ t.pldm.tried b = true ∧
        t.pldm.slot b = slotOfImage image true ∧ .request "LEDGER_RESTORE" [] ∈ t.out ∧
        ∀ c, c < 4 → (t.core c).run = true ∧ (t.core c).pc = BitVec.ofNat 32 (0x10000000 + field image 28 4)) ∧
      (s.imageOk image ecdsa mldsa = false → Runs (.bootVerified b image ecdsa mldsa f) s fun t =>
        t.ctl = s.ctl ∧ t.pldm.tried b = true ∧ t.pldm.slot b = { s.pldm.slot b with valid := false } ∧
        t = { atF s f with pldm := t.pldm, led := t.led })) ∧
    (∀ (g : Fin 4) (failed : BitVec 24), s.selfTesting = true → s.ctl.groupsLeft + g.val = 4 →
      Runs (.sliceGroupTestEnd g failed) s fun t =>
        t.ctl.groupsLeft + g.val = 3 ∧
        ∀ n : SliceId, n.val < s.nslices → n.val % 4 = g.val → (s.slice n).fenced = true → (s.slice n).testing = true →
          (s.slice n).cause = 0 → (t.slice n).testing = false ∧
          (failed.getLsbD n.val = true → (t.slice n).fenced = true ∧ (t.slice n).cause = 6) ∧
          (failed.getLsbD n.val = false → (t.slice n).fenced = false)) ∧
    (∀ pl : PlaneId, s.selfTesting = true → s.ctl.groupsLeft = 0 → s.ctl.planesLeft + pl.val = 4 → s.flue.held.getLsbD pl.val = true →
      (Runs (.flueLoopbackEnd pl true) s fun t => t = { s with
        ctl := { s.ctl with planesLeft := s.ctl.planesLeft - 1 }, flue := { s.flue with held := t.flue.held } }) ∧
      (Runs (.flueLoopbackEnd pl false) s fun t =>
        t.ctl.planesLeft + pl.val = 3 ∧ t.flue.fenced = s.flue.fenced ||| BitVec.ofNat 4 (2 ^ pl.val))) ∧
    (∀ (counts : List W16) (base : Fin 21) (f : Nat), s.bankable = true → Runs (.enterBanked counts base f) s fun t =>
      t.ctl.stage = .banked ∧ t.ctl.fbAct = false ∧ t.ctl.manager = some 0 ∧ AllEvents 0 t ∧
      (∀ h, (t.host h).wt = 16 ∧ (t.host h).minctx = 2 ∧ (t.host h).maxctx = 64 ∧ (t.host h).grace = 10000) ∧
      (∀ n, n < s.nslices → tget t.sched.resv n 0 = 1) ∧ t.sched.hresv = 1 ∧ t.led.interval = 3600 ∧
      ((s.dmp.req = none ∨ s.dmp.avs ≤ base.val - 2 * s.dmp.step) →
        t.dmp.avs = base.val - 2 * s.dmp.step ∧ t.out.getLast? = some (.avsReq (base.val - 2 * s.dmp.step))) ∧
      (s.dmp.req ≠ none → base.val - 2 * s.dmp.step < s.dmp.avs → t.dmp.avs = s.dmp.avs)) ∧
    (∀ f, (s.atFclk f).watchdogDue = true → Runs (.bootWatchdog f) s fun t =>
      t.ctl.stage = .tinder ∧ t.ctl.wdFired = true ∧ t.ctl.fbAct = true ∧ t.ctl.cap3 = 0 ∧ t.ctl.sealen = false ∧ NoService t ∧
      AllEvents 0 t ∧ (t.pldm.slot (s.ctl.cap3.getLsbD 40)).failed = true)

/-- The Damper's limits, steps and voltage: a hold at 115 °C until it is below 100 °C, STEP 7 and gaps of 1024 at 105 °C, one
STEP more from 95 °C on, gaps of 64 above 330 W; the hold drives damper_hold and therm_trip; the voltage falls after a slower clock and
rises before a faster one (R343, R366, R369, R374, R376). That the rule of 105 °C applies from 115 °C on too, in the hold as well, and
that no voltage is requested when its code does not change, is the model's reading (log 42). -/
def Obligations.DamperRules : Prop :=
  ∀ s : State,
    (∀ temps watts f, s.damperUp = true → Runs (.damperSample temps watts f) s fun t =>
      (∀ k ∈ s.sensors, (s.sensor k).cal = false → (t.sensor k).temp = temps.getD k 0 ∧ (t.sensor k).valid = true) ∧
      (s.dmp.hhold = false → celsius 115 ≤ t.hotReading → t.dmp.hhold = true ∧ t.dmp.step = 7 ∧ AllEvents 4 t ∧
        .damperHold true ∈ t.out ∧ .thermTrip true ∈ t.out ∧ ∀ n : SliceId, n.val < s.nslices → (t.slice n).gap = 1024) ∧
      (s.dmp.hhold = false → celsius 105 ≤ t.hotReading → t.hotReading < celsius 115 → t.dmp.hhold = false ∧ t.dmp.step = 7 ∧
        ∀ n : SliceId, n.val < s.nslices → (t.slice n).gap = 1024) ∧
      (s.dmp.hhold = false → celsius 95 ≤ t.hotReading → t.hotReading < celsius 105 → s.dmp.step < 7 → s.dmp.upAt = none →
        t.dmp.step = s.dmp.step + 1 ∧ t.dmp.hhold = false ∧ AllEvents 4 t) ∧
      (s.dmp.hhold = true → t.hotReading < celsius 100 → t.dmp.hhold = false ∧ t.dmp.step = 7 ∧ AllEvents 4 t ∧
        .damperHold false ∈ t.out ∧ .thermTrip false ∈ t.out) ∧
      (s.dmp.hhold = true → celsius 100 ≤ t.hotReading → t.hotReading < celsius 105 → t.dmp.hhold = true ∧ t.dmp.step = s.dmp.step) ∧
      (s.dmp.hhold = true → celsius 105 ≤ t.hotReading → t.dmp.hhold = true ∧ t.dmp.step = 7 ∧
        ∀ n : SliceId, n.val < s.nslices → (t.slice n).gap = 1024) ∧
      (330 < watts → s.dmp.gap = 0 → t.hotReading < celsius 105 → t.dmp.gap = 64)) ∧
    (∀ k, s.dmp.req = some k →
      (s.codeFor k < s.dmp.avs → s.dmp.wait = none → Runs .pclkStepDone s fun t =>
        t = { s with dmp := { s.dmp with req := none, avs := s.codeFor k }, out := s.out ++ [.avsReq (s.codeFor k)] }) ∧
      ((s.dmp.avs ≤ s.codeFor k ∨ s.dmp.wait ≠ none) → Runs .pclkStepDone s fun t => t = { s with dmp := { s.dmp with req := none } })) ∧
    (∀ k, s.dmp.wait = some k →
      (Runs .avsAck s fun t => t.dmp = { s.dmp with step := k, req := some k, wait := none, downAt := some s.clk.fclk } ∧
        t.out = s.out ++ [.damperStep k] ∧ (s.dmp.step ≠ k → AllEvents 4 t) ∧
        t = { s with dmp := t.dmp, hosts := t.hosts, out := t.out }) ∧
      (Runs .avsAckTimeout s fun t => t = { s with out := s.out ++ [.avsReq s.dmp.avs] })) ∧
    (s.dmp.wait = none → exec .avsAck s = .next s ∧ exec .avsAckTimeout s = .next s)

/-- Supplies and the test network: a fault of VDD_PTU or VDD_RICK holds every unit in reset, one of VDD_EMBER isolates Ember
alone; S0 opens at once; another permitted segment waits in TINDER or QUENCHED until the work has ended and the units that it covers are
wiped, of which S5, the raw samples of Ember's sources, has none that holds state; the close of S1 to S6 resets the part, which stays in
reset while ptu_rst_n or a rail fault holds it (R370, R372, R373, R378, R379). -/
def Obligations.SuppliesAndSegments : Prop :=
  ∀ s : State,
    let isolated (t : State) : Prop := t.emb.isolated = true ∧ (s.emb.isolated = false → t.emb.healthOk = false ∧ t.emb.keysOk = false ∧
      t.emb.rsp = none ∧ t.emb.nonce = none)
    (Runs .emberPowerLoss s fun t => isolated t ∧ t = { s with emb := t.emb, edge := { s.edge with emberPwrEn := false } }) ∧
    (Runs (.railFault 2) s fun t => isolated t ∧ t = { s with
      emb := t.emb, edge := { s.edge with pwrFault := true, railGood := s.edge.railGood &&& 3 }, out := s.out ++ [.pwrFault] }) ∧
    (∀ rail : Fin 3, rail ≠ 2 → Runs (.railFault rail) s fun t =>
      NoService t ∧ t.ctl = { stage := .reset, inReset := true } ∧ t.hosts = [] ∧ t.slices = [] ∧ t.edge.pwrFault = true ∧
      t.edge.faultHold = true ∧ (∀ k, k < 3 → t.edge.railGood.getLsbD k = (s.edge.railGood.getLsbD k && decide (k ≠ rail.val))) ∧
      t.part = s.part ∧ t.out = s.out ++ [.pwrFault]) ∧
    (Runs (.segmentInsert 0) s fun t => t = { s with edge := { s.edge with segs := s.edge.segs ||| 1 } }) ∧
    (∀ k : Fin 7, k ≠ 0 → segPermitted s.part.lc k.val = true → s.ctl.stage = .tinder → Runs (.segmentInsert k) s fun t =>
      t.edge = { s.edge with segWait := s.edge.segWait ||| BitVec.ofNat 7 (2 ^ k.val), fbStopped := true }) ∧
    (∀ k : Fin 7, segPermitted s.part.lc k.val = false → exec (.segmentInsert k) s = .next s) ∧
    (∀ k : Fin 7, k ≠ 0 → segPermitted s.part.lc k.val = true → s.ctl.stage = .quenched → s.ctl.quenching = false →
      Runs (.segmentInsert k) s fun t => t = { s with edge := { s.edge with segWait := s.edge.segWait ||| BitVec.ofNat 7 (2 ^ k.val) } }) ∧
    (∀ k : Fin 7, k ≠ 0 → s.ctl.stage ≠ .tinder → (s.ctl.stage ≠ .quenched ∨ s.ctl.quenching = true) →
      exec (.segmentInsert k) s = .next s) ∧
    (∀ k : Fin 7, (s.edge.segWait.getLsbD k.val = false ∨ segPermitted s.part.lc k.val = false ∨ s.workDone = false) →
      exec (.segmentOpen k) s = .next s) ∧
    (∀ k : Fin 7, s.edge.segWait.getLsbD k.val = true → segPermitted s.part.lc k.val = true →
      (s.ctl.stage = .tinder ∨ s.ctl.stage = .quenched) → s.workDone = true → Runs (.segmentOpen k) s fun t =>
        t.edge = { s.edge with segs := s.edge.segs ||| BitVec.ofNat 7 (2 ^ k.val), segWait := s.edge.segWait &&& ~~~ BitVec.ofNat 7 (2 ^ k.val) } ∧
        (1 ≤ k.val → k.val ≤ 3 → ∀ n, SliceEmpty (t.slice n)) ∧
        (k.val = 3 → t.rings = [] ∧ t.ctxs = [] ∧ t.sync = [] ∧ t.ports.reqs = [] ∧ t.ports.arbs = [] ∧ t.fw = {}) ∧
        (k.val = 4 → (∀ n : SliceId, n.val < s.nslices → (t.slice n).share1 = 0 ∧ (t.slice n).share2 = 0 ∧ (t.slice n).seed = 0 ∧
            (t.slice n).expander = [] ∧ (t.slice n).conv = 0 ∧ (t.slice n).adder = 0) ∧ t = { s with slices := t.slices, edge := t.edge }) ∧
        (k.val = 5 → t = { s with edge := t.edge }) ∧
        (k.val = 6 → t.emb.ckpts = [] ∧ t.emb.nonce = none ∧ t.emb.req = none ∧ t.emb.rsp = none ∧ t = { s with emb := t.emb, edge := t.edge })) ∧
    (2 ≤ s.edge.segs.toNat → Runs .segmentClose s fun t =>
      NoService t ∧ t.ctl = { stage := .reset, inReset := s.edge.rst || s.edge.faultHold } ∧ t.edge.segs = s.edge.segs &&& 1 ∧ t.edge.segWait = 0 ∧ t.part = s.part) ∧
    (s.edge.segs.toNat < 2 → exec .segmentClose s = .next s)

/-! ### The whole machine -/

/-- The registers after reset read the values of R354 (Tables 15-4 to 15-28), nothing waits, no ring, context, session or key
set is there, and the memory is canonical. The identity of the part (variant, serial number, lifecycle state, floor, capacity)
and what has no reset value in the manual are the model's choice (log entries 3 and 4). -/
def Obligations.ResetHoldsItsValues : Prop :=
  let s := State.reset
  let reads (off : Nat) (v : W64) : Prop := s.regRead .mgmt off 8 = v
  s.pending = [] ∧ s.ctl.stage = .tinder ∧ s.fbWritable = true ∧ s.ctxs = [] ∧ s.keysets = [] ∧ MemoryCanonical s ∧
    (∀ r, s.ring r = {}) ∧ (∀ h, s.host h = {}) ∧ (∀ n, s.slice n = {}) ∧
    reads 0x00 0x1A1C0B24B0000000 ∧ reads 0x18 0xFFFFC010120AFF40 ∧ reads 0x20 0x1000804004002060 ∧ reads 0x28 0 ∧ reads 0x30 0x201 ∧
    reads 0x1000 0x100 ∧ reads 0x1008 0 ∧ reads 0x1020 0xC000 ∧
    (∀ h : HF, s.regRead (.host h) (0x10000 + 0x1000 * h.val) 8 = 0 ∧ s.regRead (.host h) (0x10000 + 0x1000 * h.val + 0x848) 8 = 0 ∧
      ∀ v : Fin 64, s.regRead (.host h) (0x10000 + 0x1000 * h.val + 0x108 + 16 * v.val) 8 = 2 ^ 48) ∧
    ∀ n : SliceId, s.regRead .mgmt (0x200000 + 0x10000 * n.val) 8 = 1

/-- Every step keeps the canonical form in which State holds the bytes of memory and SRAM: rising addresses, and no byte that reads as an
unlisted one does. The form is the model's own representation (logs 5 and 6): with it, equal contents are equal data, and a write that
is acknowledged (R95) is read back from one place. -/
def Obligations.StepKeepsMemoryCanonical : Prop :=
  ∀ s t : State, MemoryCanonical s → step s = .next t → MemoryCanonical t

/-- What is programmed once stays: no step changes the variant, the serial number or the capacity, and the rollback floor and
Ember's power-on count never fall and keep their ranges (R320, R355, R370). -/
def Obligations.StepKeepsPart : Prop :=
  ∀ s t : State, s.part.floor ≤ 127 → s.part.powerOns ≤ 2048 → step s = .next t →
    t.part.variant = s.part.variant ∧ t.part.serial = s.part.serial ∧ t.part.capacity = s.part.capacity ∧
      s.part.floor ≤ t.part.floor ∧ t.part.floor ≤ 127 ∧ s.part.powerOns ≤ t.part.powerOns ∧ t.part.powerOns ≤ 2048
end

