-- ==== Sys2Proof/Laws/Table.lean ====
section
/-! SUPPORT. Laws of the sparse tables: what reads back after a change, what else stays, and that each change keeps the
canonical form. -/

namespace Sys2Proof.Machine

variable {α : Type}

/-! ### Reading back -/

@[simp] theorem tget_nil (k : Nat) (d : α) : tget [] k d = d := rfl

theorem tget_cons (e : Nat × α) (t : List (Nat × α)) (k : Nat) (d : α) :
    tget (e :: t) k d = if e.1 = k then e.2 else tget t k d := rfl

@[simp] theorem tget_tput_same (t : List (Nat × α)) (k : Nat) (v d : α) : tget (tput t k v) k d = v := by
  induction t with
  | nil => simp [tput, tget]
  | cons e t ih =>
    obtain ⟨i, w⟩ := e
    simp only [tput]
    split
    · simp [tget]
    · split
      · simp [tget]
      · simp [tget, *]

theorem tget_tput_ne (t : List (Nat × α)) {k j : Nat} (v d : α) (h : j ≠ k) : tget (tput t k v) j d = tget t j d := by
  induction t with
  | nil => simp [tput, tget, Ne.symm h]
  | cons e t ih =>
    obtain ⟨i, w⟩ := e
    simp only [tput]
    split
    · simp [tget, Ne.symm h]
    · split
      · rename_i hk; subst hk; simp [tget, Ne.symm h]
      · simp only [tget, ih]

theorem tget_tput (t : List (Nat × α)) (k j : Nat) (v d : α) : tget (tput t k v) j d = if j = k then v else tget t j d := by
  split
  · subst_vars; simp
  · exact tget_tput_ne t v d ‹_›

/-- Reading a table from which keys have been removed. -/
theorem tget_filter (t : List (Nat × α)) (p : Nat → Bool) (k : Nat) (d : α) :
    tget (t.filter fun e => p e.1) k d = if p k then tget t k d else d := by
  induction t with
  | nil => simp
  | cons e t ih =>
    obtain ⟨i, w⟩ := e
    by_cases hi : i = k <;> by_cases hp : p i <;> simp_all [tget]

theorem tget_tdel (t : List (Nat × α)) (k j : Nat) (d : α) : tget (tdel t k) j d = if j = k then d else tget t j d := by
  have h := tget_filter t (fun i => i != k) j d
  simp only [tdel, h]
  by_cases hj : j = k <;> simp [hj]

@[simp] theorem tget_tset_same [DecidableEq α] (d : α) (t : List (Nat × α)) (k : Nat) (v : α) : tget (tset d t k v) k d = v := by
  unfold tset
  split
  · simp [tget_tdel, *]
  · simp

theorem tget_tset_ne [DecidableEq α] (d : α) (t : List (Nat × α)) {k j : Nat} (v : α) (h : j ≠ k) :
    tget (tset d t k v) j d = tget t j d := by
  unfold tset
  split
  · simp [tget_tdel, h]
  · exact tget_tput_ne t v d h

theorem tget_tset [DecidableEq α] (d : α) (t : List (Nat × α)) (k j : Nat) (v : α) :
    tget (tset d t k v) j d = if j = k then v else tget t j d := by
  split
  · subst_vars; simp
  · exact tget_tset_ne d t v ‹_›

@[simp] theorem tget_tupd_same (t : List (Nat × α)) (k : Nat) (d : α) (f : α → α) : tget (tupd t k d f) k d = f (tget t k d) := by
  simp [tupd]

theorem tget_tupd_ne (t : List (Nat × α)) {k j : Nat} (d : α) (f : α → α) (h : j ≠ k) : tget (tupd t k d f) j d = tget t j d :=
  tget_tput_ne t _ d h

theorem tget_tcount (t : List (Nat × Nat)) (k j w n : Nat) :
    tget (tcount t k w n) j 0 = if j = k then min (tget t k 0 + n) (2 ^ w - 1) else tget t j 0 := by
  unfold tcount
  split
  · subst_vars; simp [sat]
  · exact tget_tupd_ne t 0 _ ‹_›

/-- A change of every value that keeps the default changes every read. -/
theorem tget_map (t : List (Nat × α)) (f : α → α) (k : Nat) (d : α) (h : f d = d) :
    tget (t.map fun e => (e.1, f e.2)) k d = f (tget t k d) := by
  induction t with
  | nil => simp [h]
  | cons e t ih =>
    simp only [List.map_cons, tget_cons, ih]
    split <;> rfl

/-! ### The canonical form -/

/-- Every key of the table is above `i`. -/
def tabove (i : Nat) (t : List (Nat × α)) : Prop := ∀ e ∈ t, i < e.1

theorem tsorted_cons (e : Nat × α) (t : List (Nat × α)) : tsorted (e :: t) = true ↔ tabove e.1 t ∧ tsorted t = true := by
  induction t generalizing e with
  | nil => simp [tsorted, tabove]
  | cons b t ih =>
    obtain ⟨i, v⟩ := e
    obtain ⟨j, w⟩ := b
    have hb := ih (j, w)
    simp only [tsorted, Bool.and_eq_true, decide_eq_true_eq, tabove, List.mem_cons, forall_eq_or_imp]
    constructor
    · rintro ⟨hij, hs⟩
      refine ⟨⟨hij, fun x hx => ?_⟩, hs⟩
      exact Nat.lt_trans hij ((hb.1 hs).1 x hx)
    · rintro ⟨⟨hij, _⟩, hs⟩
      exact ⟨hij, hs⟩

theorem mem_tput (t : List (Nat × α)) (k : Nat) (v : α) : ∀ e ∈ tput t k v, e = (k, v) ∨ e ∈ t := by
  induction t with
  | nil => simp [tput]
  | cons b t ih =>
    obtain ⟨i, w⟩ := b
    intro e he
    simp only [tput] at he
    split at he
    · simpa using he
    · split at he
      · simp only [List.mem_cons] at he ⊢
        exact he.imp id Or.inr
      · simp only [List.mem_cons] at he ⊢
        rcases he with he | he
        · exact .inr (.inl he)
        · exact (ih e he).imp id Or.inr

theorem tsorted_tput (t : List (Nat × α)) (k : Nat) (v : α) (h : tsorted t = true) : tsorted (tput t k v) = true := by
  induction t with
  | nil => simp [tput, tsorted]
  | cons b t ih =>
    obtain ⟨i, w⟩ := b
    have hb := (tsorted_cons (i, w) t).1 h
    simp only [tput]
    split
    · rename_i hk
      refine (tsorted_cons _ _).2 ⟨?_, h⟩
      intro x hx
      simp only [List.mem_cons] at hx
      rcases hx with rfl | hx
      · exact hk
      · exact Nat.lt_trans hk (hb.1 x hx)
    · split
      · rename_i hk
        subst hk
        exact (tsorted_cons _ _).2 hb
      · refine (tsorted_cons _ _).2 ⟨?_, ih hb.2⟩
        intro x hx
        rcases mem_tput t k v x hx with rfl | hx
        · show i < k; omega
        · exact hb.1 x hx

theorem tsorted_filter (t : List (Nat × α)) (p : Nat × α → Bool) (h : tsorted t = true) : tsorted (t.filter p) = true := by
  induction t with
  | nil => simp [tsorted]
  | cons b t ih =>
    have hb := (tsorted_cons b t).1 h
    rw [List.filter_cons]
    split
    · refine (tsorted_cons _ _).2 ⟨fun x hx => hb.1 x ((List.mem_filter.1 hx).1), ih hb.2⟩
    · exact ih hb.2

theorem twf_iff [DecidableEq α] (d : α) (t : List (Nat × α)) : twf d t = true ↔ tsorted t = true ∧ ∀ e ∈ t, e.2 ≠ d := by
  simp [twf]

theorem twf_tput [DecidableEq α] (d : α) (t : List (Nat × α)) (k : Nat) (v : α) (hv : v ≠ d) (h : twf d t = true) :
    twf d (tput t k v) = true := by
  rw [twf_iff] at h ⊢
  refine ⟨tsorted_tput t k v h.1, fun e he => ?_⟩
  rcases mem_tput t k v e he with rfl | he
  · exact hv
  · exact h.2 e he

theorem twf_filter [DecidableEq α] (d : α) (t : List (Nat × α)) (p : Nat × α → Bool) (h : twf d t = true) :
    twf d (t.filter p) = true := by
  rw [twf_iff] at h ⊢
  exact ⟨tsorted_filter t p h.1, fun e he => h.2 e ((List.mem_filter.1 he).1)⟩

theorem twf_tset [DecidableEq α] (d : α) (t : List (Nat × α)) (k : Nat) (v : α) (h : twf d t = true) : twf d (tset d t k v) = true := by
  unfold tset
  split
  · exact twf_filter d t _ h
  · exact twf_tput d t k v ‹_› h

end Sys2Proof.Machine
end

