-- ==== Sys2Proof/Laws/Cells.lean ====
section
/-! SUPPORT. What a fold over the cells of a shape writes into a tile or a Char register: every cell once,
and nothing else. -/

namespace Sys2Proof.Machine

/-! ### Folds over cells -/

/-- What every cell keeps, the fold keeps. -/
theorem overCells_keeps {α : Type} (P : α → Prop) (f : α → Nat → Nat → α) (hf : ∀ a r l, P a → P (f a r l)) (rows cols : Nat) (a : α)
    (h : P a) : P (overCells rows cols a f) := by
  have row : ∀ (r : Nat) (ls : List Nat) (x : α), P x → P (ls.foldl (fun x l => f x r l) x) := by
    intro r ls
    induction ls with
    | nil => intro x hx; exact hx
    | cons l ls ih => intro x hx; exact ih _ (hf x r l hx)
  have all : ∀ (rs : List Nat) (x : α), P x → P (rs.foldl (fun x r => (List.range cols).foldl (fun x l => f x r l) x) x) := by
    intro rs
    induction rs with
    | nil => intro x hx; exact hx
    | cons r rs ih => intro x hx; exact ih _ (row r _ x hx)
  exact all _ _ h

/-- A table into which a fold over `ks` writes `g k` under key `key k`, with keys that differ: what reads back. -/
theorem tget_foldl_tset {α β : Type} [DecidableEq α] (d : α) (key : β → Nat) (g : β → α) (ks : List β) (t : List (Nat × α)) (j : Nat) :
    (∀ k ∈ ks, key k ≠ j) → tget (ks.foldl (fun t k => tset d t (key k) (g k)) t) j d = tget t j d := by
  induction ks generalizing t with
  | nil => intro _; rfl
  | cons k ks ih =>
    intro h
    rw [List.foldl_cons, ih _ fun x hx => h x (List.mem_cons_of_mem _ hx)]
    exact tget_tset_ne d t (g k) (Ne.symm (h k List.mem_cons_self))

theorem tget_foldl_tset_mem {α β : Type} [DecidableEq α] [DecidableEq β] (d : α) (key : β → Nat) (g : β → α) (ks : List β)
    (t : List (Nat × α)) (j : β) (hj : j ∈ ks) (inj : ∀ k ∈ ks, key k = key j → k = j) :
    tget (ks.foldl (fun t k => tset d t (key k) (g k)) t) (key j) d = g j := by
  induction ks generalizing t with
  | nil => cases hj
  | cons k ks ih =>
    rw [List.foldl_cons]
    by_cases h : j ∈ ks
    · exact ih _ h fun x hx => inj x (List.mem_cons_of_mem _ hx)
    · have e : k = j := by
        cases List.mem_cons.1 hj with
        | inl e => exact e.symm
        | inr m => exact absurd m h
      subst e
      rw [tget_foldl_tset d key g ks _ _ fun x hx e => h (inj x (List.mem_cons_of_mem _ hx) e ▸ hx), tget_tset]
      simp

/-- The cells of a shape, in the order of the fold. -/
def cells (rows cols : Nat) : List (Nat × Nat) := (List.range rows).flatMap fun r => (List.range cols).map fun l => (r, l)

theorem mem_cells (rows cols : Nat) (c : Nat × Nat) : c ∈ cells rows cols ↔ c.1 < rows ∧ c.2 < cols := by
  unfold cells
  simp only [List.mem_flatMap, List.mem_map, List.mem_range]
  constructor
  · rintro ⟨r, hr, l, hl, rfl⟩; exact ⟨hr, hl⟩
  · rintro ⟨hr, hl⟩; exact ⟨c.1, hr, c.2, hl, rfl⟩

theorem overCells_eq {α : Type} (rows cols : Nat) (a : α) (f : α → Nat → Nat → α) :
    overCells rows cols a f = (cells rows cols).foldl (fun a c => f a c.1 c.2) a := by
  unfold overCells cells
  rw [List.foldl_flatMap]
  simp only [List.foldl_map]

/-! ### Tiles -/

/-- The unit after a fold that writes cells of tile b: the tile table alone changes. -/
theorem overCells_setEl (rows cols b : Nat) (u : TileUnit) (g : Nat → Nat → Nat) :
    overCells rows cols u (fun w r l => w.setEl b r l (g r l)) = { u with
      tile := (cells rows cols).foldl (fun t c => tset 0 t (16384 * b + 128 * c.1 + c.2) (BitVec.ofNat 64 (g c.1 c.2))) u.tile } := by
  rw [overCells_eq]
  generalize cells rows cols = cs
  induction cs generalizing u with
  | nil => rfl
  | cons c cs ih => rw [List.foldl_cons, List.foldl_cons, ih]; rfl

/-- What a cell that was written reads. -/
theorem el_overCells (rows cols b : Nat) (u : TileUnit) (g : Nat → Nat → Nat) (hc : cols ≤ 128) (r l : Nat) (hr : r < rows)
    (hl : l < cols) : (overCells rows cols u fun w r l => w.setEl b r l (g r l)).el b r l = g r l % 2 ^ 64 := by
  rw [overCells_setEl]
  have h := tget_foldl_tset_mem (0 : W64) (fun c : Nat × Nat => 16384 * b + 128 * c.1 + c.2)
    (fun c : Nat × Nat => BitVec.ofNat 64 (g c.1 c.2)) (cells rows cols) u.tile (r, l) ((mem_cells _ _ _).2 ⟨hr, hl⟩) (by
      intro c m e
      have := (mem_cells _ _ _).1 m
      have h2 : c.1 = r := by omega
      have h3 : c.2 = l := by omega
      exact Prod.ext h2 h3)
  show (tget _ (16384 * b + 128 * r + l) (0 : W64)).toNat = _
  rw [h]
  exact BitVec.toNat_ofNat _ _

/-- What a cell of another tile reads. -/
theorem el_overCells_ne (rows cols b a : Nat) (u : TileUnit) (g : Nat → Nat → Nat) (hrows : rows ≤ 128) (hc : cols ≤ 128) (hab : a ≠ b)
    (r l : Nat) (hr : r < 128) (hl : l < 128) : (overCells rows cols u fun w r l => w.setEl b r l (g r l)).el a r l = u.el a r l := by
  rw [overCells_setEl]
  have h := tget_foldl_tset (0 : W64) (fun c : Nat × Nat => 16384 * b + 128 * c.1 + c.2)
    (fun c : Nat × Nat => BitVec.ofNat 64 (g c.1 c.2)) (cells rows cols) u.tile (16384 * a + 128 * r + l) (by
      intro c m
      have := (mem_cells _ _ _).1 m
      omega)
  show (tget _ (16384 * a + 128 * r + l) (0 : W64)).toNat = (tget u.tile _ (0 : W64)).toNat
  rw [h]

/-! ### Char registers -/

theorem overCells_setVt (cols b : Nat) (u : TileUnit) (g : Nat → Nat → Nat) :
    overCells 1 cols u (fun w r l => w.setVt b l (g r l)) = { u with
      vt := (cells 1 cols).foldl (fun t c => tset 0 t (128 * (b - 0x20) + c.2) (BitVec.ofNat 64 (g c.1 c.2))) u.vt } := by
  rw [overCells_eq]
  generalize cells 1 cols = cs
  induction cs generalizing u with
  | nil => rfl
  | cons c cs ih => rw [List.foldl_cons, List.foldl_cons, ih]; rfl

/-- What a lane of the Char register that was written reads. -/
theorem vtLane_overCells (b : Nat) (u : TileUnit) (g : Nat → Nat → Nat) (l : Nat) (hl : l < 128) :
    (overCells 1 128 u fun w r l => w.setVt b l (g r l)).vtLane b l = g 0 l % 2 ^ 64 := by
  rw [overCells_setVt]
  have h := tget_foldl_tset_mem (0 : W64) (fun c : Nat × Nat => 128 * (b - 0x20) + c.2)
    (fun c : Nat × Nat => BitVec.ofNat 64 (g c.1 c.2)) (cells 1 128) u.vt (0, l) ((mem_cells _ _ _).2 ⟨Nat.one_pos, hl⟩) (by
      intro c m e
      have := (mem_cells _ _ _).1 m
      have h2 : c.1 = 0 := by omega
      have h3 : c.2 = l := by omega
      exact Prod.ext h2 h3)
  show (tget _ (128 * (b - 0x20) + l) (0 : W64)).toNat = _
  rw [h]
  exact BitVec.toNat_ofNat _ _

/-! ### The command of one instruction -/

/-- A tile row that runs writes its slice, after its issue gap, sets its free values aside, and goes on to the next share at the end of the
program. -/
theorem tileRow_runs (op : Nat) (n : SliceId) (dst sa sb : Byte) (md : W32) (s : State) (hp : s.pclkRuns = true)
    (hn : n.val < s.nslices) (hl : s.live n.val = true) (hr : s.tileRuns n.val = true)
    (ha : tileAdmits s (s.slice n) ⟨op, dst.toNat, sa.toNat, sb.toNat, md.toNat⟩ = true) :
    let u := if (s.slice n).gap = 0 then s else s.atPclk ((s.slice n).nextIssue (s.slice n).unit)
    tileRow op n dst sa sb md s =
      .next (((u.setSlice n { tileDo u (u.tileStack n.val) u.clk.free (s.slice n) ⟨op, dst.toNat, sa.toNat, sb.toNat, md.toNat⟩ with
        issued := some (u.clk.pclk, (s.slice n).unit) }).useFree tileFree).nextShare n.val) := by
  unfold tileRow onPclk onSlice
  simp only [hp, hn, hl, hr, ha, Bool.and_self, if_true]

end Sys2Proof.Machine
end

