-- ==== Sys2Proof/Laws/State.lean ====
section
/-! SUPPORT. What each named update of the state leaves alone, one lemma per field, and what it writes reads back. -/

namespace Sys2Proof.Machine

variable (s : State)

/-! ### setHost -/

@[simp] theorem State.setHost_clk (h : HF) (v : HostFn) : (s.setHost h v).clk = s.clk := rfl
@[simp] theorem State.setHost_part (h : HF) (v : HostFn) : (s.setHost h v).part = s.part := rfl
@[simp] theorem State.setHost_ctl (h : HF) (v : HostFn) : (s.setHost h v).ctl = s.ctl := rfl
@[simp] theorem State.setHost_mem (h : HF) (v : HostFn) : (s.setHost h v).mem = s.mem := rfl
@[simp] theorem State.setHost_poison (h : HF) (v : HostFn) : (s.setHost h v).poison = s.poison := rfl
@[simp] theorem State.setHost_grants (h : HF) (v : HostFn) : (s.setHost h v).grants = s.grants := rfl
@[simp] theorem State.setHost_zeroing (h : HF) (v : HostFn) : (s.setHost h v).zeroing = s.zeroing := rfl
@[simp] theorem State.setHost_heldBy (h : HF) (v : HostFn) : (s.setHost h v).heldBy = s.heldBy := rfl
@[simp] theorem State.setHost_xl (h : HF) (v : HostFn) : (s.setHost h v).xl = s.xl := rfl
@[simp] theorem State.setHost_rings (h : HF) (v : HostFn) : (s.setHost h v).rings = s.rings := rfl
@[simp] theorem State.setHost_blocks (h : HF) (v : HostFn) : (s.setHost h v).blocks = s.blocks := rfl
@[simp] theorem State.setHost_fetches (h : HF) (v : HostFn) : (s.setHost h v).fetches = s.fetches := rfl
@[simp] theorem State.setHost_ctxs (h : HF) (v : HostFn) : (s.setHost h v).ctxs = s.ctxs := rfl
@[simp] theorem State.setHost_sync (h : HF) (v : HostFn) : (s.setHost h v).sync = s.sync := rfl
@[simp] theorem State.setHost_slices (h : HF) (v : HostFn) : (s.setHost h v).slices = s.slices := rfl
@[simp] theorem State.setHost_flue (h : HF) (v : HostFn) : (s.setHost h v).flue = s.flue := rfl
@[simp] theorem State.setHost_ports (h : HF) (v : HostFn) : (s.setHost h v).ports = s.ports := rfl
@[simp] theorem State.setHost_sched (h : HF) (v : HostFn) : (s.setHost h v).sched = s.sched := rfl
@[simp] theorem State.setHost_hl (h : HF) (v : HostFn) : (s.setHost h v).hl = s.hl := rfl
@[simp] theorem State.setHost_keysets (h : HF) (v : HostFn) : (s.setHost h v).keysets = s.keysets := rfl
@[simp] theorem State.setHost_log (h : HF) (v : HostFn) : (s.setHost h v).log = s.log := rfl
@[simp] theorem State.setHost_fw (h : HF) (v : HostFn) : (s.setHost h v).fw = s.fw := rfl
@[simp] theorem State.setHost_emb (h : HF) (v : HostFn) : (s.setHost h v).emb = s.emb := rfl
@[simp] theorem State.setHost_led (h : HF) (v : HostFn) : (s.setHost h v).led = s.led := rfl
@[simp] theorem State.setHost_pldm (h : HF) (v : HostFn) : (s.setHost h v).pldm = s.pldm := rfl
@[simp] theorem State.setHost_dmp (h : HF) (v : HostFn) : (s.setHost h v).dmp = s.dmp := rfl
@[simp] theorem State.setHost_edge (h : HF) (v : HostFn) : (s.setHost h v).edge = s.edge := rfl
@[simp] theorem State.setHost_out (h : HF) (v : HostFn) : (s.setHost h v).out = s.out := rfl
@[simp] theorem State.setHost_pending (h : HF) (v : HostFn) : (s.setHost h v).pending = s.pending := rfl

/-! ### updHost -/

@[simp] theorem State.updHost_clk (h : HF) (f : HostFn → HostFn) : (s.updHost h f).clk = s.clk := rfl
@[simp] theorem State.updHost_part (h : HF) (f : HostFn → HostFn) : (s.updHost h f).part = s.part := rfl
@[simp] theorem State.updHost_ctl (h : HF) (f : HostFn → HostFn) : (s.updHost h f).ctl = s.ctl := rfl
@[simp] theorem State.updHost_mem (h : HF) (f : HostFn → HostFn) : (s.updHost h f).mem = s.mem := rfl
@[simp] theorem State.updHost_poison (h : HF) (f : HostFn → HostFn) : (s.updHost h f).poison = s.poison := rfl
@[simp] theorem State.updHost_grants (h : HF) (f : HostFn → HostFn) : (s.updHost h f).grants = s.grants := rfl
@[simp] theorem State.updHost_zeroing (h : HF) (f : HostFn → HostFn) : (s.updHost h f).zeroing = s.zeroing := rfl
@[simp] theorem State.updHost_heldBy (h : HF) (f : HostFn → HostFn) : (s.updHost h f).heldBy = s.heldBy := rfl
@[simp] theorem State.updHost_xl (h : HF) (f : HostFn → HostFn) : (s.updHost h f).xl = s.xl := rfl
@[simp] theorem State.updHost_rings (h : HF) (f : HostFn → HostFn) : (s.updHost h f).rings = s.rings := rfl
@[simp] theorem State.updHost_blocks (h : HF) (f : HostFn → HostFn) : (s.updHost h f).blocks = s.blocks := rfl
@[simp] theorem State.updHost_fetches (h : HF) (f : HostFn → HostFn) : (s.updHost h f).fetches = s.fetches := rfl
@[simp] theorem State.updHost_ctxs (h : HF) (f : HostFn → HostFn) : (s.updHost h f).ctxs = s.ctxs := rfl
@[simp] theorem State.updHost_sync (h : HF) (f : HostFn → HostFn) : (s.updHost h f).sync = s.sync := rfl
@[simp] theorem State.updHost_slices (h : HF) (f : HostFn → HostFn) : (s.updHost h f).slices = s.slices := rfl
@[simp] theorem State.updHost_flue (h : HF) (f : HostFn → HostFn) : (s.updHost h f).flue = s.flue := rfl
@[simp] theorem State.updHost_ports (h : HF) (f : HostFn → HostFn) : (s.updHost h f).ports = s.ports := rfl
@[simp] theorem State.updHost_sched (h : HF) (f : HostFn → HostFn) : (s.updHost h f).sched = s.sched := rfl
@[simp] theorem State.updHost_hl (h : HF) (f : HostFn → HostFn) : (s.updHost h f).hl = s.hl := rfl
@[simp] theorem State.updHost_keysets (h : HF) (f : HostFn → HostFn) : (s.updHost h f).keysets = s.keysets := rfl
@[simp] theorem State.updHost_log (h : HF) (f : HostFn → HostFn) : (s.updHost h f).log = s.log := rfl
@[simp] theorem State.updHost_fw (h : HF) (f : HostFn → HostFn) : (s.updHost h f).fw = s.fw := rfl
@[simp] theorem State.updHost_emb (h : HF) (f : HostFn → HostFn) : (s.updHost h f).emb = s.emb := rfl
@[simp] theorem State.updHost_led (h : HF) (f : HostFn → HostFn) : (s.updHost h f).led = s.led := rfl
@[simp] theorem State.updHost_pldm (h : HF) (f : HostFn → HostFn) : (s.updHost h f).pldm = s.pldm := rfl
@[simp] theorem State.updHost_dmp (h : HF) (f : HostFn → HostFn) : (s.updHost h f).dmp = s.dmp := rfl
@[simp] theorem State.updHost_edge (h : HF) (f : HostFn → HostFn) : (s.updHost h f).edge = s.edge := rfl
@[simp] theorem State.updHost_out (h : HF) (f : HostFn → HostFn) : (s.updHost h f).out = s.out := rfl
@[simp] theorem State.updHost_pending (h : HF) (f : HostFn → HostFn) : (s.updHost h f).pending = s.pending := rfl

/-! ### setRing -/

@[simp] theorem State.setRing_clk (r : RingId) (v : Ring) : (s.setRing r v).clk = s.clk := rfl
@[simp] theorem State.setRing_part (r : RingId) (v : Ring) : (s.setRing r v).part = s.part := rfl
@[simp] theorem State.setRing_ctl (r : RingId) (v : Ring) : (s.setRing r v).ctl = s.ctl := rfl
@[simp] theorem State.setRing_mem (r : RingId) (v : Ring) : (s.setRing r v).mem = s.mem := rfl
@[simp] theorem State.setRing_poison (r : RingId) (v : Ring) : (s.setRing r v).poison = s.poison := rfl
@[simp] theorem State.setRing_grants (r : RingId) (v : Ring) : (s.setRing r v).grants = s.grants := rfl
@[simp] theorem State.setRing_zeroing (r : RingId) (v : Ring) : (s.setRing r v).zeroing = s.zeroing := rfl
@[simp] theorem State.setRing_heldBy (r : RingId) (v : Ring) : (s.setRing r v).heldBy = s.heldBy := rfl
@[simp] theorem State.setRing_xl (r : RingId) (v : Ring) : (s.setRing r v).xl = s.xl := rfl
@[simp] theorem State.setRing_blocks (r : RingId) (v : Ring) : (s.setRing r v).blocks = s.blocks := rfl
@[simp] theorem State.setRing_fetches (r : RingId) (v : Ring) : (s.setRing r v).fetches = s.fetches := rfl
@[simp] theorem State.setRing_ctxs (r : RingId) (v : Ring) : (s.setRing r v).ctxs = s.ctxs := rfl
@[simp] theorem State.setRing_hosts (r : RingId) (v : Ring) : (s.setRing r v).hosts = s.hosts := rfl
@[simp] theorem State.setRing_sync (r : RingId) (v : Ring) : (s.setRing r v).sync = s.sync := rfl
@[simp] theorem State.setRing_slices (r : RingId) (v : Ring) : (s.setRing r v).slices = s.slices := rfl
@[simp] theorem State.setRing_flue (r : RingId) (v : Ring) : (s.setRing r v).flue = s.flue := rfl
@[simp] theorem State.setRing_ports (r : RingId) (v : Ring) : (s.setRing r v).ports = s.ports := rfl
@[simp] theorem State.setRing_sched (r : RingId) (v : Ring) : (s.setRing r v).sched = s.sched := rfl
@[simp] theorem State.setRing_hl (r : RingId) (v : Ring) : (s.setRing r v).hl = s.hl := rfl
@[simp] theorem State.setRing_keysets (r : RingId) (v : Ring) : (s.setRing r v).keysets = s.keysets := rfl
@[simp] theorem State.setRing_log (r : RingId) (v : Ring) : (s.setRing r v).log = s.log := rfl
@[simp] theorem State.setRing_fw (r : RingId) (v : Ring) : (s.setRing r v).fw = s.fw := rfl
@[simp] theorem State.setRing_emb (r : RingId) (v : Ring) : (s.setRing r v).emb = s.emb := rfl
@[simp] theorem State.setRing_led (r : RingId) (v : Ring) : (s.setRing r v).led = s.led := rfl
@[simp] theorem State.setRing_pldm (r : RingId) (v : Ring) : (s.setRing r v).pldm = s.pldm := rfl
@[simp] theorem State.setRing_dmp (r : RingId) (v : Ring) : (s.setRing r v).dmp = s.dmp := rfl
@[simp] theorem State.setRing_edge (r : RingId) (v : Ring) : (s.setRing r v).edge = s.edge := rfl
@[simp] theorem State.setRing_out (r : RingId) (v : Ring) : (s.setRing r v).out = s.out := rfl
@[simp] theorem State.setRing_pending (r : RingId) (v : Ring) : (s.setRing r v).pending = s.pending := rfl

/-! ### updRing -/

@[simp] theorem State.updRing_clk (r : RingId) (f : Ring → Ring) : (s.updRing r f).clk = s.clk := rfl
@[simp] theorem State.updRing_part (r : RingId) (f : Ring → Ring) : (s.updRing r f).part = s.part := rfl
@[simp] theorem State.updRing_ctl (r : RingId) (f : Ring → Ring) : (s.updRing r f).ctl = s.ctl := rfl
@[simp] theorem State.updRing_mem (r : RingId) (f : Ring → Ring) : (s.updRing r f).mem = s.mem := rfl
@[simp] theorem State.updRing_poison (r : RingId) (f : Ring → Ring) : (s.updRing r f).poison = s.poison := rfl
@[simp] theorem State.updRing_grants (r : RingId) (f : Ring → Ring) : (s.updRing r f).grants = s.grants := rfl
@[simp] theorem State.updRing_zeroing (r : RingId) (f : Ring → Ring) : (s.updRing r f).zeroing = s.zeroing := rfl
@[simp] theorem State.updRing_heldBy (r : RingId) (f : Ring → Ring) : (s.updRing r f).heldBy = s.heldBy := rfl
@[simp] theorem State.updRing_xl (r : RingId) (f : Ring → Ring) : (s.updRing r f).xl = s.xl := rfl
@[simp] theorem State.updRing_blocks (r : RingId) (f : Ring → Ring) : (s.updRing r f).blocks = s.blocks := rfl
@[simp] theorem State.updRing_fetches (r : RingId) (f : Ring → Ring) : (s.updRing r f).fetches = s.fetches := rfl
@[simp] theorem State.updRing_ctxs (r : RingId) (f : Ring → Ring) : (s.updRing r f).ctxs = s.ctxs := rfl
@[simp] theorem State.updRing_hosts (r : RingId) (f : Ring → Ring) : (s.updRing r f).hosts = s.hosts := rfl
@[simp] theorem State.updRing_sync (r : RingId) (f : Ring → Ring) : (s.updRing r f).sync = s.sync := rfl
@[simp] theorem State.updRing_slices (r : RingId) (f : Ring → Ring) : (s.updRing r f).slices = s.slices := rfl
@[simp] theorem State.updRing_flue (r : RingId) (f : Ring → Ring) : (s.updRing r f).flue = s.flue := rfl
@[simp] theorem State.updRing_ports (r : RingId) (f : Ring → Ring) : (s.updRing r f).ports = s.ports := rfl
@[simp] theorem State.updRing_sched (r : RingId) (f : Ring → Ring) : (s.updRing r f).sched = s.sched := rfl
@[simp] theorem State.updRing_hl (r : RingId) (f : Ring → Ring) : (s.updRing r f).hl = s.hl := rfl
@[simp] theorem State.updRing_keysets (r : RingId) (f : Ring → Ring) : (s.updRing r f).keysets = s.keysets := rfl
@[simp] theorem State.updRing_log (r : RingId) (f : Ring → Ring) : (s.updRing r f).log = s.log := rfl
@[simp] theorem State.updRing_fw (r : RingId) (f : Ring → Ring) : (s.updRing r f).fw = s.fw := rfl
@[simp] theorem State.updRing_emb (r : RingId) (f : Ring → Ring) : (s.updRing r f).emb = s.emb := rfl
@[simp] theorem State.updRing_led (r : RingId) (f : Ring → Ring) : (s.updRing r f).led = s.led := rfl
@[simp] theorem State.updRing_pldm (r : RingId) (f : Ring → Ring) : (s.updRing r f).pldm = s.pldm := rfl
@[simp] theorem State.updRing_dmp (r : RingId) (f : Ring → Ring) : (s.updRing r f).dmp = s.dmp := rfl
@[simp] theorem State.updRing_edge (r : RingId) (f : Ring → Ring) : (s.updRing r f).edge = s.edge := rfl
@[simp] theorem State.updRing_out (r : RingId) (f : Ring → Ring) : (s.updRing r f).out = s.out := rfl
@[simp] theorem State.updRing_pending (r : RingId) (f : Ring → Ring) : (s.updRing r f).pending = s.pending := rfl

/-! ### setSlice -/

@[simp] theorem State.setSlice_clk (n : SliceId) (v : Slice) : (s.setSlice n v).clk = s.clk := rfl
@[simp] theorem State.setSlice_part (n : SliceId) (v : Slice) : (s.setSlice n v).part = s.part := rfl
@[simp] theorem State.setSlice_ctl (n : SliceId) (v : Slice) : (s.setSlice n v).ctl = s.ctl := rfl
@[simp] theorem State.setSlice_mem (n : SliceId) (v : Slice) : (s.setSlice n v).mem = s.mem := rfl
@[simp] theorem State.setSlice_poison (n : SliceId) (v : Slice) : (s.setSlice n v).poison = s.poison := rfl
@[simp] theorem State.setSlice_grants (n : SliceId) (v : Slice) : (s.setSlice n v).grants = s.grants := rfl
@[simp] theorem State.setSlice_zeroing (n : SliceId) (v : Slice) : (s.setSlice n v).zeroing = s.zeroing := rfl
@[simp] theorem State.setSlice_heldBy (n : SliceId) (v : Slice) : (s.setSlice n v).heldBy = s.heldBy := rfl
@[simp] theorem State.setSlice_xl (n : SliceId) (v : Slice) : (s.setSlice n v).xl = s.xl := rfl
@[simp] theorem State.setSlice_rings (n : SliceId) (v : Slice) : (s.setSlice n v).rings = s.rings := rfl
@[simp] theorem State.setSlice_blocks (n : SliceId) (v : Slice) : (s.setSlice n v).blocks = s.blocks := rfl
@[simp] theorem State.setSlice_fetches (n : SliceId) (v : Slice) : (s.setSlice n v).fetches = s.fetches := rfl
@[simp] theorem State.setSlice_ctxs (n : SliceId) (v : Slice) : (s.setSlice n v).ctxs = s.ctxs := rfl
@[simp] theorem State.setSlice_hosts (n : SliceId) (v : Slice) : (s.setSlice n v).hosts = s.hosts := rfl
@[simp] theorem State.setSlice_sync (n : SliceId) (v : Slice) : (s.setSlice n v).sync = s.sync := rfl
@[simp] theorem State.setSlice_flue (n : SliceId) (v : Slice) : (s.setSlice n v).flue = s.flue := rfl
@[simp] theorem State.setSlice_ports (n : SliceId) (v : Slice) : (s.setSlice n v).ports = s.ports := rfl
@[simp] theorem State.setSlice_sched (n : SliceId) (v : Slice) : (s.setSlice n v).sched = s.sched := rfl
@[simp] theorem State.setSlice_hl (n : SliceId) (v : Slice) : (s.setSlice n v).hl = s.hl := rfl
@[simp] theorem State.setSlice_keysets (n : SliceId) (v : Slice) : (s.setSlice n v).keysets = s.keysets := rfl
@[simp] theorem State.setSlice_log (n : SliceId) (v : Slice) : (s.setSlice n v).log = s.log := rfl
@[simp] theorem State.setSlice_fw (n : SliceId) (v : Slice) : (s.setSlice n v).fw = s.fw := rfl
@[simp] theorem State.setSlice_emb (n : SliceId) (v : Slice) : (s.setSlice n v).emb = s.emb := rfl
@[simp] theorem State.setSlice_led (n : SliceId) (v : Slice) : (s.setSlice n v).led = s.led := rfl
@[simp] theorem State.setSlice_pldm (n : SliceId) (v : Slice) : (s.setSlice n v).pldm = s.pldm := rfl
@[simp] theorem State.setSlice_dmp (n : SliceId) (v : Slice) : (s.setSlice n v).dmp = s.dmp := rfl
@[simp] theorem State.setSlice_edge (n : SliceId) (v : Slice) : (s.setSlice n v).edge = s.edge := rfl
@[simp] theorem State.setSlice_out (n : SliceId) (v : Slice) : (s.setSlice n v).out = s.out := rfl
@[simp] theorem State.setSlice_pending (n : SliceId) (v : Slice) : (s.setSlice n v).pending = s.pending := rfl

/-! ### updSlice -/

@[simp] theorem State.updSlice_clk (n : SliceId) (f : Slice → Slice) : (s.updSlice n f).clk = s.clk := rfl
@[simp] theorem State.updSlice_part (n : SliceId) (f : Slice → Slice) : (s.updSlice n f).part = s.part := rfl
@[simp] theorem State.updSlice_ctl (n : SliceId) (f : Slice → Slice) : (s.updSlice n f).ctl = s.ctl := rfl
@[simp] theorem State.updSlice_mem (n : SliceId) (f : Slice → Slice) : (s.updSlice n f).mem = s.mem := rfl
@[simp] theorem State.updSlice_poison (n : SliceId) (f : Slice → Slice) : (s.updSlice n f).poison = s.poison := rfl
@[simp] theorem State.updSlice_grants (n : SliceId) (f : Slice → Slice) : (s.updSlice n f).grants = s.grants := rfl
@[simp] theorem State.updSlice_zeroing (n : SliceId) (f : Slice → Slice) : (s.updSlice n f).zeroing = s.zeroing := rfl
@[simp] theorem State.updSlice_heldBy (n : SliceId) (f : Slice → Slice) : (s.updSlice n f).heldBy = s.heldBy := rfl
@[simp] theorem State.updSlice_xl (n : SliceId) (f : Slice → Slice) : (s.updSlice n f).xl = s.xl := rfl
@[simp] theorem State.updSlice_rings (n : SliceId) (f : Slice → Slice) : (s.updSlice n f).rings = s.rings := rfl
@[simp] theorem State.updSlice_blocks (n : SliceId) (f : Slice → Slice) : (s.updSlice n f).blocks = s.blocks := rfl
@[simp] theorem State.updSlice_fetches (n : SliceId) (f : Slice → Slice) : (s.updSlice n f).fetches = s.fetches := rfl
@[simp] theorem State.updSlice_ctxs (n : SliceId) (f : Slice → Slice) : (s.updSlice n f).ctxs = s.ctxs := rfl
@[simp] theorem State.updSlice_hosts (n : SliceId) (f : Slice → Slice) : (s.updSlice n f).hosts = s.hosts := rfl
@[simp] theorem State.updSlice_sync (n : SliceId) (f : Slice → Slice) : (s.updSlice n f).sync = s.sync := rfl
@[simp] theorem State.updSlice_flue (n : SliceId) (f : Slice → Slice) : (s.updSlice n f).flue = s.flue := rfl
@[simp] theorem State.updSlice_ports (n : SliceId) (f : Slice → Slice) : (s.updSlice n f).ports = s.ports := rfl
@[simp] theorem State.updSlice_sched (n : SliceId) (f : Slice → Slice) : (s.updSlice n f).sched = s.sched := rfl
@[simp] theorem State.updSlice_hl (n : SliceId) (f : Slice → Slice) : (s.updSlice n f).hl = s.hl := rfl
@[simp] theorem State.updSlice_keysets (n : SliceId) (f : Slice → Slice) : (s.updSlice n f).keysets = s.keysets := rfl
@[simp] theorem State.updSlice_log (n : SliceId) (f : Slice → Slice) : (s.updSlice n f).log = s.log := rfl
@[simp] theorem State.updSlice_fw (n : SliceId) (f : Slice → Slice) : (s.updSlice n f).fw = s.fw := rfl
@[simp] theorem State.updSlice_emb (n : SliceId) (f : Slice → Slice) : (s.updSlice n f).emb = s.emb := rfl
@[simp] theorem State.updSlice_led (n : SliceId) (f : Slice → Slice) : (s.updSlice n f).led = s.led := rfl
@[simp] theorem State.updSlice_pldm (n : SliceId) (f : Slice → Slice) : (s.updSlice n f).pldm = s.pldm := rfl
@[simp] theorem State.updSlice_dmp (n : SliceId) (f : Slice → Slice) : (s.updSlice n f).dmp = s.dmp := rfl
@[simp] theorem State.updSlice_edge (n : SliceId) (f : Slice → Slice) : (s.updSlice n f).edge = s.edge := rfl
@[simp] theorem State.updSlice_out (n : SliceId) (f : Slice → Slice) : (s.updSlice n f).out = s.out := rfl
@[simp] theorem State.updSlice_pending (n : SliceId) (f : Slice → Slice) : (s.updSlice n f).pending = s.pending := rfl

/-! ### setSync -/

@[simp] theorem State.setSync_clk (h : HF) (k : Nat) (v : W64) : (s.setSync h k v).clk = s.clk := rfl
@[simp] theorem State.setSync_part (h : HF) (k : Nat) (v : W64) : (s.setSync h k v).part = s.part := rfl
@[simp] theorem State.setSync_ctl (h : HF) (k : Nat) (v : W64) : (s.setSync h k v).ctl = s.ctl := rfl
@[simp] theorem State.setSync_mem (h : HF) (k : Nat) (v : W64) : (s.setSync h k v).mem = s.mem := rfl
@[simp] theorem State.setSync_poison (h : HF) (k : Nat) (v : W64) : (s.setSync h k v).poison = s.poison := rfl
@[simp] theorem State.setSync_grants (h : HF) (k : Nat) (v : W64) : (s.setSync h k v).grants = s.grants := rfl
@[simp] theorem State.setSync_zeroing (h : HF) (k : Nat) (v : W64) : (s.setSync h k v).zeroing = s.zeroing := rfl
@[simp] theorem State.setSync_heldBy (h : HF) (k : Nat) (v : W64) : (s.setSync h k v).heldBy = s.heldBy := rfl
@[simp] theorem State.setSync_xl (h : HF) (k : Nat) (v : W64) : (s.setSync h k v).xl = s.xl := rfl
@[simp] theorem State.setSync_rings (h : HF) (k : Nat) (v : W64) : (s.setSync h k v).rings = s.rings := rfl
@[simp] theorem State.setSync_blocks (h : HF) (k : Nat) (v : W64) : (s.setSync h k v).blocks = s.blocks := rfl
@[simp] theorem State.setSync_fetches (h : HF) (k : Nat) (v : W64) : (s.setSync h k v).fetches = s.fetches := rfl
@[simp] theorem State.setSync_ctxs (h : HF) (k : Nat) (v : W64) : (s.setSync h k v).ctxs = s.ctxs := rfl
@[simp] theorem State.setSync_hosts (h : HF) (k : Nat) (v : W64) : (s.setSync h k v).hosts = s.hosts := rfl
@[simp] theorem State.setSync_slices (h : HF) (k : Nat) (v : W64) : (s.setSync h k v).slices = s.slices := rfl
@[simp] theorem State.setSync_flue (h : HF) (k : Nat) (v : W64) : (s.setSync h k v).flue = s.flue := rfl
@[simp] theorem State.setSync_ports (h : HF) (k : Nat) (v : W64) : (s.setSync h k v).ports = s.ports := rfl
@[simp] theorem State.setSync_sched (h : HF) (k : Nat) (v : W64) : (s.setSync h k v).sched = s.sched := rfl
@[simp] theorem State.setSync_hl (h : HF) (k : Nat) (v : W64) : (s.setSync h k v).hl = s.hl := rfl
@[simp] theorem State.setSync_keysets (h : HF) (k : Nat) (v : W64) : (s.setSync h k v).keysets = s.keysets := rfl
@[simp] theorem State.setSync_log (h : HF) (k : Nat) (v : W64) : (s.setSync h k v).log = s.log := rfl
@[simp] theorem State.setSync_fw (h : HF) (k : Nat) (v : W64) : (s.setSync h k v).fw = s.fw := rfl
@[simp] theorem State.setSync_emb (h : HF) (k : Nat) (v : W64) : (s.setSync h k v).emb = s.emb := rfl
@[simp] theorem State.setSync_led (h : HF) (k : Nat) (v : W64) : (s.setSync h k v).led = s.led := rfl
@[simp] theorem State.setSync_pldm (h : HF) (k : Nat) (v : W64) : (s.setSync h k v).pldm = s.pldm := rfl
@[simp] theorem State.setSync_dmp (h : HF) (k : Nat) (v : W64) : (s.setSync h k v).dmp = s.dmp := rfl
@[simp] theorem State.setSync_edge (h : HF) (k : Nat) (v : W64) : (s.setSync h k v).edge = s.edge := rfl
@[simp] theorem State.setSync_out (h : HF) (k : Nat) (v : W64) : (s.setSync h k v).out = s.out := rfl
@[simp] theorem State.setSync_pending (h : HF) (k : Nat) (v : W64) : (s.setSync h k v).pending = s.pending := rfl

/-! ### updCtx -/

@[simp] theorem State.updCtx_clk (r : RingId) (f : Ctx → Ctx) : (s.updCtx r f).clk = s.clk := rfl
@[simp] theorem State.updCtx_part (r : RingId) (f : Ctx → Ctx) : (s.updCtx r f).part = s.part := rfl
@[simp] theorem State.updCtx_ctl (r : RingId) (f : Ctx → Ctx) : (s.updCtx r f).ctl = s.ctl := rfl
@[simp] theorem State.updCtx_mem (r : RingId) (f : Ctx → Ctx) : (s.updCtx r f).mem = s.mem := rfl
@[simp] theorem State.updCtx_poison (r : RingId) (f : Ctx → Ctx) : (s.updCtx r f).poison = s.poison := rfl
@[simp] theorem State.updCtx_grants (r : RingId) (f : Ctx → Ctx) : (s.updCtx r f).grants = s.grants := rfl
@[simp] theorem State.updCtx_zeroing (r : RingId) (f : Ctx → Ctx) : (s.updCtx r f).zeroing = s.zeroing := rfl
@[simp] theorem State.updCtx_heldBy (r : RingId) (f : Ctx → Ctx) : (s.updCtx r f).heldBy = s.heldBy := rfl
@[simp] theorem State.updCtx_xl (r : RingId) (f : Ctx → Ctx) : (s.updCtx r f).xl = s.xl := rfl
@[simp] theorem State.updCtx_rings (r : RingId) (f : Ctx → Ctx) : (s.updCtx r f).rings = s.rings := rfl
@[simp] theorem State.updCtx_blocks (r : RingId) (f : Ctx → Ctx) : (s.updCtx r f).blocks = s.blocks := rfl
@[simp] theorem State.updCtx_fetches (r : RingId) (f : Ctx → Ctx) : (s.updCtx r f).fetches = s.fetches := rfl
@[simp] theorem State.updCtx_hosts (r : RingId) (f : Ctx → Ctx) : (s.updCtx r f).hosts = s.hosts := rfl
@[simp] theorem State.updCtx_sync (r : RingId) (f : Ctx → Ctx) : (s.updCtx r f).sync = s.sync := rfl
@[simp] theorem State.updCtx_slices (r : RingId) (f : Ctx → Ctx) : (s.updCtx r f).slices = s.slices := rfl
@[simp] theorem State.updCtx_flue (r : RingId) (f : Ctx → Ctx) : (s.updCtx r f).flue = s.flue := rfl
@[simp] theorem State.updCtx_ports (r : RingId) (f : Ctx → Ctx) : (s.updCtx r f).ports = s.ports := rfl
@[simp] theorem State.updCtx_sched (r : RingId) (f : Ctx → Ctx) : (s.updCtx r f).sched = s.sched := rfl
@[simp] theorem State.updCtx_hl (r : RingId) (f : Ctx → Ctx) : (s.updCtx r f).hl = s.hl := rfl
@[simp] theorem State.updCtx_keysets (r : RingId) (f : Ctx → Ctx) : (s.updCtx r f).keysets = s.keysets := rfl
@[simp] theorem State.updCtx_log (r : RingId) (f : Ctx → Ctx) : (s.updCtx r f).log = s.log := rfl
@[simp] theorem State.updCtx_fw (r : RingId) (f : Ctx → Ctx) : (s.updCtx r f).fw = s.fw := rfl
@[simp] theorem State.updCtx_emb (r : RingId) (f : Ctx → Ctx) : (s.updCtx r f).emb = s.emb := rfl
@[simp] theorem State.updCtx_led (r : RingId) (f : Ctx → Ctx) : (s.updCtx r f).led = s.led := rfl
@[simp] theorem State.updCtx_pldm (r : RingId) (f : Ctx → Ctx) : (s.updCtx r f).pldm = s.pldm := rfl
@[simp] theorem State.updCtx_dmp (r : RingId) (f : Ctx → Ctx) : (s.updCtx r f).dmp = s.dmp := rfl
@[simp] theorem State.updCtx_edge (r : RingId) (f : Ctx → Ctx) : (s.updCtx r f).edge = s.edge := rfl
@[simp] theorem State.updCtx_out (r : RingId) (f : Ctx → Ctx) : (s.updCtx r f).out = s.out := rfl
@[simp] theorem State.updCtx_pending (r : RingId) (f : Ctx → Ctx) : (s.updCtx r f).pending = s.pending := rfl

/-! ### updSlot -/

@[simp] theorem State.updSlot_clk (r : RingId) (p : W32) (f : Slot → Slot) : (s.updSlot r p f).clk = s.clk := rfl
@[simp] theorem State.updSlot_part (r : RingId) (p : W32) (f : Slot → Slot) : (s.updSlot r p f).part = s.part := rfl
@[simp] theorem State.updSlot_ctl (r : RingId) (p : W32) (f : Slot → Slot) : (s.updSlot r p f).ctl = s.ctl := rfl
@[simp] theorem State.updSlot_mem (r : RingId) (p : W32) (f : Slot → Slot) : (s.updSlot r p f).mem = s.mem := rfl
@[simp] theorem State.updSlot_poison (r : RingId) (p : W32) (f : Slot → Slot) : (s.updSlot r p f).poison = s.poison := rfl
@[simp] theorem State.updSlot_grants (r : RingId) (p : W32) (f : Slot → Slot) : (s.updSlot r p f).grants = s.grants := rfl
@[simp] theorem State.updSlot_zeroing (r : RingId) (p : W32) (f : Slot → Slot) : (s.updSlot r p f).zeroing = s.zeroing := rfl
@[simp] theorem State.updSlot_heldBy (r : RingId) (p : W32) (f : Slot → Slot) : (s.updSlot r p f).heldBy = s.heldBy := rfl
@[simp] theorem State.updSlot_xl (r : RingId) (p : W32) (f : Slot → Slot) : (s.updSlot r p f).xl = s.xl := rfl
@[simp] theorem State.updSlot_rings (r : RingId) (p : W32) (f : Slot → Slot) : (s.updSlot r p f).rings = s.rings := rfl
@[simp] theorem State.updSlot_blocks (r : RingId) (p : W32) (f : Slot → Slot) : (s.updSlot r p f).blocks = s.blocks := rfl
@[simp] theorem State.updSlot_fetches (r : RingId) (p : W32) (f : Slot → Slot) : (s.updSlot r p f).fetches = s.fetches := rfl
@[simp] theorem State.updSlot_hosts (r : RingId) (p : W32) (f : Slot → Slot) : (s.updSlot r p f).hosts = s.hosts := rfl
@[simp] theorem State.updSlot_sync (r : RingId) (p : W32) (f : Slot → Slot) : (s.updSlot r p f).sync = s.sync := rfl
@[simp] theorem State.updSlot_slices (r : RingId) (p : W32) (f : Slot → Slot) : (s.updSlot r p f).slices = s.slices := rfl
@[simp] theorem State.updSlot_flue (r : RingId) (p : W32) (f : Slot → Slot) : (s.updSlot r p f).flue = s.flue := rfl
@[simp] theorem State.updSlot_ports (r : RingId) (p : W32) (f : Slot → Slot) : (s.updSlot r p f).ports = s.ports := rfl
@[simp] theorem State.updSlot_sched (r : RingId) (p : W32) (f : Slot → Slot) : (s.updSlot r p f).sched = s.sched := rfl
@[simp] theorem State.updSlot_hl (r : RingId) (p : W32) (f : Slot → Slot) : (s.updSlot r p f).hl = s.hl := rfl
@[simp] theorem State.updSlot_keysets (r : RingId) (p : W32) (f : Slot → Slot) : (s.updSlot r p f).keysets = s.keysets := rfl
@[simp] theorem State.updSlot_log (r : RingId) (p : W32) (f : Slot → Slot) : (s.updSlot r p f).log = s.log := rfl
@[simp] theorem State.updSlot_fw (r : RingId) (p : W32) (f : Slot → Slot) : (s.updSlot r p f).fw = s.fw := rfl
@[simp] theorem State.updSlot_emb (r : RingId) (p : W32) (f : Slot → Slot) : (s.updSlot r p f).emb = s.emb := rfl
@[simp] theorem State.updSlot_led (r : RingId) (p : W32) (f : Slot → Slot) : (s.updSlot r p f).led = s.led := rfl
@[simp] theorem State.updSlot_pldm (r : RingId) (p : W32) (f : Slot → Slot) : (s.updSlot r p f).pldm = s.pldm := rfl
@[simp] theorem State.updSlot_dmp (r : RingId) (p : W32) (f : Slot → Slot) : (s.updSlot r p f).dmp = s.dmp := rfl
@[simp] theorem State.updSlot_edge (r : RingId) (p : W32) (f : Slot → Slot) : (s.updSlot r p f).edge = s.edge := rfl
@[simp] theorem State.updSlot_out (r : RingId) (p : W32) (f : Slot → Slot) : (s.updSlot r p f).out = s.out := rfl
@[simp] theorem State.updSlot_pending (r : RingId) (p : W32) (f : Slot → Slot) : (s.updSlot r p f).pending = s.pending := rfl

/-! ### useFree -/

@[simp] theorem State.useFree_part (n : Nat) : (s.useFree n).part = s.part := rfl
@[simp] theorem State.useFree_ctl (n : Nat) : (s.useFree n).ctl = s.ctl := rfl
@[simp] theorem State.useFree_mem (n : Nat) : (s.useFree n).mem = s.mem := rfl
@[simp] theorem State.useFree_poison (n : Nat) : (s.useFree n).poison = s.poison := rfl
@[simp] theorem State.useFree_grants (n : Nat) : (s.useFree n).grants = s.grants := rfl
@[simp] theorem State.useFree_zeroing (n : Nat) : (s.useFree n).zeroing = s.zeroing := rfl
@[simp] theorem State.useFree_heldBy (n : Nat) : (s.useFree n).heldBy = s.heldBy := rfl
@[simp] theorem State.useFree_xl (n : Nat) : (s.useFree n).xl = s.xl := rfl
@[simp] theorem State.useFree_rings (n : Nat) : (s.useFree n).rings = s.rings := rfl
@[simp] theorem State.useFree_blocks (n : Nat) : (s.useFree n).blocks = s.blocks := rfl
@[simp] theorem State.useFree_fetches (n : Nat) : (s.useFree n).fetches = s.fetches := rfl
@[simp] theorem State.useFree_ctxs (n : Nat) : (s.useFree n).ctxs = s.ctxs := rfl
@[simp] theorem State.useFree_hosts (n : Nat) : (s.useFree n).hosts = s.hosts := rfl
@[simp] theorem State.useFree_sync (n : Nat) : (s.useFree n).sync = s.sync := rfl
@[simp] theorem State.useFree_slices (n : Nat) : (s.useFree n).slices = s.slices := rfl
@[simp] theorem State.useFree_flue (n : Nat) : (s.useFree n).flue = s.flue := rfl
@[simp] theorem State.useFree_ports (n : Nat) : (s.useFree n).ports = s.ports := rfl
@[simp] theorem State.useFree_sched (n : Nat) : (s.useFree n).sched = s.sched := rfl
@[simp] theorem State.useFree_hl (n : Nat) : (s.useFree n).hl = s.hl := rfl
@[simp] theorem State.useFree_keysets (n : Nat) : (s.useFree n).keysets = s.keysets := rfl
@[simp] theorem State.useFree_log (n : Nat) : (s.useFree n).log = s.log := rfl
@[simp] theorem State.useFree_fw (n : Nat) : (s.useFree n).fw = s.fw := rfl
@[simp] theorem State.useFree_emb (n : Nat) : (s.useFree n).emb = s.emb := rfl
@[simp] theorem State.useFree_led (n : Nat) : (s.useFree n).led = s.led := rfl
@[simp] theorem State.useFree_pldm (n : Nat) : (s.useFree n).pldm = s.pldm := rfl
@[simp] theorem State.useFree_dmp (n : Nat) : (s.useFree n).dmp = s.dmp := rfl
@[simp] theorem State.useFree_edge (n : Nat) : (s.useFree n).edge = s.edge := rfl
@[simp] theorem State.useFree_out (n : Nat) : (s.useFree n).out = s.out := rfl
@[simp] theorem State.useFree_pending (n : Nat) : (s.useFree n).pending = s.pending := rfl

/-! ### atPclk -/

@[simp] theorem State.atPclk_part (c : Nat) : (s.atPclk c).part = s.part := rfl
@[simp] theorem State.atPclk_ctl (c : Nat) : (s.atPclk c).ctl = s.ctl := rfl
@[simp] theorem State.atPclk_mem (c : Nat) : (s.atPclk c).mem = s.mem := rfl
@[simp] theorem State.atPclk_poison (c : Nat) : (s.atPclk c).poison = s.poison := rfl
@[simp] theorem State.atPclk_grants (c : Nat) : (s.atPclk c).grants = s.grants := rfl
@[simp] theorem State.atPclk_zeroing (c : Nat) : (s.atPclk c).zeroing = s.zeroing := rfl
@[simp] theorem State.atPclk_heldBy (c : Nat) : (s.atPclk c).heldBy = s.heldBy := rfl
@[simp] theorem State.atPclk_xl (c : Nat) : (s.atPclk c).xl = s.xl := rfl
@[simp] theorem State.atPclk_rings (c : Nat) : (s.atPclk c).rings = s.rings := rfl
@[simp] theorem State.atPclk_blocks (c : Nat) : (s.atPclk c).blocks = s.blocks := rfl
@[simp] theorem State.atPclk_fetches (c : Nat) : (s.atPclk c).fetches = s.fetches := rfl
@[simp] theorem State.atPclk_ctxs (c : Nat) : (s.atPclk c).ctxs = s.ctxs := rfl
@[simp] theorem State.atPclk_hosts (c : Nat) : (s.atPclk c).hosts = s.hosts := rfl
@[simp] theorem State.atPclk_sync (c : Nat) : (s.atPclk c).sync = s.sync := rfl
@[simp] theorem State.atPclk_slices (c : Nat) : (s.atPclk c).slices = s.slices := rfl
@[simp] theorem State.atPclk_flue (c : Nat) : (s.atPclk c).flue = s.flue := rfl
@[simp] theorem State.atPclk_ports (c : Nat) : (s.atPclk c).ports = s.ports := rfl
@[simp] theorem State.atPclk_sched (c : Nat) : (s.atPclk c).sched = s.sched := rfl
@[simp] theorem State.atPclk_hl (c : Nat) : (s.atPclk c).hl = s.hl := rfl
@[simp] theorem State.atPclk_keysets (c : Nat) : (s.atPclk c).keysets = s.keysets := rfl
@[simp] theorem State.atPclk_log (c : Nat) : (s.atPclk c).log = s.log := rfl
@[simp] theorem State.atPclk_fw (c : Nat) : (s.atPclk c).fw = s.fw := rfl
@[simp] theorem State.atPclk_emb (c : Nat) : (s.atPclk c).emb = s.emb := rfl
@[simp] theorem State.atPclk_led (c : Nat) : (s.atPclk c).led = s.led := rfl
@[simp] theorem State.atPclk_pldm (c : Nat) : (s.atPclk c).pldm = s.pldm := rfl
@[simp] theorem State.atPclk_dmp (c : Nat) : (s.atPclk c).dmp = s.dmp := rfl
@[simp] theorem State.atPclk_edge (c : Nat) : (s.atPclk c).edge = s.edge := rfl
@[simp] theorem State.atPclk_out (c : Nat) : (s.atPclk c).out = s.out := rfl
@[simp] theorem State.atPclk_pending (c : Nat) : (s.atPclk c).pending = s.pending := rfl

/-! ### atNclk -/

@[simp] theorem State.atNclk_part (m : Nat) : (s.atNclk m).part = s.part := rfl
@[simp] theorem State.atNclk_ctl (m : Nat) : (s.atNclk m).ctl = s.ctl := rfl
@[simp] theorem State.atNclk_mem (m : Nat) : (s.atNclk m).mem = s.mem := rfl
@[simp] theorem State.atNclk_poison (m : Nat) : (s.atNclk m).poison = s.poison := rfl
@[simp] theorem State.atNclk_grants (m : Nat) : (s.atNclk m).grants = s.grants := rfl
@[simp] theorem State.atNclk_zeroing (m : Nat) : (s.atNclk m).zeroing = s.zeroing := rfl
@[simp] theorem State.atNclk_heldBy (m : Nat) : (s.atNclk m).heldBy = s.heldBy := rfl
@[simp] theorem State.atNclk_xl (m : Nat) : (s.atNclk m).xl = s.xl := rfl
@[simp] theorem State.atNclk_rings (m : Nat) : (s.atNclk m).rings = s.rings := rfl
@[simp] theorem State.atNclk_blocks (m : Nat) : (s.atNclk m).blocks = s.blocks := rfl
@[simp] theorem State.atNclk_fetches (m : Nat) : (s.atNclk m).fetches = s.fetches := rfl
@[simp] theorem State.atNclk_ctxs (m : Nat) : (s.atNclk m).ctxs = s.ctxs := rfl
@[simp] theorem State.atNclk_hosts (m : Nat) : (s.atNclk m).hosts = s.hosts := rfl
@[simp] theorem State.atNclk_sync (m : Nat) : (s.atNclk m).sync = s.sync := rfl
@[simp] theorem State.atNclk_slices (m : Nat) : (s.atNclk m).slices = s.slices := rfl
@[simp] theorem State.atNclk_flue (m : Nat) : (s.atNclk m).flue = s.flue := rfl
@[simp] theorem State.atNclk_ports (m : Nat) : (s.atNclk m).ports = s.ports := rfl
@[simp] theorem State.atNclk_sched (m : Nat) : (s.atNclk m).sched = s.sched := rfl
@[simp] theorem State.atNclk_hl (m : Nat) : (s.atNclk m).hl = s.hl := rfl
@[simp] theorem State.atNclk_keysets (m : Nat) : (s.atNclk m).keysets = s.keysets := rfl
@[simp] theorem State.atNclk_log (m : Nat) : (s.atNclk m).log = s.log := rfl
@[simp] theorem State.atNclk_fw (m : Nat) : (s.atNclk m).fw = s.fw := rfl
@[simp] theorem State.atNclk_emb (m : Nat) : (s.atNclk m).emb = s.emb := rfl
@[simp] theorem State.atNclk_led (m : Nat) : (s.atNclk m).led = s.led := rfl
@[simp] theorem State.atNclk_pldm (m : Nat) : (s.atNclk m).pldm = s.pldm := rfl
@[simp] theorem State.atNclk_dmp (m : Nat) : (s.atNclk m).dmp = s.dmp := rfl
@[simp] theorem State.atNclk_edge (m : Nat) : (s.atNclk m).edge = s.edge := rfl
@[simp] theorem State.atNclk_out (m : Nat) : (s.atNclk m).out = s.out := rfl
@[simp] theorem State.atNclk_pending (m : Nat) : (s.atNclk m).pending = s.pending := rfl

/-! ### atFclk -/

@[simp] theorem State.atFclk_part (f : Nat) : (s.atFclk f).part = s.part := rfl
@[simp] theorem State.atFclk_ctl (f : Nat) : (s.atFclk f).ctl = s.ctl := rfl
@[simp] theorem State.atFclk_mem (f : Nat) : (s.atFclk f).mem = s.mem := rfl
@[simp] theorem State.atFclk_poison (f : Nat) : (s.atFclk f).poison = s.poison := rfl
@[simp] theorem State.atFclk_grants (f : Nat) : (s.atFclk f).grants = s.grants := rfl
@[simp] theorem State.atFclk_zeroing (f : Nat) : (s.atFclk f).zeroing = s.zeroing := rfl
@[simp] theorem State.atFclk_heldBy (f : Nat) : (s.atFclk f).heldBy = s.heldBy := rfl
@[simp] theorem State.atFclk_xl (f : Nat) : (s.atFclk f).xl = s.xl := rfl
@[simp] theorem State.atFclk_rings (f : Nat) : (s.atFclk f).rings = s.rings := rfl
@[simp] theorem State.atFclk_blocks (f : Nat) : (s.atFclk f).blocks = s.blocks := rfl
@[simp] theorem State.atFclk_fetches (f : Nat) : (s.atFclk f).fetches = s.fetches := rfl
@[simp] theorem State.atFclk_ctxs (f : Nat) : (s.atFclk f).ctxs = s.ctxs := rfl
@[simp] theorem State.atFclk_hosts (f : Nat) : (s.atFclk f).hosts = s.hosts := rfl
@[simp] theorem State.atFclk_sync (f : Nat) : (s.atFclk f).sync = s.sync := rfl
@[simp] theorem State.atFclk_slices (f : Nat) : (s.atFclk f).slices = s.slices := rfl
@[simp] theorem State.atFclk_flue (f : Nat) : (s.atFclk f).flue = s.flue := rfl
@[simp] theorem State.atFclk_ports (f : Nat) : (s.atFclk f).ports = s.ports := rfl
@[simp] theorem State.atFclk_sched (f : Nat) : (s.atFclk f).sched = s.sched := rfl
@[simp] theorem State.atFclk_hl (f : Nat) : (s.atFclk f).hl = s.hl := rfl
@[simp] theorem State.atFclk_keysets (f : Nat) : (s.atFclk f).keysets = s.keysets := rfl
@[simp] theorem State.atFclk_log (f : Nat) : (s.atFclk f).log = s.log := rfl
@[simp] theorem State.atFclk_fw (f : Nat) : (s.atFclk f).fw = s.fw := rfl
@[simp] theorem State.atFclk_emb (f : Nat) : (s.atFclk f).emb = s.emb := rfl
@[simp] theorem State.atFclk_led (f : Nat) : (s.atFclk f).led = s.led := rfl
@[simp] theorem State.atFclk_pldm (f : Nat) : (s.atFclk f).pldm = s.pldm := rfl
@[simp] theorem State.atFclk_dmp (f : Nat) : (s.atFclk f).dmp = s.dmp := rfl
@[simp] theorem State.atFclk_edge (f : Nat) : (s.atFclk f).edge = s.edge := rfl
@[simp] theorem State.atFclk_out (f : Nat) : (s.atFclk f).out = s.out := rfl
@[simp] theorem State.atFclk_pending (f : Nat) : (s.atFclk f).pending = s.pending := rfl

/-! ### emit -/

@[simp] theorem State.emit_clk (o : Out) : (s.emit o).clk = s.clk := rfl
@[simp] theorem State.emit_part (o : Out) : (s.emit o).part = s.part := rfl
@[simp] theorem State.emit_ctl (o : Out) : (s.emit o).ctl = s.ctl := rfl
@[simp] theorem State.emit_mem (o : Out) : (s.emit o).mem = s.mem := rfl
@[simp] theorem State.emit_poison (o : Out) : (s.emit o).poison = s.poison := rfl
@[simp] theorem State.emit_grants (o : Out) : (s.emit o).grants = s.grants := rfl
@[simp] theorem State.emit_zeroing (o : Out) : (s.emit o).zeroing = s.zeroing := rfl
@[simp] theorem State.emit_heldBy (o : Out) : (s.emit o).heldBy = s.heldBy := rfl
@[simp] theorem State.emit_xl (o : Out) : (s.emit o).xl = s.xl := rfl
@[simp] theorem State.emit_rings (o : Out) : (s.emit o).rings = s.rings := rfl
@[simp] theorem State.emit_blocks (o : Out) : (s.emit o).blocks = s.blocks := rfl
@[simp] theorem State.emit_fetches (o : Out) : (s.emit o).fetches = s.fetches := rfl
@[simp] theorem State.emit_ctxs (o : Out) : (s.emit o).ctxs = s.ctxs := rfl
@[simp] theorem State.emit_hosts (o : Out) : (s.emit o).hosts = s.hosts := rfl
@[simp] theorem State.emit_sync (o : Out) : (s.emit o).sync = s.sync := rfl
@[simp] theorem State.emit_slices (o : Out) : (s.emit o).slices = s.slices := rfl
@[simp] theorem State.emit_flue (o : Out) : (s.emit o).flue = s.flue := rfl
@[simp] theorem State.emit_ports (o : Out) : (s.emit o).ports = s.ports := rfl
@[simp] theorem State.emit_sched (o : Out) : (s.emit o).sched = s.sched := rfl
@[simp] theorem State.emit_hl (o : Out) : (s.emit o).hl = s.hl := rfl
@[simp] theorem State.emit_keysets (o : Out) : (s.emit o).keysets = s.keysets := rfl
@[simp] theorem State.emit_log (o : Out) : (s.emit o).log = s.log := rfl
@[simp] theorem State.emit_fw (o : Out) : (s.emit o).fw = s.fw := rfl
@[simp] theorem State.emit_emb (o : Out) : (s.emit o).emb = s.emb := rfl
@[simp] theorem State.emit_led (o : Out) : (s.emit o).led = s.led := rfl
@[simp] theorem State.emit_pldm (o : Out) : (s.emit o).pldm = s.pldm := rfl
@[simp] theorem State.emit_dmp (o : Out) : (s.emit o).dmp = s.dmp := rfl
@[simp] theorem State.emit_edge (o : Out) : (s.emit o).edge = s.edge := rfl
@[simp] theorem State.emit_pending (o : Out) : (s.emit o).pending = s.pending := rfl

/-! ### writeBytes -/

@[simp] theorem State.writeBytes_clk (sp a : Nat) (bs : List Byte) : (s.writeBytes sp a bs).clk = s.clk := rfl
@[simp] theorem State.writeBytes_part (sp a : Nat) (bs : List Byte) : (s.writeBytes sp a bs).part = s.part := rfl
@[simp] theorem State.writeBytes_ctl (sp a : Nat) (bs : List Byte) : (s.writeBytes sp a bs).ctl = s.ctl := rfl
@[simp] theorem State.writeBytes_grants (sp a : Nat) (bs : List Byte) : (s.writeBytes sp a bs).grants = s.grants := rfl
@[simp] theorem State.writeBytes_zeroing (sp a : Nat) (bs : List Byte) : (s.writeBytes sp a bs).zeroing = s.zeroing := rfl
@[simp] theorem State.writeBytes_heldBy (sp a : Nat) (bs : List Byte) : (s.writeBytes sp a bs).heldBy = s.heldBy := rfl
@[simp] theorem State.writeBytes_xl (sp a : Nat) (bs : List Byte) : (s.writeBytes sp a bs).xl = s.xl := rfl
@[simp] theorem State.writeBytes_rings (sp a : Nat) (bs : List Byte) : (s.writeBytes sp a bs).rings = s.rings := rfl
@[simp] theorem State.writeBytes_blocks (sp a : Nat) (bs : List Byte) : (s.writeBytes sp a bs).blocks = s.blocks := rfl
@[simp] theorem State.writeBytes_fetches (sp a : Nat) (bs : List Byte) : (s.writeBytes sp a bs).fetches = s.fetches := rfl
@[simp] theorem State.writeBytes_ctxs (sp a : Nat) (bs : List Byte) : (s.writeBytes sp a bs).ctxs = s.ctxs := rfl
@[simp] theorem State.writeBytes_hosts (sp a : Nat) (bs : List Byte) : (s.writeBytes sp a bs).hosts = s.hosts := rfl
@[simp] theorem State.writeBytes_sync (sp a : Nat) (bs : List Byte) : (s.writeBytes sp a bs).sync = s.sync := rfl
@[simp] theorem State.writeBytes_slices (sp a : Nat) (bs : List Byte) : (s.writeBytes sp a bs).slices = s.slices := rfl
@[simp] theorem State.writeBytes_flue (sp a : Nat) (bs : List Byte) : (s.writeBytes sp a bs).flue = s.flue := rfl
@[simp] theorem State.writeBytes_ports (sp a : Nat) (bs : List Byte) : (s.writeBytes sp a bs).ports = s.ports := rfl
@[simp] theorem State.writeBytes_sched (sp a : Nat) (bs : List Byte) : (s.writeBytes sp a bs).sched = s.sched := rfl
@[simp] theorem State.writeBytes_hl (sp a : Nat) (bs : List Byte) : (s.writeBytes sp a bs).hl = s.hl := rfl
@[simp] theorem State.writeBytes_keysets (sp a : Nat) (bs : List Byte) : (s.writeBytes sp a bs).keysets = s.keysets := rfl
@[simp] theorem State.writeBytes_log (sp a : Nat) (bs : List Byte) : (s.writeBytes sp a bs).log = s.log := rfl
@[simp] theorem State.writeBytes_fw (sp a : Nat) (bs : List Byte) : (s.writeBytes sp a bs).fw = s.fw := rfl
@[simp] theorem State.writeBytes_emb (sp a : Nat) (bs : List Byte) : (s.writeBytes sp a bs).emb = s.emb := rfl
@[simp] theorem State.writeBytes_led (sp a : Nat) (bs : List Byte) : (s.writeBytes sp a bs).led = s.led := rfl
@[simp] theorem State.writeBytes_pldm (sp a : Nat) (bs : List Byte) : (s.writeBytes sp a bs).pldm = s.pldm := rfl
@[simp] theorem State.writeBytes_dmp (sp a : Nat) (bs : List Byte) : (s.writeBytes sp a bs).dmp = s.dmp := rfl
@[simp] theorem State.writeBytes_edge (sp a : Nat) (bs : List Byte) : (s.writeBytes sp a bs).edge = s.edge := rfl
@[simp] theorem State.writeBytes_out (sp a : Nat) (bs : List Byte) : (s.writeBytes sp a bs).out = s.out := rfl
@[simp] theorem State.writeBytes_pending (sp a : Nat) (bs : List Byte) : (s.writeBytes sp a bs).pending = s.pending := rfl

/-! ### zeroRange -/

@[simp] theorem State.zeroRange_clk (sp a n : Nat) : (s.zeroRange sp a n).clk = s.clk := rfl
@[simp] theorem State.zeroRange_part (sp a n : Nat) : (s.zeroRange sp a n).part = s.part := rfl
@[simp] theorem State.zeroRange_ctl (sp a n : Nat) : (s.zeroRange sp a n).ctl = s.ctl := rfl
@[simp] theorem State.zeroRange_grants (sp a n : Nat) : (s.zeroRange sp a n).grants = s.grants := rfl
@[simp] theorem State.zeroRange_zeroing (sp a n : Nat) : (s.zeroRange sp a n).zeroing = s.zeroing := rfl
@[simp] theorem State.zeroRange_heldBy (sp a n : Nat) : (s.zeroRange sp a n).heldBy = s.heldBy := rfl
@[simp] theorem State.zeroRange_xl (sp a n : Nat) : (s.zeroRange sp a n).xl = s.xl := rfl
@[simp] theorem State.zeroRange_rings (sp a n : Nat) : (s.zeroRange sp a n).rings = s.rings := rfl
@[simp] theorem State.zeroRange_blocks (sp a n : Nat) : (s.zeroRange sp a n).blocks = s.blocks := rfl
@[simp] theorem State.zeroRange_fetches (sp a n : Nat) : (s.zeroRange sp a n).fetches = s.fetches := rfl
@[simp] theorem State.zeroRange_ctxs (sp a n : Nat) : (s.zeroRange sp a n).ctxs = s.ctxs := rfl
@[simp] theorem State.zeroRange_hosts (sp a n : Nat) : (s.zeroRange sp a n).hosts = s.hosts := rfl
@[simp] theorem State.zeroRange_sync (sp a n : Nat) : (s.zeroRange sp a n).sync = s.sync := rfl
@[simp] theorem State.zeroRange_slices (sp a n : Nat) : (s.zeroRange sp a n).slices = s.slices := rfl
@[simp] theorem State.zeroRange_flue (sp a n : Nat) : (s.zeroRange sp a n).flue = s.flue := rfl
@[simp] theorem State.zeroRange_ports (sp a n : Nat) : (s.zeroRange sp a n).ports = s.ports := rfl
@[simp] theorem State.zeroRange_sched (sp a n : Nat) : (s.zeroRange sp a n).sched = s.sched := rfl
@[simp] theorem State.zeroRange_hl (sp a n : Nat) : (s.zeroRange sp a n).hl = s.hl := rfl
@[simp] theorem State.zeroRange_keysets (sp a n : Nat) : (s.zeroRange sp a n).keysets = s.keysets := rfl
@[simp] theorem State.zeroRange_log (sp a n : Nat) : (s.zeroRange sp a n).log = s.log := rfl
@[simp] theorem State.zeroRange_fw (sp a n : Nat) : (s.zeroRange sp a n).fw = s.fw := rfl
@[simp] theorem State.zeroRange_emb (sp a n : Nat) : (s.zeroRange sp a n).emb = s.emb := rfl
@[simp] theorem State.zeroRange_led (sp a n : Nat) : (s.zeroRange sp a n).led = s.led := rfl
@[simp] theorem State.zeroRange_pldm (sp a n : Nat) : (s.zeroRange sp a n).pldm = s.pldm := rfl
@[simp] theorem State.zeroRange_dmp (sp a n : Nat) : (s.zeroRange sp a n).dmp = s.dmp := rfl
@[simp] theorem State.zeroRange_edge (sp a n : Nat) : (s.zeroRange sp a n).edge = s.edge := rfl
@[simp] theorem State.zeroRange_out (sp a n : Nat) : (s.zeroRange sp a n).out = s.out := rfl
@[simp] theorem State.zeroRange_pending (sp a n : Nat) : (s.zeroRange sp a n).pending = s.pending := rfl

/-! ### hsWrite -/

@[simp] theorem State.hsWrite_clk (a : Nat) (bs : List Byte) : (s.hsWrite a bs).clk = s.clk := rfl
@[simp] theorem State.hsWrite_part (a : Nat) (bs : List Byte) : (s.hsWrite a bs).part = s.part := rfl
@[simp] theorem State.hsWrite_ctl (a : Nat) (bs : List Byte) : (s.hsWrite a bs).ctl = s.ctl := rfl
@[simp] theorem State.hsWrite_grants (a : Nat) (bs : List Byte) : (s.hsWrite a bs).grants = s.grants := rfl
@[simp] theorem State.hsWrite_zeroing (a : Nat) (bs : List Byte) : (s.hsWrite a bs).zeroing = s.zeroing := rfl
@[simp] theorem State.hsWrite_heldBy (a : Nat) (bs : List Byte) : (s.hsWrite a bs).heldBy = s.heldBy := rfl
@[simp] theorem State.hsWrite_xl (a : Nat) (bs : List Byte) : (s.hsWrite a bs).xl = s.xl := rfl
@[simp] theorem State.hsWrite_rings (a : Nat) (bs : List Byte) : (s.hsWrite a bs).rings = s.rings := rfl
@[simp] theorem State.hsWrite_blocks (a : Nat) (bs : List Byte) : (s.hsWrite a bs).blocks = s.blocks := rfl
@[simp] theorem State.hsWrite_fetches (a : Nat) (bs : List Byte) : (s.hsWrite a bs).fetches = s.fetches := rfl
@[simp] theorem State.hsWrite_ctxs (a : Nat) (bs : List Byte) : (s.hsWrite a bs).ctxs = s.ctxs := rfl
@[simp] theorem State.hsWrite_hosts (a : Nat) (bs : List Byte) : (s.hsWrite a bs).hosts = s.hosts := rfl
@[simp] theorem State.hsWrite_sync (a : Nat) (bs : List Byte) : (s.hsWrite a bs).sync = s.sync := rfl
@[simp] theorem State.hsWrite_slices (a : Nat) (bs : List Byte) : (s.hsWrite a bs).slices = s.slices := rfl
@[simp] theorem State.hsWrite_flue (a : Nat) (bs : List Byte) : (s.hsWrite a bs).flue = s.flue := rfl
@[simp] theorem State.hsWrite_ports (a : Nat) (bs : List Byte) : (s.hsWrite a bs).ports = s.ports := rfl
@[simp] theorem State.hsWrite_sched (a : Nat) (bs : List Byte) : (s.hsWrite a bs).sched = s.sched := rfl
@[simp] theorem State.hsWrite_hl (a : Nat) (bs : List Byte) : (s.hsWrite a bs).hl = s.hl := rfl
@[simp] theorem State.hsWrite_keysets (a : Nat) (bs : List Byte) : (s.hsWrite a bs).keysets = s.keysets := rfl
@[simp] theorem State.hsWrite_log (a : Nat) (bs : List Byte) : (s.hsWrite a bs).log = s.log := rfl
@[simp] theorem State.hsWrite_fw (a : Nat) (bs : List Byte) : (s.hsWrite a bs).fw = s.fw := rfl
@[simp] theorem State.hsWrite_emb (a : Nat) (bs : List Byte) : (s.hsWrite a bs).emb = s.emb := rfl
@[simp] theorem State.hsWrite_led (a : Nat) (bs : List Byte) : (s.hsWrite a bs).led = s.led := rfl
@[simp] theorem State.hsWrite_pldm (a : Nat) (bs : List Byte) : (s.hsWrite a bs).pldm = s.pldm := rfl
@[simp] theorem State.hsWrite_dmp (a : Nat) (bs : List Byte) : (s.hsWrite a bs).dmp = s.dmp := rfl
@[simp] theorem State.hsWrite_edge (a : Nat) (bs : List Byte) : (s.hsWrite a bs).edge = s.edge := rfl
@[simp] theorem State.hsWrite_out (a : Nat) (bs : List Byte) : (s.hsWrite a bs).out = s.out := rfl
@[simp] theorem State.hsWrite_pending (a : Nat) (bs : List Byte) : (s.hsWrite a bs).pending = s.pending := rfl

/-! ### hsZero -/

@[simp] theorem State.hsZero_clk (a n : Nat) : (s.hsZero a n).clk = s.clk := rfl
@[simp] theorem State.hsZero_part (a n : Nat) : (s.hsZero a n).part = s.part := rfl
@[simp] theorem State.hsZero_ctl (a n : Nat) : (s.hsZero a n).ctl = s.ctl := rfl
@[simp] theorem State.hsZero_grants (a n : Nat) : (s.hsZero a n).grants = s.grants := rfl
@[simp] theorem State.hsZero_zeroing (a n : Nat) : (s.hsZero a n).zeroing = s.zeroing := rfl
@[simp] theorem State.hsZero_heldBy (a n : Nat) : (s.hsZero a n).heldBy = s.heldBy := rfl
@[simp] theorem State.hsZero_xl (a n : Nat) : (s.hsZero a n).xl = s.xl := rfl
@[simp] theorem State.hsZero_rings (a n : Nat) : (s.hsZero a n).rings = s.rings := rfl
@[simp] theorem State.hsZero_blocks (a n : Nat) : (s.hsZero a n).blocks = s.blocks := rfl
@[simp] theorem State.hsZero_fetches (a n : Nat) : (s.hsZero a n).fetches = s.fetches := rfl
@[simp] theorem State.hsZero_ctxs (a n : Nat) : (s.hsZero a n).ctxs = s.ctxs := rfl
@[simp] theorem State.hsZero_hosts (a n : Nat) : (s.hsZero a n).hosts = s.hosts := rfl
@[simp] theorem State.hsZero_sync (a n : Nat) : (s.hsZero a n).sync = s.sync := rfl
@[simp] theorem State.hsZero_slices (a n : Nat) : (s.hsZero a n).slices = s.slices := rfl
@[simp] theorem State.hsZero_flue (a n : Nat) : (s.hsZero a n).flue = s.flue := rfl
@[simp] theorem State.hsZero_ports (a n : Nat) : (s.hsZero a n).ports = s.ports := rfl
@[simp] theorem State.hsZero_sched (a n : Nat) : (s.hsZero a n).sched = s.sched := rfl
@[simp] theorem State.hsZero_hl (a n : Nat) : (s.hsZero a n).hl = s.hl := rfl
@[simp] theorem State.hsZero_keysets (a n : Nat) : (s.hsZero a n).keysets = s.keysets := rfl
@[simp] theorem State.hsZero_log (a n : Nat) : (s.hsZero a n).log = s.log := rfl
@[simp] theorem State.hsZero_fw (a n : Nat) : (s.hsZero a n).fw = s.fw := rfl
@[simp] theorem State.hsZero_emb (a n : Nat) : (s.hsZero a n).emb = s.emb := rfl
@[simp] theorem State.hsZero_led (a n : Nat) : (s.hsZero a n).led = s.led := rfl
@[simp] theorem State.hsZero_pldm (a n : Nat) : (s.hsZero a n).pldm = s.pldm := rfl
@[simp] theorem State.hsZero_dmp (a n : Nat) : (s.hsZero a n).dmp = s.dmp := rfl
@[simp] theorem State.hsZero_edge (a n : Nat) : (s.hsZero a n).edge = s.edge := rfl
@[simp] theorem State.hsZero_out (a n : Nat) : (s.hsZero a n).out = s.out := rfl
@[simp] theorem State.hsZero_pending (a n : Nat) : (s.hsZero a n).pending = s.pending := rfl

/-! ### updComponent -/

@[simp] theorem State.updComponent_clk (c : Comp) (f : Component → Component) : (s.updComponent c f).clk = s.clk := rfl
@[simp] theorem State.updComponent_part (c : Comp) (f : Component → Component) : (s.updComponent c f).part = s.part := rfl
@[simp] theorem State.updComponent_ctl (c : Comp) (f : Component → Component) : (s.updComponent c f).ctl = s.ctl := rfl
@[simp] theorem State.updComponent_mem (c : Comp) (f : Component → Component) : (s.updComponent c f).mem = s.mem := rfl
@[simp] theorem State.updComponent_poison (c : Comp) (f : Component → Component) : (s.updComponent c f).poison = s.poison := rfl
@[simp] theorem State.updComponent_grants (c : Comp) (f : Component → Component) : (s.updComponent c f).grants = s.grants := rfl
@[simp] theorem State.updComponent_zeroing (c : Comp) (f : Component → Component) : (s.updComponent c f).zeroing = s.zeroing := rfl
@[simp] theorem State.updComponent_heldBy (c : Comp) (f : Component → Component) : (s.updComponent c f).heldBy = s.heldBy := rfl
@[simp] theorem State.updComponent_xl (c : Comp) (f : Component → Component) : (s.updComponent c f).xl = s.xl := rfl
@[simp] theorem State.updComponent_rings (c : Comp) (f : Component → Component) : (s.updComponent c f).rings = s.rings := rfl
@[simp] theorem State.updComponent_blocks (c : Comp) (f : Component → Component) : (s.updComponent c f).blocks = s.blocks := rfl
@[simp] theorem State.updComponent_fetches (c : Comp) (f : Component → Component) : (s.updComponent c f).fetches = s.fetches := rfl
@[simp] theorem State.updComponent_ctxs (c : Comp) (f : Component → Component) : (s.updComponent c f).ctxs = s.ctxs := rfl
@[simp] theorem State.updComponent_hosts (c : Comp) (f : Component → Component) : (s.updComponent c f).hosts = s.hosts := rfl
@[simp] theorem State.updComponent_sync (c : Comp) (f : Component → Component) : (s.updComponent c f).sync = s.sync := rfl
@[simp] theorem State.updComponent_slices (c : Comp) (f : Component → Component) : (s.updComponent c f).slices = s.slices := rfl
@[simp] theorem State.updComponent_flue (c : Comp) (f : Component → Component) : (s.updComponent c f).flue = s.flue := rfl
@[simp] theorem State.updComponent_ports (c : Comp) (f : Component → Component) : (s.updComponent c f).ports = s.ports := rfl
@[simp] theorem State.updComponent_sched (c : Comp) (f : Component → Component) : (s.updComponent c f).sched = s.sched := rfl
@[simp] theorem State.updComponent_hl (c : Comp) (f : Component → Component) : (s.updComponent c f).hl = s.hl := rfl
@[simp] theorem State.updComponent_keysets (c : Comp) (f : Component → Component) : (s.updComponent c f).keysets = s.keysets := rfl
@[simp] theorem State.updComponent_log (c : Comp) (f : Component → Component) : (s.updComponent c f).log = s.log := rfl
@[simp] theorem State.updComponent_emb (c : Comp) (f : Component → Component) : (s.updComponent c f).emb = s.emb := rfl
@[simp] theorem State.updComponent_led (c : Comp) (f : Component → Component) : (s.updComponent c f).led = s.led := rfl
@[simp] theorem State.updComponent_pldm (c : Comp) (f : Component → Component) : (s.updComponent c f).pldm = s.pldm := rfl
@[simp] theorem State.updComponent_dmp (c : Comp) (f : Component → Component) : (s.updComponent c f).dmp = s.dmp := rfl
@[simp] theorem State.updComponent_edge (c : Comp) (f : Component → Component) : (s.updComponent c f).edge = s.edge := rfl
@[simp] theorem State.updComponent_out (c : Comp) (f : Component → Component) : (s.updComponent c f).out = s.out := rfl
@[simp] theorem State.updComponent_pending (c : Comp) (f : Component → Component) : (s.updComponent c f).pending = s.pending := rfl

/-! ### teleHost -/

@[simp] theorem State.teleHost_clk (h : HF) (k n : Nat) : (s.teleHost h k n).clk = s.clk := rfl
@[simp] theorem State.teleHost_part (h : HF) (k n : Nat) : (s.teleHost h k n).part = s.part := rfl
@[simp] theorem State.teleHost_ctl (h : HF) (k n : Nat) : (s.teleHost h k n).ctl = s.ctl := rfl
@[simp] theorem State.teleHost_mem (h : HF) (k n : Nat) : (s.teleHost h k n).mem = s.mem := rfl
@[simp] theorem State.teleHost_poison (h : HF) (k n : Nat) : (s.teleHost h k n).poison = s.poison := rfl
@[simp] theorem State.teleHost_grants (h : HF) (k n : Nat) : (s.teleHost h k n).grants = s.grants := rfl
@[simp] theorem State.teleHost_zeroing (h : HF) (k n : Nat) : (s.teleHost h k n).zeroing = s.zeroing := rfl
@[simp] theorem State.teleHost_heldBy (h : HF) (k n : Nat) : (s.teleHost h k n).heldBy = s.heldBy := rfl
@[simp] theorem State.teleHost_xl (h : HF) (k n : Nat) : (s.teleHost h k n).xl = s.xl := rfl
@[simp] theorem State.teleHost_rings (h : HF) (k n : Nat) : (s.teleHost h k n).rings = s.rings := rfl
@[simp] theorem State.teleHost_blocks (h : HF) (k n : Nat) : (s.teleHost h k n).blocks = s.blocks := rfl
@[simp] theorem State.teleHost_fetches (h : HF) (k n : Nat) : (s.teleHost h k n).fetches = s.fetches := rfl
@[simp] theorem State.teleHost_ctxs (h : HF) (k n : Nat) : (s.teleHost h k n).ctxs = s.ctxs := rfl
@[simp] theorem State.teleHost_sync (h : HF) (k n : Nat) : (s.teleHost h k n).sync = s.sync := rfl
@[simp] theorem State.teleHost_slices (h : HF) (k n : Nat) : (s.teleHost h k n).slices = s.slices := rfl
@[simp] theorem State.teleHost_flue (h : HF) (k n : Nat) : (s.teleHost h k n).flue = s.flue := rfl
@[simp] theorem State.teleHost_ports (h : HF) (k n : Nat) : (s.teleHost h k n).ports = s.ports := rfl
@[simp] theorem State.teleHost_sched (h : HF) (k n : Nat) : (s.teleHost h k n).sched = s.sched := rfl
@[simp] theorem State.teleHost_hl (h : HF) (k n : Nat) : (s.teleHost h k n).hl = s.hl := rfl
@[simp] theorem State.teleHost_keysets (h : HF) (k n : Nat) : (s.teleHost h k n).keysets = s.keysets := rfl
@[simp] theorem State.teleHost_log (h : HF) (k n : Nat) : (s.teleHost h k n).log = s.log := rfl
@[simp] theorem State.teleHost_fw (h : HF) (k n : Nat) : (s.teleHost h k n).fw = s.fw := rfl
@[simp] theorem State.teleHost_emb (h : HF) (k n : Nat) : (s.teleHost h k n).emb = s.emb := rfl
@[simp] theorem State.teleHost_led (h : HF) (k n : Nat) : (s.teleHost h k n).led = s.led := rfl
@[simp] theorem State.teleHost_pldm (h : HF) (k n : Nat) : (s.teleHost h k n).pldm = s.pldm := rfl
@[simp] theorem State.teleHost_dmp (h : HF) (k n : Nat) : (s.teleHost h k n).dmp = s.dmp := rfl
@[simp] theorem State.teleHost_edge (h : HF) (k n : Nat) : (s.teleHost h k n).edge = s.edge := rfl
@[simp] theorem State.teleHost_out (h : HF) (k n : Nat) : (s.teleHost h k n).out = s.out := rfl
@[simp] theorem State.teleHost_pending (h : HF) (k n : Nat) : (s.teleHost h k n).pending = s.pending := rfl

/-! ### teleGlobal -/

@[simp] theorem State.teleGlobal_clk (k n : Nat) : (s.teleGlobal k n).clk = s.clk := rfl
@[simp] theorem State.teleGlobal_part (k n : Nat) : (s.teleGlobal k n).part = s.part := rfl
@[simp] theorem State.teleGlobal_ctl (k n : Nat) : (s.teleGlobal k n).ctl = s.ctl := rfl
@[simp] theorem State.teleGlobal_mem (k n : Nat) : (s.teleGlobal k n).mem = s.mem := rfl
@[simp] theorem State.teleGlobal_poison (k n : Nat) : (s.teleGlobal k n).poison = s.poison := rfl
@[simp] theorem State.teleGlobal_grants (k n : Nat) : (s.teleGlobal k n).grants = s.grants := rfl
@[simp] theorem State.teleGlobal_zeroing (k n : Nat) : (s.teleGlobal k n).zeroing = s.zeroing := rfl
@[simp] theorem State.teleGlobal_heldBy (k n : Nat) : (s.teleGlobal k n).heldBy = s.heldBy := rfl
@[simp] theorem State.teleGlobal_xl (k n : Nat) : (s.teleGlobal k n).xl = s.xl := rfl
@[simp] theorem State.teleGlobal_rings (k n : Nat) : (s.teleGlobal k n).rings = s.rings := rfl
@[simp] theorem State.teleGlobal_blocks (k n : Nat) : (s.teleGlobal k n).blocks = s.blocks := rfl
@[simp] theorem State.teleGlobal_fetches (k n : Nat) : (s.teleGlobal k n).fetches = s.fetches := rfl
@[simp] theorem State.teleGlobal_ctxs (k n : Nat) : (s.teleGlobal k n).ctxs = s.ctxs := rfl
@[simp] theorem State.teleGlobal_hosts (k n : Nat) : (s.teleGlobal k n).hosts = s.hosts := rfl
@[simp] theorem State.teleGlobal_sync (k n : Nat) : (s.teleGlobal k n).sync = s.sync := rfl
@[simp] theorem State.teleGlobal_slices (k n : Nat) : (s.teleGlobal k n).slices = s.slices := rfl
@[simp] theorem State.teleGlobal_flue (k n : Nat) : (s.teleGlobal k n).flue = s.flue := rfl
@[simp] theorem State.teleGlobal_ports (k n : Nat) : (s.teleGlobal k n).ports = s.ports := rfl
@[simp] theorem State.teleGlobal_sched (k n : Nat) : (s.teleGlobal k n).sched = s.sched := rfl
@[simp] theorem State.teleGlobal_keysets (k n : Nat) : (s.teleGlobal k n).keysets = s.keysets := rfl
@[simp] theorem State.teleGlobal_log (k n : Nat) : (s.teleGlobal k n).log = s.log := rfl
@[simp] theorem State.teleGlobal_fw (k n : Nat) : (s.teleGlobal k n).fw = s.fw := rfl
@[simp] theorem State.teleGlobal_emb (k n : Nat) : (s.teleGlobal k n).emb = s.emb := rfl
@[simp] theorem State.teleGlobal_led (k n : Nat) : (s.teleGlobal k n).led = s.led := rfl
@[simp] theorem State.teleGlobal_pldm (k n : Nat) : (s.teleGlobal k n).pldm = s.pldm := rfl
@[simp] theorem State.teleGlobal_dmp (k n : Nat) : (s.teleGlobal k n).dmp = s.dmp := rfl
@[simp] theorem State.teleGlobal_edge (k n : Nat) : (s.teleGlobal k n).edge = s.edge := rfl
@[simp] theorem State.teleGlobal_out (k n : Nat) : (s.teleGlobal k n).out = s.out := rfl
@[simp] theorem State.teleGlobal_pending (k n : Nat) : (s.teleGlobal k n).pending = s.pending := rfl

/-! ### ledgerError -/

@[simp] theorem State.ledgerError_clk (k n : Nat) : (s.ledgerError k n).clk = s.clk := rfl
@[simp] theorem State.ledgerError_part (k n : Nat) : (s.ledgerError k n).part = s.part := rfl
@[simp] theorem State.ledgerError_ctl (k n : Nat) : (s.ledgerError k n).ctl = s.ctl := rfl
@[simp] theorem State.ledgerError_mem (k n : Nat) : (s.ledgerError k n).mem = s.mem := rfl
@[simp] theorem State.ledgerError_poison (k n : Nat) : (s.ledgerError k n).poison = s.poison := rfl
@[simp] theorem State.ledgerError_grants (k n : Nat) : (s.ledgerError k n).grants = s.grants := rfl
@[simp] theorem State.ledgerError_zeroing (k n : Nat) : (s.ledgerError k n).zeroing = s.zeroing := rfl
@[simp] theorem State.ledgerError_heldBy (k n : Nat) : (s.ledgerError k n).heldBy = s.heldBy := rfl
@[simp] theorem State.ledgerError_xl (k n : Nat) : (s.ledgerError k n).xl = s.xl := rfl
@[simp] theorem State.ledgerError_rings (k n : Nat) : (s.ledgerError k n).rings = s.rings := rfl
@[simp] theorem State.ledgerError_blocks (k n : Nat) : (s.ledgerError k n).blocks = s.blocks := rfl
@[simp] theorem State.ledgerError_fetches (k n : Nat) : (s.ledgerError k n).fetches = s.fetches := rfl
@[simp] theorem State.ledgerError_ctxs (k n : Nat) : (s.ledgerError k n).ctxs = s.ctxs := rfl
@[simp] theorem State.ledgerError_hosts (k n : Nat) : (s.ledgerError k n).hosts = s.hosts := rfl
@[simp] theorem State.ledgerError_sync (k n : Nat) : (s.ledgerError k n).sync = s.sync := rfl
@[simp] theorem State.ledgerError_slices (k n : Nat) : (s.ledgerError k n).slices = s.slices := rfl
@[simp] theorem State.ledgerError_flue (k n : Nat) : (s.ledgerError k n).flue = s.flue := rfl
@[simp] theorem State.ledgerError_ports (k n : Nat) : (s.ledgerError k n).ports = s.ports := rfl
@[simp] theorem State.ledgerError_sched (k n : Nat) : (s.ledgerError k n).sched = s.sched := rfl
@[simp] theorem State.ledgerError_hl (k n : Nat) : (s.ledgerError k n).hl = s.hl := rfl
@[simp] theorem State.ledgerError_keysets (k n : Nat) : (s.ledgerError k n).keysets = s.keysets := rfl
@[simp] theorem State.ledgerError_log (k n : Nat) : (s.ledgerError k n).log = s.log := rfl
@[simp] theorem State.ledgerError_fw (k n : Nat) : (s.ledgerError k n).fw = s.fw := rfl
@[simp] theorem State.ledgerError_emb (k n : Nat) : (s.ledgerError k n).emb = s.emb := rfl
@[simp] theorem State.ledgerError_pldm (k n : Nat) : (s.ledgerError k n).pldm = s.pldm := rfl
@[simp] theorem State.ledgerError_dmp (k n : Nat) : (s.ledgerError k n).dmp = s.dmp := rfl
@[simp] theorem State.ledgerError_edge (k n : Nat) : (s.ledgerError k n).edge = s.edge := rfl
@[simp] theorem State.ledgerError_out (k n : Nat) : (s.ledgerError k n).out = s.out := rfl
@[simp] theorem State.ledgerError_pending (k n : Nat) : (s.ledgerError k n).pending = s.pending := rfl

/-! ### ledgerHold -/

@[simp] theorem State.ledgerHold_clk (ty : Nat) (payload : List Byte) : (s.ledgerHold ty payload).clk = s.clk := rfl
@[simp] theorem State.ledgerHold_part (ty : Nat) (payload : List Byte) : (s.ledgerHold ty payload).part = s.part := rfl
@[simp] theorem State.ledgerHold_ctl (ty : Nat) (payload : List Byte) : (s.ledgerHold ty payload).ctl = s.ctl := rfl
@[simp] theorem State.ledgerHold_mem (ty : Nat) (payload : List Byte) : (s.ledgerHold ty payload).mem = s.mem := rfl
@[simp] theorem State.ledgerHold_poison (ty : Nat) (payload : List Byte) : (s.ledgerHold ty payload).poison = s.poison := rfl
@[simp] theorem State.ledgerHold_grants (ty : Nat) (payload : List Byte) : (s.ledgerHold ty payload).grants = s.grants := rfl
@[simp] theorem State.ledgerHold_zeroing (ty : Nat) (payload : List Byte) : (s.ledgerHold ty payload).zeroing = s.zeroing := rfl
@[simp] theorem State.ledgerHold_heldBy (ty : Nat) (payload : List Byte) : (s.ledgerHold ty payload).heldBy = s.heldBy := rfl
@[simp] theorem State.ledgerHold_xl (ty : Nat) (payload : List Byte) : (s.ledgerHold ty payload).xl = s.xl := rfl
@[simp] theorem State.ledgerHold_rings (ty : Nat) (payload : List Byte) : (s.ledgerHold ty payload).rings = s.rings := rfl
@[simp] theorem State.ledgerHold_blocks (ty : Nat) (payload : List Byte) : (s.ledgerHold ty payload).blocks = s.blocks := rfl
@[simp] theorem State.ledgerHold_fetches (ty : Nat) (payload : List Byte) : (s.ledgerHold ty payload).fetches = s.fetches := rfl
@[simp] theorem State.ledgerHold_ctxs (ty : Nat) (payload : List Byte) : (s.ledgerHold ty payload).ctxs = s.ctxs := rfl
@[simp] theorem State.ledgerHold_hosts (ty : Nat) (payload : List Byte) : (s.ledgerHold ty payload).hosts = s.hosts := rfl
@[simp] theorem State.ledgerHold_sync (ty : Nat) (payload : List Byte) : (s.ledgerHold ty payload).sync = s.sync := rfl
@[simp] theorem State.ledgerHold_slices (ty : Nat) (payload : List Byte) : (s.ledgerHold ty payload).slices = s.slices := rfl
@[simp] theorem State.ledgerHold_flue (ty : Nat) (payload : List Byte) : (s.ledgerHold ty payload).flue = s.flue := rfl
@[simp] theorem State.ledgerHold_ports (ty : Nat) (payload : List Byte) : (s.ledgerHold ty payload).ports = s.ports := rfl
@[simp] theorem State.ledgerHold_sched (ty : Nat) (payload : List Byte) : (s.ledgerHold ty payload).sched = s.sched := rfl
@[simp] theorem State.ledgerHold_hl (ty : Nat) (payload : List Byte) : (s.ledgerHold ty payload).hl = s.hl := rfl
@[simp] theorem State.ledgerHold_keysets (ty : Nat) (payload : List Byte) : (s.ledgerHold ty payload).keysets = s.keysets := rfl
@[simp] theorem State.ledgerHold_log (ty : Nat) (payload : List Byte) : (s.ledgerHold ty payload).log = s.log := rfl
@[simp] theorem State.ledgerHold_fw (ty : Nat) (payload : List Byte) : (s.ledgerHold ty payload).fw = s.fw := rfl
@[simp] theorem State.ledgerHold_emb (ty : Nat) (payload : List Byte) : (s.ledgerHold ty payload).emb = s.emb := rfl
@[simp] theorem State.ledgerHold_pldm (ty : Nat) (payload : List Byte) : (s.ledgerHold ty payload).pldm = s.pldm := rfl
@[simp] theorem State.ledgerHold_dmp (ty : Nat) (payload : List Byte) : (s.ledgerHold ty payload).dmp = s.dmp := rfl
@[simp] theorem State.ledgerHold_edge (ty : Nat) (payload : List Byte) : (s.ledgerHold ty payload).edge = s.edge := rfl
@[simp] theorem State.ledgerHold_out (ty : Nat) (payload : List Byte) : (s.ledgerHold ty payload).out = s.out := rfl
@[simp] theorem State.ledgerHold_pending (ty : Nat) (payload : List Byte) : (s.ledgerHold ty payload).pending = s.pending := rfl

/-! ### signalVec -/

@[simp] theorem State.signalVec_clk (h : HF) (v : Nat) : (s.signalVec h v).clk = s.clk := rfl
@[simp] theorem State.signalVec_part (h : HF) (v : Nat) : (s.signalVec h v).part = s.part := rfl
@[simp] theorem State.signalVec_ctl (h : HF) (v : Nat) : (s.signalVec h v).ctl = s.ctl := rfl
@[simp] theorem State.signalVec_mem (h : HF) (v : Nat) : (s.signalVec h v).mem = s.mem := rfl
@[simp] theorem State.signalVec_poison (h : HF) (v : Nat) : (s.signalVec h v).poison = s.poison := rfl
@[simp] theorem State.signalVec_grants (h : HF) (v : Nat) : (s.signalVec h v).grants = s.grants := rfl
@[simp] theorem State.signalVec_zeroing (h : HF) (v : Nat) : (s.signalVec h v).zeroing = s.zeroing := rfl
@[simp] theorem State.signalVec_heldBy (h : HF) (v : Nat) : (s.signalVec h v).heldBy = s.heldBy := rfl
@[simp] theorem State.signalVec_xl (h : HF) (v : Nat) : (s.signalVec h v).xl = s.xl := rfl
@[simp] theorem State.signalVec_rings (h : HF) (v : Nat) : (s.signalVec h v).rings = s.rings := rfl
@[simp] theorem State.signalVec_blocks (h : HF) (v : Nat) : (s.signalVec h v).blocks = s.blocks := rfl
@[simp] theorem State.signalVec_fetches (h : HF) (v : Nat) : (s.signalVec h v).fetches = s.fetches := rfl
@[simp] theorem State.signalVec_ctxs (h : HF) (v : Nat) : (s.signalVec h v).ctxs = s.ctxs := rfl
@[simp] theorem State.signalVec_sync (h : HF) (v : Nat) : (s.signalVec h v).sync = s.sync := rfl
@[simp] theorem State.signalVec_slices (h : HF) (v : Nat) : (s.signalVec h v).slices = s.slices := rfl
@[simp] theorem State.signalVec_flue (h : HF) (v : Nat) : (s.signalVec h v).flue = s.flue := rfl
@[simp] theorem State.signalVec_ports (h : HF) (v : Nat) : (s.signalVec h v).ports = s.ports := rfl
@[simp] theorem State.signalVec_sched (h : HF) (v : Nat) : (s.signalVec h v).sched = s.sched := rfl
@[simp] theorem State.signalVec_hl (h : HF) (v : Nat) : (s.signalVec h v).hl = s.hl := rfl
@[simp] theorem State.signalVec_keysets (h : HF) (v : Nat) : (s.signalVec h v).keysets = s.keysets := rfl
@[simp] theorem State.signalVec_log (h : HF) (v : Nat) : (s.signalVec h v).log = s.log := rfl
@[simp] theorem State.signalVec_fw (h : HF) (v : Nat) : (s.signalVec h v).fw = s.fw := rfl
@[simp] theorem State.signalVec_emb (h : HF) (v : Nat) : (s.signalVec h v).emb = s.emb := rfl
@[simp] theorem State.signalVec_led (h : HF) (v : Nat) : (s.signalVec h v).led = s.led := rfl
@[simp] theorem State.signalVec_pldm (h : HF) (v : Nat) : (s.signalVec h v).pldm = s.pldm := rfl
@[simp] theorem State.signalVec_dmp (h : HF) (v : Nat) : (s.signalVec h v).dmp = s.dmp := rfl
@[simp] theorem State.signalVec_edge (h : HF) (v : Nat) : (s.signalVec h v).edge = s.edge := rfl
@[simp] theorem State.signalVec_out (h : HF) (v : Nat) : (s.signalVec h v).out = s.out := rfl
@[simp] theorem State.signalVec_pending (h : HF) (v : Nat) : (s.signalVec h v).pending = s.pending := rfl

/-! ### ringSignal -/

@[simp] theorem State.ringSignal_clk (r : RingId) : (s.ringSignal r).clk = s.clk := rfl
@[simp] theorem State.ringSignal_part (r : RingId) : (s.ringSignal r).part = s.part := rfl
@[simp] theorem State.ringSignal_ctl (r : RingId) : (s.ringSignal r).ctl = s.ctl := rfl
@[simp] theorem State.ringSignal_mem (r : RingId) : (s.ringSignal r).mem = s.mem := rfl
@[simp] theorem State.ringSignal_poison (r : RingId) : (s.ringSignal r).poison = s.poison := rfl
@[simp] theorem State.ringSignal_grants (r : RingId) : (s.ringSignal r).grants = s.grants := rfl
@[simp] theorem State.ringSignal_zeroing (r : RingId) : (s.ringSignal r).zeroing = s.zeroing := rfl
@[simp] theorem State.ringSignal_heldBy (r : RingId) : (s.ringSignal r).heldBy = s.heldBy := rfl
@[simp] theorem State.ringSignal_xl (r : RingId) : (s.ringSignal r).xl = s.xl := rfl
@[simp] theorem State.ringSignal_blocks (r : RingId) : (s.ringSignal r).blocks = s.blocks := rfl
@[simp] theorem State.ringSignal_fetches (r : RingId) : (s.ringSignal r).fetches = s.fetches := rfl
@[simp] theorem State.ringSignal_ctxs (r : RingId) : (s.ringSignal r).ctxs = s.ctxs := rfl
@[simp] theorem State.ringSignal_sync (r : RingId) : (s.ringSignal r).sync = s.sync := rfl
@[simp] theorem State.ringSignal_slices (r : RingId) : (s.ringSignal r).slices = s.slices := rfl
@[simp] theorem State.ringSignal_flue (r : RingId) : (s.ringSignal r).flue = s.flue := rfl
@[simp] theorem State.ringSignal_ports (r : RingId) : (s.ringSignal r).ports = s.ports := rfl
@[simp] theorem State.ringSignal_sched (r : RingId) : (s.ringSignal r).sched = s.sched := rfl
@[simp] theorem State.ringSignal_hl (r : RingId) : (s.ringSignal r).hl = s.hl := rfl
@[simp] theorem State.ringSignal_keysets (r : RingId) : (s.ringSignal r).keysets = s.keysets := rfl
@[simp] theorem State.ringSignal_log (r : RingId) : (s.ringSignal r).log = s.log := rfl
@[simp] theorem State.ringSignal_fw (r : RingId) : (s.ringSignal r).fw = s.fw := rfl
@[simp] theorem State.ringSignal_emb (r : RingId) : (s.ringSignal r).emb = s.emb := rfl
@[simp] theorem State.ringSignal_led (r : RingId) : (s.ringSignal r).led = s.led := rfl
@[simp] theorem State.ringSignal_pldm (r : RingId) : (s.ringSignal r).pldm = s.pldm := rfl
@[simp] theorem State.ringSignal_dmp (r : RingId) : (s.ringSignal r).dmp = s.dmp := rfl
@[simp] theorem State.ringSignal_edge (r : RingId) : (s.ringSignal r).edge = s.edge := rfl
@[simp] theorem State.ringSignal_out (r : RingId) : (s.ringSignal r).out = s.out := rfl
@[simp] theorem State.ringSignal_pending (r : RingId) : (s.ringSignal r).pending = s.pending := rfl

/-! ### Reading back -/

@[simp] theorem State.host_updHost (h g : HF) (f : HostFn → HostFn) :
    (s.updHost h f).host g = if g = h then f (s.host h) else s.host g := by
  simp only [State.updHost, State.setHost, State.host, tget_tput]
  by_cases e : g = h
  · subst e; simp
  · rw [if_neg e, if_neg fun x => e (Fin.ext x)]

@[simp] theorem State.ring_updRing (r x : RingId) (f : Ring → Ring) :
    (s.updRing r f).ring x = if x = r then f (s.ring r) else s.ring x := by
  simp only [State.updRing, State.setRing, State.ring, tget_tput]
  by_cases e : x = r
  · subst e; simp
  · rw [if_neg e, if_neg fun y => e (Fin.ext y)]

@[simp] theorem State.slice_updSlice (n m : SliceId) (f : Slice → Slice) :
    (s.updSlice n f).slice m = if m = n then f (s.slice n) else s.slice m := by
  simp only [State.updSlice, State.setSlice, State.slice, tget_tput]
  by_cases e : m = n
  · subst e; simp
  · rw [if_neg e, if_neg fun y => e (Fin.ext y)]

theorem State.syncCounter_setSync (h g : HF) (k j : Nat) (v : W64) (hk : k < 256) (hj : j < 256) :
    (s.setSync h k v).syncCounter g j = if g = h ∧ j = k then v else s.syncCounter g j := by
  simp only [State.setSync, State.syncCounter, tget_tset]
  by_cases e : g = h ∧ j = k
  · obtain ⟨rfl, rfl⟩ := e; simp
  · rw [if_neg e, if_neg]
    intro x
    exact e ⟨Fin.ext (by omega), by omega⟩

@[simp] theorem HostFn.vec_updVec (x : HostFn) (v u : Nat) (f : EvVec → EvVec) :
    (x.updVec v f).vec u = if u = v then f (x.vec v) else x.vec u := by
  simp only [HostFn.vec, HostFn.updVec]
  by_cases e : u = v
  · subst e; simp
  · rw [if_neg e, tget_tupd_ne _ _ _ e]

@[simp] theorem Slice.pool_updPool (v : Slice) (k j : Nat) (f : Pool → Pool) :
    (v.updPool k f).pool j = if j = k then f (v.pool k) else v.pool j := by
  simp only [Slice.pool, Slice.updPool]
  by_cases e : j = k
  · subst e; simp
  · rw [if_neg e, tget_tupd_ne _ _ _ e]

theorem find_map_ctx (l : List (Nat × Ctx)) (r x : RingId) (f : Ctx → Ctx) (h : ∀ c, (f c).ring = c.ring) :
    (l.map fun e => if e.2.ring == r then (e.1, f e.2) else e).find? (fun e => e.2.ring == x) =
      ((l.find? fun e => e.2.ring == x).map fun e => if e.2.ring == r then (e.1, f e.2) else e) := by
  induction l with
  | nil => rfl
  | cons e l ih =>
    have hr : (if e.2.ring == r then (e.1, f e.2) else e).2.ring = e.2.ring := by
      split
      · exact h e.2
      · rfl
    simp only [List.map_cons, List.find?_cons, hr]
    split
    · simp
    · exact ih

theorem State.ctxOf_updCtx (r x : RingId) (f : Ctx → Ctx) (h : ∀ c, (f c).ring = c.ring) :
    (s.updCtx r f).ctxOf x = (s.ctxOf x).map fun e => if e.2.ring == r then (e.1, f e.2) else e :=
  find_map_ctx s.ctxs r x f h

/-- A change of the slots of ring `r` maps its own slots and no other ring's. -/
theorem State.slotsOf_updSlot (r x : RingId) (p : W32) (f : Slot → Slot) :
    (s.updSlot r p f).slotsOf x = if x = r then (s.slotsOf x).map (fun d => if d.idx == p then f d else d) else s.slotsOf x := by
  unfold State.slotsOf State.updSlot
  rw [State.ctxOf_updCtx (h := by intro c; rfl)]
  cases hc : s.ctxOf x with
  | none => simp
  | some e =>
    have he : e.2.ring = x := by simpa using List.find?_some hc
    by_cases hx : x = r
    · subst hx; simp [he]
    · have : ¬ e.2.ring = r := by rw [he]; exact hx
      simp [hx, this]

end Sys2Proof.Machine
end

