-- ==== Sys2Proof/Laws/Ops.lean ====
section
/-! SUPPORT. Laws of the named operations: memory reads back what was written and keeps its canonical form; the log, the
events and the errors of a ring change only their own parts of the state. -/

namespace Sys2Proof.Machine

/-! ### Memory -/

theorem readMem_writeMem (m : List Host.Cell) (k j : Nat) (b : Byte) :
    readMem (writeMem m k b) j = if j = k then b else readMem m j := tget_tset unlistedByte m k j b

theorem readMem_writeMems (bs : List Byte) : ∀ (m : List Host.Cell) (k j : Nat),
    readMem (writeMems m k bs) j = if k ≤ j ∧ j < k + bs.length then bs.getD (j - k) 0 else readMem m j := by
  induction bs with
  | nil => intro m k j; rw [if_neg (by simp only [List.length_nil]; omega)]; rfl
  | cons b bs ih =>
    intro m k j
    simp only [writeMems, ih, readMem_writeMem, List.length_cons]
    by_cases h : j = k
    · subst h
      rw [if_neg (by omega), if_pos rfl, if_pos (by omega)]
      simp
    · by_cases h1 : k + 1 ≤ j ∧ j < k + 1 + bs.length
      · rw [if_pos h1, if_pos (by omega)]
        have : j - k = (j - (k + 1)) + 1 := by omega
        rw [this, List.getD_cons_succ]
      · rw [if_neg h1, if_neg h, if_neg (by omega)]

theorem readMem_filter (m : List Host.Cell) (p : Nat → Bool) (k : Nat) :
    readMem (m.filter fun e => p e.1) k = if p k then readMem m k else unlistedByte := tget_filter m p k unlistedByte

/-- Bytes that were just written read back. -/
theorem State.readBytes_writeBytes (s : State) (sp a : Nat) (bs : List Byte) : (s.writeBytes sp a bs).readBytes sp a bs.length = bs := by
  apply List.ext_getElem
  · simp [State.readBytes]
  · intro i h1 h2
    simp only [State.readBytes, State.writeBytes, List.getElem_map, List.getElem_range, readMem_writeMems, memKey]
    rw [if_pos (by omega)]
    have : sp * 2 ^ 64 + (a + i) - (sp * 2 ^ 64 + a) = i := by omega
    rw [this, List.getD_eq_getElem?_getD, List.getElem?_eq_getElem h2]
    rfl

/-- A write leaves every other byte alone. -/
theorem State.readMem_writeBytes_out (s : State) (sp a k : Nat) (bs : List Byte)
    (h : k < memKey sp a ∨ memKey sp a + bs.length ≤ k) : readMem (s.writeBytes sp a bs).mem k = readMem s.mem k := by
  simp only [State.writeBytes, readMem_writeMems]
  rw [if_neg (by omega)]

/-- A range that was zeroed reads 0, and every other byte is left alone. -/
theorem State.readMem_zeroRange (s : State) (sp a n k : Nat) :
    readMem (s.zeroRange sp a n).mem k = if memKey sp a ≤ k ∧ k < memKey sp a + n then 0 else readMem s.mem k := by
  simp only [State.zeroRange]
  rw [readMem_filter s.mem fun k => !(decide (memKey sp a ≤ k) && decide (k < memKey sp a + n))]
  by_cases h : memKey sp a ≤ k ∧ k < memKey sp a + n
  · simp [h, unlistedByte]
  · have e : (!(decide (memKey sp a ≤ k) && decide (k < memKey sp a + n))) = true := by
      simp only [Bool.not_eq_true', Bool.and_eq_false_imp, decide_eq_true_eq, decide_eq_false_iff_not]
      exact fun x y => h ⟨x, y⟩
    rw [if_neg h, if_pos e]

/-! ### The canonical form -/

theorem wf_writeMem (m : List Host.Cell) (k : Nat) (b : Byte) (h : Memory.wf m = true) : Memory.wf (writeMem m k b) = true :=
  twf_tset unlistedByte m k b h

theorem wf_writeMems (bs : List Byte) : ∀ (m : List Host.Cell) (k : Nat), Memory.wf m = true → Memory.wf (writeMems m k bs) = true := by
  induction bs with
  | nil => intro m k h; exact h
  | cons b bs ih => intro m k h; exact ih _ _ (wf_writeMem m k b h)

theorem State.wf_writeBytes (s : State) (sp a : Nat) (bs : List Byte) (h : Memory.wf s.mem = true) :
    Memory.wf (s.writeBytes sp a bs).mem = true := wf_writeMems bs s.mem _ h

theorem State.wf_zeroRange (s : State) (sp a n : Nat) (h : Memory.wf s.mem = true) : Memory.wf (s.zeroRange sp a n).mem = true :=
  twf_filter unlistedByte s.mem _ h

theorem State.wf_hsWrite (s : State) (a : Nat) (bs : List Byte) (h : Memory.wf s.mem = true) : Memory.wf (s.hsWrite a bs).mem = true :=
  State.wf_writeBytes _ _ _ _ (State.wf_writeBytes s _ _ _ h)

theorem State.wf_hsZero (s : State) (a n : Nat) (h : Memory.wf s.mem = true) : Memory.wf (s.hsZero a n).mem = true :=
  State.wf_zeroRange _ _ _ _ (State.wf_zeroRange s _ _ _ h)

theorem reset_memory_wf : Memory.wf State.reset.mem = true := rfl

/-! ### Folds -/

/-- What every step of a fold keeps, the fold keeps. -/
theorem foldl_keeps {α β : Type} (P : β → Prop) (f : β → α → β) (hf : ∀ x a, P x → P (f x a)) (l : List α) :
    ∀ x, P x → P (l.foldl f x) := by
  induction l with
  | nil => intro x h; exact h
  | cons a l ih => intro x h; exact ih _ (hf x a h)

/-! ### The log ring -/

/-- A note of an overwritten entry changes only the log's record of it. -/
theorem State.noteOverwritten_frame (s : State) : ∃ x, s.noteOverwritten = { s with log := { s.log with overwritten := x } } := by
  unfold State.noteOverwritten
  split
  · exact ⟨s.log.overwritten, rfl⟩
  · exact ⟨_, rfl⟩

theorem hsWrite_seq_changes (s : State) (x : Log) (a : Nat) (bs : List Byte) :
    ∃ m q l, (let t := ({ s with log := x } : State).hsWrite a bs; ({ t with log := { t.log with seq := t.log.seq + 1 } } : State)) =
      { s with mem := m, poison := q, log := l } := ⟨_, _, _, rfl⟩

/-- An entry that LOG writes changes memory and the log. -/
theorem State.putEntry_changes (s : State) (bs : List Byte) :
    ∃ m q l, s.putEntry bs = { s with mem := m, poison := q, log := l } := by
  unfold State.putEntry
  obtain ⟨x, hx⟩ := s.noteOverwritten_frame
  rw [hx]
  exact hsWrite_seq_changes s _ _ _

/-- A log entry changes only memory and the log, or a message port of LOG. -/
theorem State.logEntryOn_changes (s : State) (core : Nat) (c : Comp) (tp sev : Nat) (h : Option HF) (a b : Nat) :
    ∃ m q l w, s.logEntryOn core c tp sev h a b = { s with mem := m, poison := q, log := l, fw := w } := by
  unfold State.logEntryOn
  split
  · exact ⟨s.mem, s.poison, s.log, s.fw, rfl⟩
  · dsimp only
    split
    · obtain ⟨m, q, l, e⟩ := State.putEntry_changes s (logEntryBytes s.clk.fclk tp sev
        (match h with | none => 0 | some h => h.val) c.code core h.isNone s.log.seq a b)
      exact ⟨m, q, l, s.fw, e⟩
    · exact ⟨s.mem, s.poison, s.log, _, rfl⟩

theorem State.logEntry_changes (s : State) (c : Comp) (tp sev : Nat) (h : Option HF) (a b : Nat) :
    ∃ m q l w, s.logEntry c tp sev h a b = { s with mem := m, poison := q, log := l, fw := w } := State.logEntryOn_changes s c.core c tp sev h a b

theorem wf_hsWrite_seq (s : State) (x : Log) (a : Nat) (bs : List Byte) (w : Memory.wf s.mem = true) :
    Memory.wf (let t := ({ s with log := x } : State).hsWrite a bs; ({ t with log := { t.log with seq := t.log.seq + 1 } } : State)).mem =
      true := State.wf_hsWrite { s with log := x } a bs w

theorem State.wf_putEntry (s : State) (bs : List Byte) (w : Memory.wf s.mem = true) : Memory.wf (s.putEntry bs).mem = true := by
  unfold State.putEntry
  obtain ⟨x, hx⟩ := s.noteOverwritten_frame
  rw [hx]
  exact wf_hsWrite_seq s _ _ _ w

theorem State.wf_logEntryOn (s : State) (core : Nat) (c : Comp) (tp sev : Nat) (h : Option HF) (a b : Nat)
    (w : Memory.wf s.mem = true) : Memory.wf (s.logEntryOn core c tp sev h a b).mem = true := by
  unfold State.logEntryOn
  split
  · exact w
  · dsimp only
    split
    · exact State.wf_putEntry s _ w
    · exact w

theorem State.wf_logEntry (s : State) (c : Comp) (tp sev : Nat) (h : Option HF) (a b : Nat) (w : Memory.wf s.mem = true) :
    Memory.wf (s.logEntry c tp sev h a b).mem = true := State.wf_logEntryOn s c.core c tp sev h a b w

theorem State.putEntry_seq (s : State) (bs : List Byte) : (s.putEntry bs).log.seq = s.log.seq + 1 := by
  unfold State.putEntry
  obtain ⟨x, hx⟩ := s.noteOverwritten_frame
  rw [hx]
  simp

/-- An entry of severity 2 or more counts SEQ up by one while LOG runs. -/
theorem State.logEntry_seq (s : State) (c : Comp) (tp sev : Nat) (h : Option HF) (a b : Nat) (hs : 2 ≤ sev) :
    (s.logEntry c tp sev h a b).log.seq = s.log.seq + (if s.compRuns .log then 1 else 0) := by
  unfold State.logEntry State.logEntryOn State.compRuns
  have hlt : (decide (sev < 2) && !s.log.low) = false := by rw [decide_eq_false (by omega), Bool.false_and]
  rw [hlt, Bool.or_false]
  cases hf : s.firmwareUp <;> cases hl : s.compUp .log <;> simp [State.putEntry_seq]

/-! ### Events -/

/-- A global event changes only the host functions. -/
theorem State.globalEvent_frame (s : State) (b : Nat) : s.globalEvent b = { s with hosts := (s.globalEvent b).hosts } := by
  unfold State.globalEvent
  exact foldl_keeps (fun x : State => x = { s with hosts := x.hosts }) (fun s h => s.updHost h fun x => raiseGevt x b)
    (fun x h hx => by rw [hx]; rfl) (List.finRange 16) s rfl

theorem raiseGevt_bit (x : HostFn) (b i : Nat) (hi : i < 6) :
    (raiseGevt x b).gevt.getLsbD i = (x.gevt.getLsbD i || decide (i = b)) := by
  have : (x.gevt ||| BitVec.ofNat 6 (2 ^ b)).getLsbD i = (x.gevt.getLsbD i || decide (i = b)) := by
    rw [BitVec.getLsbD_or, BitVec.getLsbD_ofNat, Nat.testBit_two_pow]
    simp [hi, eq_comm]
  unfold raiseGevt
  split <;> simpa [HostFn.updVec] using this

/-- What a function does to each host function, where a fold applies it to each. -/
theorem State.host_foldl_updHost (f : HostFn → HostFn) (l : List HF) (hl : l.Nodup) :
    ∀ (s : State) (h : HF), (l.foldl (fun s h => s.updHost h f) s).host h = if h ∈ l then f (s.host h) else s.host h := by
  induction l with
  | nil => intro s h; simp
  | cons a l ih =>
    intro s h
    have hn := List.nodup_cons.1 hl
    simp only [List.foldl_cons, ih hn.2, State.host_updHost, List.mem_cons]
    by_cases e : h = a
    · subst e; simp [hn.1]
    · simp [e]

theorem finRange16_nodup : (List.finRange 16).Nodup := by decide

/-- A global event reaches every host function's copy. -/
theorem State.host_globalEvent (s : State) (b : Nat) (h : HF) : (s.globalEvent b).host h = raiseGevt (s.host h) b := by
  unfold State.globalEvent
  rw [State.host_foldl_updHost (fun x => raiseGevt x b) _ finRange16_nodup]
  simp

/-- A change of stage changes the stage and the host functions' event registers. -/
theorem State.setStage_frame (s : State) (st : Stage) :
    s.setStage st = { s with ctl := { s.ctl with stage := st }, hosts := (s.setStage st).hosts } :=
  State.globalEvent_frame { s with ctl := { s.ctl with stage := st } } evStage

/-- A change of the seal changes only the host functions' event registers beside the state that it is given. -/
theorem State.withSealEvent_frame (old new : State) :
    State.withSealEvent old new = { new with hosts := (State.withSealEvent old new).hosts } := by
  unfold State.withSealEvent
  split
  · exact State.globalEvent_frame new evSealed
  · rfl

/-! ### Errors of a ring -/

/-- An error of a ring changes the ring, its host function's vectors, the log with its ports, and memory. -/
theorem State.ringError_changes (s : State) (r : RingId) (cause : Nat) :
    ∃ a b m q l w, s.ringError r cause = { s with rings := a, hosts := b, mem := m, poison := q, log := l, fw := w } := by
  unfold State.ringError
  obtain ⟨m, q, l, w, h⟩ := (s.updRing r fun x => { x with st := .error, cause := cause }).logEntry_changes .admin 0x3006 2
    (some ((s.updRing r fun x => { x with st := .error, cause := cause }).ringHost r)) r.val cause
  simp only [h]
  exact ⟨_, _, _, _, _, _, rfl⟩

theorem State.wf_ringError (s : State) (r : RingId) (cause : Nat) (w : Memory.wf s.mem = true) :
    Memory.wf (s.ringError r cause).mem = true := by
  unfold State.ringError
  simp only [State.ringSignal_mem]
  exact State.wf_logEntry _ _ _ _ _ _ _ (by simpa using w)

end Sys2Proof.Machine
end

