-- ==== Sys2Proof/Laws/Memory.lean ====
section
/-! SUPPORT. The other operations that write memory keep its canonical form: destinations of descriptors, cipher cards, the
Bellows window, the wipes, the writes of SIGNAL and of admin buffers. -/

namespace Sys2Proof.Machine

/-- A request of the system matrix leaves memory alone. -/
@[simp] theorem State.request_mem (s : State) (q : Req) : (s.request q).mem = s.mem := rfl

/-! ### Destinations -/

theorem State.wf_putByte (s : State) (o : OpSnap) (b : Nat) (v : Byte) (w : Memory.wf s.mem = true) :
    Memory.wf (s.putByte o b v).mem = true := by
  unfold State.putByte
  exact wf_writeMem _ _ _ w

theorem State.wf_putElemAt (s : State) (o : OpSnap) (off v : Nat) (w : Memory.wf s.mem = true) :
    Memory.wf (s.putElemAt o off v).mem = true := by
  unfold State.putElemAt
  simp only []
  split
  · exact State.wf_putByte _ _ _ _ w
  · exact foldl_keeps (fun x : State => Memory.wf x.mem = true) _ (fun x a h => State.wf_putByte x _ _ _ h) _ _ w

theorem State.wf_putElems (s : State) (o : OpSnap) (vals : List (Nat × Nat)) (w : Memory.wf s.mem = true) :
    Memory.wf (s.putElems o vals).mem = true := by
  unfold State.putElems
  refine foldl_keeps (fun x : State => Memory.wf x.mem = true) _ (fun x pc h => ?_) _ _
    (foldl_keeps (fun x : State => Memory.wf x.mem = true) _ (fun x e h => State.wf_putElemAt x _ _ _ h) _ _ w)
  exact h

theorem State.wf_writeDest (s : State) (r : RingId) (o : OpSnap) (uses : List Nat) (vals : List (Nat × Nat))
    (w : Memory.wf s.mem = true) : Memory.wf (s.writeDest r o uses vals).mem = true := by
  unfold State.writeDest
  split
  · exact w
  · exact State.wf_putElems _ _ _ w

theorem State.wf_writeVals (r : RingId) (d : Slot) (vs : List (Nat × List (Nat × Option Nat))) :
    ∀ (s : State) (f : Nat), Memory.wf s.mem = true → Memory.wf (s.writeVals r d f vs).mem = true := by
  induction vs with
  | nil => intro s f w; exact w
  | cons v vs ih => intro s f w; exact ih _ _ (State.wf_writeDest s _ _ _ _ w)

theorem State.wf_poisonCard (s : State) (d : Slot) (w : Memory.wf s.mem = true) : Memory.wf (s.poisonCard d).mem = true := by
  unfold State.poisonCard
  simp only []
  split
  · exact wf_writeMem _ _ _ w
  · exact w

theorem State.wf_writeCard (s : State) (d : Slot) (w : Memory.wf s.mem = true) : Memory.wf (s.writeCard d).mem = true := by
  unfold State.writeCard
  split
  · split
    · exact State.wf_writeBytes _ _ _ _ w
    · exact w
  · exact w

/-! ### Wipes -/

theorem State.wf_wipeTables (s : State) (w : Memory.wf s.mem = true) : Memory.wf s.wipeTables.mem = true := by
  unfold State.wipeTables
  exact foldl_keeps (fun x : State => Memory.wf x.mem = true) _ (fun x c h => State.wf_hsWrite x _ _ h) _ _
    (State.wf_hsZero _ _ _ (State.wf_zeroRange _ _ _ _ (State.wf_zeroRange _ _ _ _ (State.wf_zeroRange _ _ _ _ w))))

theorem State.wf_zeroForReturn (s : State) (w : Memory.wf s.mem = true) : Memory.wf s.zeroForReturn.mem = true := by
  unfold State.zeroForReturn
  exact foldl_keeps (fun x : State => Memory.wf x.mem = true) _ (fun x c h => State.wf_zeroRange x _ _ _ h) _ _
    (foldl_keeps (fun x : State => Memory.wf x.mem = true) _ (fun x c h => State.wf_zeroRange x _ _ _ h) _ _ w)

theorem State.wf_unloadChains (s : State) (h : HF) (w : Memory.wf s.mem = true) : Memory.wf (s.unloadChains h).mem = true := by
  unfold State.unloadChains
  refine foldl_keeps (fun x : State => Memory.wf x.mem = true) _ (fun x c hx => ?_) _ _ w
  show Memory.wf (if _ then _ else _ : State).mem = true
  split
  · exact State.wf_hsWrite _ _ _ hx
  · exact hx

/-! ### The Bellows window, SIGNAL -/

theorem State.wf_bwWrite (s : State) (v : W64) (w : Memory.wf s.mem = true) : Memory.wf (s.bwWrite v).mem = true := by
  unfold State.bwWrite State.bwAdvance
  show Memory.wf (if _ then _ else _ : State).mem = true
  split
  · exact State.wf_writeBytes _ _ _ _ w
  · exact w

theorem State.touchSignal_mem (s : State) (r : RingId) (d : Slot) : (s.touchSignal r d).mem = s.mem := by
  unfold State.touchSignal
  split <;> rfl

theorem State.wf_signalWrite (s : State) (r : RingId) (d : Slot) (w : Memory.wf s.mem = true) :
    Memory.wf (s.signalWrite r d).mem = true := by
  unfold State.signalWrite
  split
  · exact w
  · split
    · simp only [State.request_mem]
      exact State.wf_writeBytes _ _ _ _ (by rw [State.touchSignal_mem]; exact w)
    · exact w

end Sys2Proof.Machine
end

