-- ==== Sys2Proof/Laws/Frames.lean ====
section
/-! SUPPORT. What the operations that commands share change at most: translations that are asked for, descriptors that are
released, returned, started or aborted. -/

namespace Sys2Proof.Machine

/-! ### Translations -/

/-- A page that is asked for changes the translation state, the telemetry and the boundary. -/
theorem State.requestPage_changes (s : State) (x : XReq) :
    ∃ a b c, s.requestPage x = { s with xl := a, hosts := b, out := c } := by
  unfold State.requestPage
  split
  · exact ⟨s.xl, s.hosts, s.out, rfl⟩
  · simp only []
    split
    · exact ⟨_, _, _, rfl⟩
    · exact ⟨_, _, s.out, rfl⟩

theorem State.requestPages_changes (xs : List XReq) : ∀ s : State,
    ∃ a b c, s.requestPages xs = { s with xl := a, hosts := b, out := c } := by
  induction xs with
  | nil => intro s; exact ⟨s.xl, s.hosts, s.out, rfl⟩
  | cons x xs ih =>
    intro s
    obtain ⟨a, b, c, h⟩ := s.requestPage_changes x
    obtain ⟨a', b', c', h'⟩ := ih (s.requestPage x)
    refine ⟨a', b', c', ?_⟩
    show (s.requestPage x).requestPages xs = _
    rw [h', h]

/-- Invalidations that no pin holds back any more change the translation state, the maps of descriptors in flight and the
boundary. -/
theorem State.settleInvals_changes (s : State) : ∃ a b c, s.settleInvals = { s with xl := a, ctxs := b, out := c } := by
  unfold State.settleInvals
  refine foldl_keeps (fun x : State => ∃ a b c, x = { s with xl := a, ctxs := b, out := c }) _ ?_ _ s ⟨s.xl, s.ctxs, s.out, rfl⟩
  rintro x v ⟨a, b, c, rfl⟩
  split
  · exact ⟨a, b, c, rfl⟩
  · exact ⟨_, _, _, rfl⟩

theorem State.unpin_changes (s : State) (r : RingId) (p : W32) : ∃ a b c, s.unpin r p = { s with xl := a, ctxs := b, out := c } :=
  State.settleInvals_changes _

/-! ### Requests -/

/-- A request of the system matrix changes the ports. -/
theorem State.request_changes (s : State) (q : Req) : ∃ p, s.request q = { s with ports := p } := ⟨_, rfl⟩

theorem State.requests_change (qs : List Req) (s : State) : ∃ p, qs.foldl State.request s = { s with ports := p } := by
  refine foldl_keeps (fun x : State => ∃ p, x = { s with ports := p }) _ ?_ qs s ⟨s.ports, rfl⟩
  rintro x q ⟨p, rfl⟩
  exact ⟨_, rfl⟩

/-- A fetch adds itself, asks for the pages that it needs and issues its requests. -/
theorem State.issueFetch_changes (s : State) (r : RingId) (n : Nat) :
    ∃ a b c p, s.issueFetch r n =
      { s with fetches := s.fetches ++ [{ r := r, first := s.nextFetch r, n := n }], xl := a, hosts := b, out := c, ports := p } := by
  unfold State.issueFetch
  simp only []
  generalize (pagesOf _ _).filterMap _ = xs
  obtain ⟨a, b, c, h⟩ := State.requestPages_changes xs { s with fetches := s.fetches ++ [{ r := r, first := s.nextFetch r, n := n }] }
  obtain ⟨p, h'⟩ := State.requests_change (s.fetchReqs r (s.nextFetch r) n)
    { s with fetches := s.fetches ++ [{ r := r, first := s.nextFetch r, n := n }], xl := a, hosts := b, out := c }
  rw [h]
  exact ⟨a, b, c, p, h'⟩

/-! ### Slices alone -/

/-- A fold whose steps change the slices alone changes the slices alone. -/
theorem foldl_slices {α : Type} (f : State → α → State) (hf : ∀ x a, ∃ b, f x a = { x with slices := b }) (l : List α) (s : State) :
    ∃ b, l.foldl f s = { s with slices := b } := by
  refine foldl_keeps (fun x : State => ∃ b, x = { s with slices := b }) _ ?_ l s ⟨s.slices, rfl⟩
  rintro x a ⟨b, rfl⟩
  obtain ⟨c, h⟩ := hf { s with slices := b } a
  exact ⟨c, h⟩

theorem State.wipeShares_changes (s : State) (ns : List Nat) : ∃ a, s.wipeShares ns = { s with slices := a } :=
  foldl_slices _ (fun _ _ => ⟨_, rfl⟩) ns s

theorem State.dropShares_changes (s : State) (d : Slot) : ∃ a, s.dropShares d = { s with slices := a } := by
  unfold State.dropShares
  split
  · exact s.wipeShares_changes _
  · exact ⟨s.slices, rfl⟩

/-- The load of pattern stores changes the slices. -/
theorem State.loadStores_changes (s : State) (q : Req) : ∃ a, s.loadStores q = { s with slices := a } := by
  unfold State.loadStores
  split
  · exact ⟨s.slices, rfl⟩
  · simp only []
    split
    · exact ⟨_, rfl⟩
    · exact ⟨s.slices, rfl⟩

/-- A loop whose step changes the Flue alone changes the Flue alone. -/
theorem foldl_flue {α : Type} (f : State → α → State) (hf : ∀ s a, ∃ b, f s a = { s with flue := b }) (l : List α) (s : State) :
    ∃ b, l.foldl f s = { s with flue := b } := by
  refine foldl_keeps (fun x : State => ∃ b, x = { s with flue := b }) _ ?_ l s ⟨s.flue, rfl⟩
  rintro x a ⟨b, rfl⟩
  obtain ⟨c, h⟩ := hf { s with flue := b } a
  exact ⟨c, by rw [h]⟩

theorem State.bindUnit_changes (s : State) (r : RingId) (d : Slot) : ∃ a, s.bindUnit r d = { s with slices := a } := by
  unfold State.bindUnit
  split
  · exact foldl_slices _ (fun _ _ => ⟨_, rfl⟩) _ s
  · exact ⟨s.slices, rfl⟩

/-- What the expanders of a FLOOD's slices hold are free values. -/
theorem State.loadExpanders_changes (s : State) (d : Slot) :
    ∃ a f, s.loadExpanders d = { s with slices := a, clk := { s.clk with free := f } } := by
  unfold State.loadExpanders
  split
  · simp only []
    obtain ⟨a, h⟩ := foldl_slices (fun (x : State) n => { x with slices := tupd x.slices n {} fun v => { v with
      expander := (List.range 24).map fun i => (i, (Config.freeDraw (s.clk.free + 32 * n + i)).setWidth 1600)
      conv := (Config.freeDraw (s.clk.free + 32 * n + 24)).setWidth 128
      adder := (Config.freeDraw (s.clk.free + 32 * n + 25)).setWidth 128 } }) (fun _ _ => ⟨_, rfl⟩) d.slices s
    rw [h]
    exact ⟨a, _, rfl⟩
  · exact ⟨s.slices, s.clk.free, rfl⟩

/-! ### Binding -/

/-- `t` differs from `s` at most in what binding changes: the contexts, the slices, the ports, and the free values used. -/
def BindChanges (s t : State) : Prop :=
  ∃ a b c f, t = { s with ctxs := a, slices := b, ports := c, clk := { s.clk with free := f } }

theorem BindChanges.refl (s : State) : BindChanges s s := ⟨_, _, _, _, rfl⟩

theorem BindChanges.trans {s t u : State} (h : BindChanges s t) (h' : BindChanges t u) : BindChanges s u := by
  obtain ⟨_, _, _, _, rfl⟩ := h
  obtain ⟨_, _, _, _, rfl⟩ := h'
  exact ⟨_, _, _, _, rfl⟩

theorem BindChanges.foldl {α : Type} (f : State → α → State) (hf : ∀ x a, BindChanges x (f x a)) (l : List α) (s : State) :
    BindChanges s (l.foldl f s) :=
  foldl_keeps (BindChanges s) f (fun x a h => h.trans (hf x a)) l s (.refl s)

/-- A change of the slices, a change of the contexts, a change of the ports. -/
theorem BindChanges.slices {s t : State} (h : ∃ a, t = { s with slices := a }) : BindChanges s t := by
  obtain ⟨_, rfl⟩ := h
  exact ⟨_, _, _, _, rfl⟩

theorem BindChanges.loadExpanders (s : State) (d : Slot) : BindChanges s (s.loadExpanders d) := by
  obtain ⟨_, _, h⟩ := s.loadExpanders_changes d
  rw [h]
  exact ⟨_, _, _, _, rfl⟩

theorem BindChanges.updSlot (s : State) (r : RingId) (p : W32) (f : Slot → Slot) : BindChanges s (s.updSlot r p f) :=
  ⟨_, _, _, _, rfl⟩

theorem BindChanges.request (s : State) (q : Req) : BindChanges s (s.request q) := by
  obtain ⟨_, h⟩ := State.requests_change [q] s
  exact ⟨_, _, _, _, h⟩

/-- The pools of a descriptor that leaves its issue queues. -/
theorem BindChanges.bindPools (s : State) (h : HF) (u : RingId × W32) (ds : List Slot) (r : RingId) :
    BindChanges s ((List.range 24).foldl (fun (x : State) n =>
      if x.unitNeed r ds n = 0 then x else x.bindPools h u (x.unitNeed r ds n) n) s) := by
  refine .foldl _ (fun x n => ?_) _ s
  split
  · exact .refl x
  · exact ⟨_, _, _, _, rfl⟩

/-- Its units and its expanders. -/
theorem BindChanges.holds (s : State) (r : RingId) (d : Slot) : BindChanges s ((s.bindUnit r d).loadExpanders d) :=
  (BindChanges.slices (State.bindUnit_changes s r d)).trans (.loadExpanders _ d)

theorem BindChanges.startScatter (s : State) (r : RingId) (d : Slot) (n : Nat) : BindChanges s (s.startScatter r d n) := by
  unfold State.startScatter
  split
  · exact ⟨_, _, _, _, rfl⟩
  · exact .refl s

theorem BindChanges.startFills (s : State) (r : RingId) (d : Slot) :
    BindChanges s (d.slices.foldl (fun s n => (s.startFills r d n).startScatter r d n) s) :=
  .foldl _ (fun x n => BindChanges.trans (t := x.startFills r d n) ⟨_, _, _, _, rfl⟩ (.startScatter _ r d n)) _ s

theorem BindChanges.notBefore (s : State) (r : RingId) (d : Slot) (c : Nat) : BindChanges s (s.notBefore r d c) := by
  unfold State.notBefore
  split
  · exact ⟨_, _, _, _, rfl⟩
  · exact .refl s

theorem BindChanges.bindSlot (s : State) (r : RingId) (d : Slot) : BindChanges s (s.bindSlot r d) := by
  unfold State.bindSlot
  simp only []
  have h0 := BindChanges.bindPools s (s.ringHost r) (r, d.holder) (s.unit r d) r
  generalize List.foldl _ s (List.range 24) = z at h0 ⊢
  have h := h0.trans (BindChanges.holds z r d)
  generalize State.loadExpanders _ d = x at h ⊢
  have h' := h.trans (BindChanges.startFills x r d)
  generalize List.foldl _ x d.slices = y at h' ⊢
  exact ((h'.trans (.updSlot y r d.idx _)).trans (.notBefore _ r d _)).trans (.foldl _ (fun _ _ => .request _ _) _ _)

theorem BindChanges.bindWaiting (s : State) : BindChanges s s.bindWaiting := by
  unfold State.bindWaiting
  refine BindChanges.foldl _ (fun x e => ?_) _ s
  split
  · exact .refl x
  · split
    · exact .bindSlot _ _ _
    · exact .refl x

/-- Descriptors that leave their issue queues change the contexts, the slices, the ports and the free values used. -/
theorem State.bindWaiting_changes (s : State) :
    ∃ a b c f, s.bindWaiting = { s with ctxs := a, slices := b, ports := c, clk := { s.clk with free := f } } :=
  BindChanges.bindWaiting s

/-! ### Descriptors -/

/-- `t` differs from `s` at most in what a release changes: the slices, the ports' spacing, checkpoints, pins, maps of
descriptors in flight and the boundary. -/
def ReleaseChanges (s t : State) : Prop :=
  ∃ a b c d e f, t = { s with slices := a, emb := b, xl := c, out := d, ctxs := e, ports := f }

theorem ReleaseChanges.refl (s : State) : ReleaseChanges s s := ⟨_, _, _, _, _, _, rfl⟩

theorem ReleaseChanges.trans {s t u : State} (h : ReleaseChanges s t) (h' : ReleaseChanges t u) : ReleaseChanges s u := by
  obtain ⟨_, _, _, _, _, _, rfl⟩ := h
  obtain ⟨_, _, _, _, _, _, rfl⟩ := h'
  exact ⟨_, _, _, _, _, _, rfl⟩

theorem ReleaseChanges.foldl {α : Type} (f : State → α → State) (hf : ∀ x a, ReleaseChanges x (f x a)) (l : List α) (s : State) :
    ReleaseChanges s (l.foldl f s) :=
  foldl_keeps (ReleaseChanges s) f (fun x a h => h.trans (hf x a)) l s (.refl s)

theorem ReleaseChanges.dropShares (s : State) (d : Slot) : ReleaseChanges s (s.dropShares d) := by
  obtain ⟨_, h⟩ := s.dropShares_changes d
  rw [h]
  exact ⟨_, _, _, _, _, _, rfl⟩

theorem ReleaseChanges.dropCkpt (s : State) (r : RingId) (p : W32) : ReleaseChanges s (s.dropCkpt r p) := ⟨_, _, _, _, _, _, rfl⟩

theorem ReleaseChanges.freeUnit (s : State) (r : RingId) (p : W32) : ReleaseChanges s (s.freeUnit r p) := ⟨_, _, _, _, _, _, rfl⟩

theorem ReleaseChanges.freePoolsThat (s : State) (f : Pool → Bool) : ReleaseChanges s (s.freePoolsThat f) :=
  ⟨_, _, _, _, _, _, rfl⟩

theorem ReleaseChanges.dropSpacing (s : State) (r : RingId) (p : W32) : ReleaseChanges s (s.dropSpacing r p) :=
  ⟨_, _, _, _, _, _, rfl⟩

theorem ReleaseChanges.unpin (s : State) (r : RingId) (p : W32) : ReleaseChanges s (s.unpin r p) := by
  obtain ⟨_, _, _, h⟩ := s.unpin_changes r p
  rw [h]
  exact ⟨_, _, _, _, _, _, rfl⟩

theorem ReleaseChanges.updCtx (s : State) (r : RingId) (f : Ctx → Ctx) : ReleaseChanges s (s.updCtx r f) :=
  ⟨_, _, _, _, _, _, rfl⟩

theorem ReleaseChanges.release (s : State) (r : RingId) (d : Slot) : ReleaseChanges s (s.release r d) :=
  (((((ReleaseChanges.dropShares s d).trans (.dropCkpt _ r d.idx)).trans (.freeUnit _ r d.idx)).trans (.freePoolsThat _ _)).trans
    (.dropSpacing _ r d.idx)).trans (.unpin _ r d.idx)

/-- Descriptors that leave a context take with them what a release takes. -/
theorem ReleaseChanges.keepSlots (s : State) (r : RingId) (keep : Slot → Bool) : ReleaseChanges s (s.keepSlots r keep) := by
  unfold State.keepSlots State.sweepPools
  exact ((ReleaseChanges.foldl _ (fun x d => .release x r d) _ s).trans (.updCtx _ r _)).trans (.freePoolsThat _ _)

theorem State.release_changes (s : State) (r : RingId) (d : Slot) :
    ∃ a b c e f g, s.release r d = { s with slices := a, emb := b, xl := c, out := e, ctxs := f, ports := g } :=
  ReleaseChanges.release s r d

theorem State.keepSlots_changes (s : State) (r : RingId) (keep : Slot → Bool) :
    ∃ a b c d e f, s.keepSlots r keep = { s with slices := a, emb := b, xl := c, out := d, ctxs := e, ports := f } :=
  ReleaseChanges.keepSlots s r keep

/-- Descriptors that return to their ring move its fetch position. -/
theorem State.returnUnstarted_changes (s : State) (r : RingId) :
    ∃ a b c d e f g j, s.returnUnstarted r =
      { s with slices := a, emb := b, xl := c, out := d, ctxs := e, fetches := f, rings := g, ports := j } := by
  unfold State.returnUnstarted
  have h : ∃ f g j, (if s.fetching r then (s.dropFetches r).updRing r fun x => { x with pend := true } else s) =
      { s with fetches := f, rings := g, ports := j } := by
    split
    · exact ⟨_, _, _, rfl⟩
    · exact ⟨_, _, _, rfl⟩
  obtain ⟨f, g, j, h⟩ := h
  simp only [h]
  split
  · exact ⟨_, _, _, _, _, _, _, _, rfl⟩
  · rename_i x _
    obtain ⟨a, b, c, d, e, k, hk⟩ := State.keepSlots_changes
      (({ s with fetches := f, rings := g, ports := j } : State).updRing r fun y => { y with fetch := x.idx, pend := true }) r
      fun e => ((({ s with fetches := f, rings := g, ports := j } : State)).keptIdx r).contains e.idx
    rw [hk]
    exact ⟨a, b, c, d, e, _, _, k, rfl⟩

/-- A start changes the ring's context and the order of dispatch. -/
theorem State.startSlot_changes (s : State) (r : RingId) (d : Slot) : ∃ a b, s.startSlot r d = { s with ctxs := a, sched := b } :=
  ⟨_, _, rfl⟩

/-! ### Aborts -/

/-- `t` differs from `s` at most in what a discard takes: the attempt's pools, passes, exchanges and units, and the residents that they
kept. -/
def DiscardChanges (s t : State) : Prop := ∃ a b c, t = { s with slices := a, flue := b, ctxs := c }

theorem DiscardChanges.trans {s t u : State} (h : DiscardChanges s t) (h' : DiscardChanges t u) : DiscardChanges s u := by
  obtain ⟨_, _, _, rfl⟩ := h
  obtain ⟨_, _, _, rfl⟩ := h'
  exact ⟨_, _, _, rfl⟩

theorem DiscardChanges.loseKept (s : State) (f : Pool → Bool) : DiscardChanges s (s.loseKept f) := ⟨_, _, _, rfl⟩
theorem DiscardChanges.freeUnit (s : State) (r : RingId) (p : W32) : DiscardChanges s (s.freeUnit r p) := ⟨_, _, _, rfl⟩
theorem DiscardChanges.emptyPools (s : State) (f : Pool → Bool) : DiscardChanges s (s.emptyPools f) := ⟨_, _, _, rfl⟩
theorem DiscardChanges.freePoolsThat (s : State) (f : Pool → Bool) : DiscardChanges s (s.freePoolsThat f) := ⟨_, _, _, rfl⟩
theorem DiscardChanges.holdPlane (s : State) : DiscardChanges s s.holdPlane := by
  unfold State.holdPlane
  split <;> exact ⟨_, _, _, rfl⟩

/-- Exchanges that are dropped change the Flue alone. -/
theorem DiscardChanges.dropExchanges (s : State) (r : RingId) (p : W32) : DiscardChanges s (s.dropExchanges r p) := by
  unfold State.dropExchanges
  simp only []
  obtain ⟨x, h⟩ := foldl_flue (fun (s : State) (x : Exch) => s.freePorts (distinctBelow 24 (x.spec.slices.filterMap s.server)) s.clk.pclk)
    (fun _ _ => ⟨_, rfl⟩) (s.flue.exch.filter fun x => x.user == (r, p)) s
  rw [h]
  exact DiscardChanges.trans ⟨_, _, _, rfl⟩ (.holdPlane _)

theorem DiscardChanges.dropShares (s : State) (d : Slot) : DiscardChanges s (s.dropShares d) := by
  obtain ⟨_, h⟩ := s.dropShares_changes d
  rw [h]
  exact ⟨_, _, _, rfl⟩

theorem DiscardChanges.dropPasses (s : State) (r : RingId) (p : W32) : DiscardChanges s (s.dropPasses r p) := ⟨_, _, _, rfl⟩

theorem DiscardChanges.ite {s t u : State} {c : Prop} [Decidable c] (h : DiscardChanges s t) (h' : DiscardChanges s u) :
    DiscardChanges s (if c then t else u) := by split <;> assumption

theorem State.discard_changes (s : State) (r : RingId) (d : Slot) : DiscardChanges s (s.discard r d) := by
  have h0 := (DiscardChanges.dropShares s d).trans (.freeUnit _ r d.idx)
  have h1 := DiscardChanges.ite (c := (dSealed d.bytes || s.partly r d) = true) h0
    (h0.trans (.loseKept _ fun v => v.user == some (r, d.holder)))
  have h2 := (h1.trans (.dropPasses _ r d.idx)).trans
    (.emptyPools _ fun v => v.user == some (r, d.holder) && (v.kept.isNone || !(dSealed d.bytes || s.partly r d)))
  exact (DiscardChanges.ite (c := d.chain.isSome = true) h2
    (h2.trans (.freePoolsThat _ fun v => v.user == some (r, d.holder) && (v.kept.isNone || !(dSealed d.bytes || s.partly r d))))).trans
    (.dropExchanges _ r d.idx)

/-- An abort changes the ports, the slices, the Flue, the contexts, the free values used, and logs. -/
theorem State.abortAll_changes (s : State) (r : RingId) (ds : List Slot) (cause : Nat) (unit : Option Nat) :
    ∃ a b c d m q l w f, s.abortAll r ds cause unit = { s with
      ports := a, slices := b, flue := c, ctxs := d, mem := m, poison := q, log := l, fw := w, clk := { s.clk with free := f } } := by
  unfold State.abortAll
  have h : ∃ a b c d, ds.foldl (fun s e => ((s.abandon r e.idx (cause == causeFence)).discard r e).updSlot r e.idx fun x =>
      let y := if s.partly r e then x else x.afresh
      { y with
        phase := .aborted, bound := false, keyed := false, cause := cause, unit := unit, doneAt := none, queue := none, found := []
        dur := if x.opc = .flood ∧ !dSealed x.bytes then s.publishedDur x (s.planOf .flood x) else x.dur }) s =
      { s with ports := a, slices := b, flue := c, ctxs := d } := by
    refine foldl_keeps (fun x : State => ∃ a b c d, x = { s with ports := a, slices := b, flue := c, ctxs := d }) _ ?_ _ s
      ⟨s.ports, s.slices, s.flue, s.ctxs, rfl⟩
    rintro x n ⟨a, b, c, d, rfl⟩
    obtain ⟨b', c', d', h⟩ := State.discard_changes (({ s with ports := a, slices := b, flue := c, ctxs := d } : State).abandon r n.idx (cause == causeFence)) r n
    rw [h]
    exact ⟨_, _, _, _, rfl⟩
  obtain ⟨a, b, c, d, h⟩ := h
  simp only [h]
  obtain ⟨m, q, l, w, hl⟩ := State.logEntry_changes { s with ports := a, slices := b, flue := c, ctxs := d } .health 0x6001 1
    (some (State.ringHost { s with ports := a, slices := b, flue := c, ctxs := d } r)) r.val cause
  rw [hl]
  obtain ⟨x, y, z, f, hb⟩ := State.bindWaiting_changes
    { s with ports := a, slices := b, flue := c, ctxs := d, mem := m, poison := q, log := l, fw := w }
  rw [hb]
  exact ⟨_, _, _, _, _, _, _, _, f, rfl⟩

/-- `t` differs from `s` at most in what an abort by a fault changes: what the abort of an attempt does, or what a SIGNAL's repeated
write does, with the page that it asks for. -/
def AbortChanges (s t : State) : Prop :=
  ∃ a b c d m q l f x h o w, t = { s with
    ports := a, slices := b, flue := c, ctxs := d, mem := m, poison := q, log := l, clk := { s.clk with free := f }, xl := x, hosts := h, out := o, fw := w }

theorem AbortChanges.refl (s : State) : AbortChanges s s := ⟨_, _, _, _, _, _, _, _, _, _, _, _, rfl⟩

theorem AbortChanges.trans {s t u : State} (h : AbortChanges s t) (h' : AbortChanges t u) : AbortChanges s u := by
  obtain ⟨_, _, _, _, _, _, _, _, _, _, _, _, rfl⟩ := h
  obtain ⟨_, _, _, _, _, _, _, _, _, _, _, _, rfl⟩ := h'
  exact ⟨_, _, _, _, _, _, _, _, _, _, _, _, rfl⟩

theorem AbortChanges.abortAll (s : State) (r : RingId) (ds : List Slot) (cause : Nat) (unit : Option Nat) :
    AbortChanges s (s.abortAll r ds cause unit) := by
  obtain ⟨_, _, _, _, _, _, _, _, _, h⟩ := State.abortAll_changes s r ds cause unit
  rw [h]
  exact ⟨_, _, _, _, _, _, _, _, _, _, _, _, rfl⟩

theorem AbortChanges.requestPage (s : State) (x : XReq) : AbortChanges s (s.requestPage x) := by
  unfold State.requestPage
  split
  · exact .refl s
  · simp only []
    split <;> exact ⟨_, _, _, _, _, _, _, _, _, _, _, _, rfl⟩

theorem AbortChanges.signalWrite (s : State) (r : RingId) (d : Slot) : AbortChanges s (s.signalWrite r d) := by
  unfold State.signalWrite State.touchSignal
  split
  · exact .refl s
  · split
    · split <;> exact ⟨_, _, _, _, _, _, _, _, _, _, _, _, rfl⟩
    · exact .refl s

theorem AbortChanges.repeatSignal (s : State) (r : RingId) (p : W32) : AbortChanges s (s.repeatSignal r p) := by
  have h0 : AbortChanges s (s.abandon r p false) := ⟨_, _, _, _, _, _, _, _, _, _, _, _, rfl⟩
  unfold State.repeatSignal
  split
  · split
    · exact .refl s
    · split
      · exact h0.trans (.requestPage _ _)
      · exact h0.trans (.signalWrite _ _ _)
  · exact .refl s

/-- An abort by a fault, which a SIGNAL answers by its write again. -/
theorem AbortChanges.abortNamed (s : State) (r : RingId) (p : W32) (cause : Nat) (unit : Option Nat) :
    AbortChanges s (s.abortNamed r p cause unit) := by
  unfold State.abortNamed
  split
  · exact .refl s
  · split
    · unfold State.abort
      split
      · exact .repeatSignal _ _ _
      · exact .abortAll _ _ _ _ _
    · exact .refl s

end Sys2Proof.Machine
end

