-- ==== Sys2Proof/Laws/Fences.lean ====
section
/-! SUPPORT. What fencing a unit, freezing a host function's rings and answering a request change at most. -/

namespace Sys2Proof.Machine

/-! ### A slice or a plane is fenced -/

/-- `t` differs from `s` at most in what fencing a slice or a plane changes: the slices, the contexts, the Flue, the ports,
the shares, the log with its ports, the Ledger, the host functions' events, the boundary, the test that runs and the free values used. -/
def FenceChanges (s t : State) : Prop :=
  ∃ a b c d e f g h i j k l m n w, t = { s with
    slices := a, ctxs := b, flue := c, ports := d, sched := e, mem := f, poison := g, log := h, led := i, hosts := j, out := k
    ctl := { s.ctl with ist := l }, clk := { s.clk with free := m }, xl := n, fw := w }

theorem FenceChanges.refl (s : State) : FenceChanges s s := ⟨_, _, _, _, _, _, _, _, _, _, _, _, _, _, _, rfl⟩

theorem FenceChanges.trans {s t u : State} (h : FenceChanges s t) (h' : FenceChanges t u) : FenceChanges s u := by
  obtain ⟨_, _, _, _, _, _, _, _, _, _, _, _, _, _, _, rfl⟩ := h
  obtain ⟨_, _, _, _, _, _, _, _, _, _, _, _, _, _, _, rfl⟩ := h'
  exact ⟨_, _, _, _, _, _, _, _, _, _, _, _, _, _, _, rfl⟩

/-- Where every step of a fold changes no more than a fence does, neither does the fold. -/
theorem FenceChanges.foldl {α : Type} (f : State → α → State) (hf : ∀ x a, FenceChanges x (f x a)) (l : List α) (s : State) :
    FenceChanges s (l.foldl f s) :=
  foldl_keeps (FenceChanges s) f (fun x a h => h.trans (hf x a)) l s (.refl s)

theorem FenceChanges.logEntry (s : State) (c : Comp) (tp sev : Nat) (h : Option HF) (a b : Nat) :
    FenceChanges s (s.logEntry c tp sev h a b) := by
  obtain ⟨m, q, l, w, e⟩ := s.logEntry_changes c tp sev h a b
  exact ⟨_, _, _, _, _, m, q, l, _, _, _, _, _, _, w, e⟩

theorem FenceChanges.globalEvent (s : State) (b : Nat) : FenceChanges s (s.globalEvent b) :=
  ⟨_, _, _, _, _, _, _, _, _, _, _, _, _, _, _, s.globalEvent_frame b⟩

theorem FenceChanges.abortNamed (s : State) (r : RingId) (p : W32) (cause : Nat) (unit : Option Nat) :
    FenceChanges s (s.abortNamed r p cause unit) := by
  obtain ⟨a, b, c, d, m, q, l, f, x, h, o, w, e⟩ := AbortChanges.abortNamed s r p cause unit
  exact ⟨b, d, c, a, _, m, q, l, _, h, o, _, f, x, w, e⟩

theorem FenceChanges.abortAll (s : State) (r : RingId) (ds : List Slot) (cause : Nat) (unit : Option Nat) :
    FenceChanges s (s.abortAll r ds cause unit) := by
  obtain ⟨a, b, c, d, m, q, l, f, x, h, o, w, e⟩ := AbortChanges.abortAll s r ds cause unit
  exact ⟨b, d, c, a, _, m, q, l, _, h, o, _, f, x, w, e⟩

theorem FenceChanges.dropOrphaned (s : State) : FenceChanges s s.dropOrphaned := by
  unfold State.dropOrphaned
  refine FenceChanges.foldl _ (fun x e => ?_) _ s
  split
  · split
    · exact .abortAll _ _ _ _ _
    · exact .refl x
  · exact .refl x

theorem FenceChanges.recordFence (s : State) (code cause k : Nat) : FenceChanges s (s.recordFence code cause k) := by
  refine (FenceChanges.logEntry s .health 0x6002 3 none code cause).trans ?_
  exact ⟨_, _, _, _, _, _, _, _, _, _, _, _, _, _, _, rfl⟩

theorem FenceChanges.reportOrphan (s : State) (code : Nat) : FenceChanges s (s.reportOrphan code) := by
  refine (FenceChanges.logEntry s .health 0x6002 4 none code 7).trans ?_
  exact ⟨_, _, _, _, _, _, _, _, _, _, _, _, _, _, _, rfl⟩

theorem FenceChanges.bindWaiting (s : State) : FenceChanges s s.bindWaiting := by
  obtain ⟨a, b, c, f, e⟩ := s.bindWaiting_changes
  exact ⟨b, a, _, c, _, _, _, _, _, _, _, _, f, _, _, e⟩

theorem FenceChanges.requeue (s : State) (r : RingId) (p : W32) : FenceChanges s (s.requeue r p) := by
  unfold State.requeue
  split
  · exact .refl s
  · simp only []
    split <;> exact FenceChanges.foldl _ (fun x e => ⟨_, _, _, _, _, _, _, _, _, _, _, _, _, _, _, rfl⟩) _ s

theorem FenceChanges.rekeyOn (s : State) (n : Nat) : FenceChanges s (s.rekeyOn n) := by
  unfold State.rekeyOn
  simp only []
  generalize List.flatMap _ _ = ns
  obtain ⟨_, h⟩ := State.wipeShares_changes s ns
  rw [h]
  exact ⟨_, _, _, _, _, _, _, _, _, _, _, _, _, _, _, rfl⟩

theorem FenceChanges.takeOut (s : State) (n cause : Nat) (testing : Bool) : FenceChanges s (s.takeOut n cause testing) := by
  unfold State.takeOut
  have h : FenceChanges s ((s.loseKept fun v => ((tget s.slices n {}).pools.map (·.2)).contains v).rekeyOn n) :=
    .trans ⟨_, _, _, _, _, _, _, _, _, _, _, _, _, _, _, rfl⟩ (.rekeyOn _ n)
  generalize State.rekeyOn _ n = x at h ⊢
  refine h.trans ?_
  simp only []
  split <;> exact ⟨_, _, _, _, _, _, _, _, _, _, _, _, _, _, _, rfl⟩

/-- Isolating a slice changes no more than a fence may. -/
theorem FenceChanges.isolate (s : State) (n cause : Nat) (testing : Bool) : FenceChanges s (s.isolate n cause testing) := by
  unfold State.isolate
  simp only []
  generalize hx : List.foldl (fun (s : State) (e : RingId × Slot) => s.abortNamed e.1 e.2.idx causeFence none) _ _ = x
  have first : FenceChanges s x := by
    subst hx
    refine FenceChanges.trans (FenceChanges.trans (FenceChanges.trans ?_
      (FenceChanges.foldl _ (fun z (e : RingId × Slot) => FenceChanges.requeue z e.1 e.2.idx) _ _)) (.bindWaiting _))
      (FenceChanges.foldl _ (fun z (e : RingId × Slot) => FenceChanges.abortNamed z e.1 e.2.idx causeFence none) _ _)
    exact ⟨_, _, _, _, _, _, _, _, _, _, _, _, _, _, _, rfl⟩
  refine first.trans ?_
  have tail : ∀ (y : State) (new : List Nat), FenceChanges x y →
      FenceChanges x (if new.isEmpty then y.globalEvent evFence
        else (new.foldl (fun (s : State) m => s.reportOrphan (unitStack m)) (y.globalEvent evFence)).globalEvent evOrphan) := by
    intro y new h
    have h1 := h.trans (FenceChanges.globalEvent y evFence)
    split
    · exact h1
    · exact (h1.trans (FenceChanges.foldl _ (fun z m => FenceChanges.reportOrphan z (unitStack m)) new _)).trans (.globalEvent _ _)
  exact tail _ _ ((FenceChanges.dropOrphaned x).trans (.takeOut _ n cause testing))

theorem FenceChanges.dropTest (s : State) (t : SliceId) (h : HF) (r : Bool) : FenceChanges s (s.dropTest t h r) := by
  unfold State.dropTest
  simp only []
  split <;> exact ⟨_, _, _, _, _, _, _, _, _, _, _, _, _, _, _, rfl⟩

theorem FenceChanges.abandonTest (s : State) (n : Nat) : FenceChanges s (s.abandonTest n) := by
  unfold State.abandonTest
  split
  · split
    · exact .dropTest _ _ _ _
    · exact .refl s
  · exact .refl s

theorem FenceChanges.hardFence (s : State) (n cause : Nat) : FenceChanges s (s.hardFence n cause) := by
  unfold State.hardFence
  simp only []
  split
  · exact .refl s
  · split
    · refine FenceChanges.trans ?_ (.recordFence _ _ _ _)
      exact ⟨_, _, _, _, _, _, _, _, _, _, _, _, _, _, _, rfl⟩
    · exact ((FenceChanges.abandonTest s n).trans (.recordFence _ _ _ _)).trans (.isolate _ _ _ _)

theorem FenceChanges.testFence (s : State) (n : Nat) : FenceChanges s (s.testFence n) := by
  unfold State.testFence
  split
  · exact .refl s
  · split
    · exact ⟨_, _, _, _, _, _, _, _, _, _, _, _, _, _, _, rfl⟩
    · exact .isolate _ _ _ _

theorem FenceChanges.returnSlice (s : State) (n : Nat) : FenceChanges s (s.returnSlice n) := by
  unfold State.returnSlice
  simp only []
  split
  · split <;> exact ⟨_, _, _, _, _, _, _, _, _, _, _, _, _, _, _, rfl⟩
  · exact .refl s

theorem FenceChanges.fencePlanes (s : State) (mask : BitVec 4) (cause : Nat) : FenceChanges s (s.fencePlanes mask cause) := by
  unfold State.fencePlanes
  simp only []
  split
  · exact .refl s
  · have h : ∀ (x : State) (new : List Nat), FenceChanges s x →
        FenceChanges s ((new.foldl (fun s p => s.recordFence (unitPlane p) cause (42 + p)) x).globalEvent evFence) :=
      fun x new h => (h.trans (FenceChanges.foldl _ (fun z p => FenceChanges.recordFence z _ _ _) new x)).trans (.globalEvent _ _)
    have h0 : FenceChanges s (s.flue.exch.foldl (fun s x => s.abortNamed x.user.1 x.user.2 causeFence none) s) :=
      FenceChanges.foldl _ (fun z x => FenceChanges.abortNamed z _ _ _ _) _ s
    have h1 := h _ (onesOf 4 (mask &&& ~~~ s.flue.fenced).toNat) ((h0.trans (u := { s.flue.exch.foldl (fun s x => s.abortNamed x.user.1 x.user.2 causeFence none) s with flue := { (s.flue.exch.foldl (fun s x => s.abortNamed x.user.1 x.user.2 causeFence none) s).flue with fenced := s.flue.fenced ||| mask } }) ⟨_, _, _, _, _, _, _, _, _, _, _, _, _, _, _, rfl⟩).trans (.dropOrphaned _))
    split
    · exact (h1.trans (.reportOrphan _ _)).trans (.globalEvent _ _)
    · exact h1

/-! ### The rings of a host function are frozen -/

/-- Freezing changes the host functions, the rings and what descriptors that return take with them. -/
theorem State.freezeRings_changes (s : State) (h : HF) :
    ∃ a b c d e f g j k, s.freezeRings h =
      { s with slices := a, emb := b, xl := c, out := d, ctxs := e, fetches := f, rings := g, hosts := j, ports := k } := by
  unfold State.freezeRings
  refine foldl_keeps (fun x : State => ∃ a b c d e f g j k,
    x = { s with slices := a, emb := b, xl := c, out := d, ctxs := e, fetches := f, rings := g, hosts := j, ports := k }) _ ?_ _ _
    ⟨_, _, _, _, _, _, _, _, _, rfl⟩
  rintro x r ⟨a, b, c, d, e, f, g, j, k, rfl⟩
  obtain ⟨a', b', c', d', e', f', g', k', hx⟩ := State.returnUnstarted_changes
    { s with slices := a, emb := b, xl := c, out := d, ctxs := e, fetches := f, rings := g, hosts := j, ports := k } r
  simp only [hx]
  split <;> exact ⟨_, _, _, _, _, _, _, _, _, rfl⟩

/-! ### Requests -/

/-- An answer writes the response and changes the host functions. -/
theorem State.respondTo_changes (s : State) (h : HF) (q : List Byte) (result : Nat) (payload : List Byte) :
    ∃ m p j, s.respondTo h q result payload = { s with mem := m, poison := p, hosts := j } := by
  unfold State.respondTo
  simp only []
  split <;> exact ⟨_, _, _, rfl⟩

/-- What ADMIN makes of a request: the state that goes with the answer or the wait, but for the response and the host
function. -/
theorem settle_changes (h : HF) (q : List Byte) (since : Nat) (x : Served) :
    ∃ t m p j, (x = .wait t ∨ ∃ result payload, x = .answer t result payload) ∧
      settle h q since x = { t with mem := m, poison := p, hosts := j } := by
  cases x with
  | answer t result payload =>
    obtain ⟨m, p, j, e⟩ := State.respondTo_changes (t.updHost h fun x => { x with cur := none }) h q result payload
    exact ⟨t, m, p, j, .inr ⟨_, _, rfl⟩, e⟩
  | wait t => exact ⟨t, t.mem, t.poison, _, .inl rfl, rfl⟩

end Sys2Proof.Machine
end

