-- ==== Sys2Proof/WellFormed.lean ====
section
/-! DEFINITION. Which commands are well formed: the operands that the constructors' types leave wider than the spec's events
have them. Each check has a name; a machine answers every command, well formed or not. -/

namespace Sys2Proof

/-- An offset in a page of 4 KiB (Table 15-1). -/
def pageOffsetOk (off : Nat) : Bool := decide (off < 0x1000)

/-- An offset in the window of 16 MiB (R350). -/
def windowOffsetOk (off : Nat) : Bool := decide (off < 0x100_0000)

/-- Rows of one pass: at least one, inside a pool of 1024 rows (R52, R65). -/
def passRowsOk : Gen → Nat → Nat → Bool
  | .index _ _, first, rows => decide (1 ≤ rows) && decide (first < 1024) && decide (rows ≤ 262144)
  | .lanes _ _ _ g, first, rows => passRowsOk g first rows
  | _, first, rows => decide (1 ≤ rows) && decide (first + rows ≤ 1024)

/-- A master of the system matrix: M0 to M33 (Table 04-6). -/
def masterOk (m : Nat) : Bool := decide (m < 34)

/-- A translated range: a power of two of at least one page. -/
def pageSizeOk (size : Nat) : Bool := decide (4096 ≤ size) && (List.range 64).any fun k => size == 2 ^ k

/-- Cause codes of a fence (R347): a field of 4 bits. -/
def fenceCauseOk (cause : Nat) : Bool := decide (1 ≤ cause) && decide (cause ≤ 7)

/-- Cause codes of a component fault or a core fault (Table 12-11). -/
def faultCauseOk (cause : Nat) : Bool := decide (1 ≤ cause) && decide (cause ≤ 4)

/-- A read of a register is 4 or 8 bytes wide (R350). -/
def readSizeOk (size : Nat) : Bool := size == 4 || size == 8

/-- A lifecycle token body has 64 bytes (Table 13-8). -/
def tokenLengthOk (token : List Byte) : Bool := token.length == 64

/-- A chunk of an image has at most 4096 bytes (R317). -/
def chunkLengthOk (data : List Byte) : Bool := decide (data.length ≤ 4096)

/-- Three rails are read (R324). -/
def railsOk (mv : List Nat) : Bool := mv.length == 3

/-- One count for each of up to 24 slices (Table 15-25). -/
def countsOk (counts : List W16) : Bool := decide (counts.length ≤ 24)

/-- 28 sensors are sampled (Table 15-15). -/
def sensorsOk (temps : List Int) : Bool := temps.length == 28

/-- Rounds of an exchange name a destination and a length for each slice (Table 04-4). -/
def roundsOk (e : ExchSpec) : Bool := e.rounds.all fun r => r.dst.length == 24 && r.words.length == 24

/-- A command is well formed. -/
def Instr.wf : Instr → Bool
  | .doorbell _ _ off _ _ => pageOffsetOk off
  | .passStart _ _ _ g first rows _ _ _ _ => passRowsOk g first rows
  | .exchangeStart _ _ _ e _ => roundsOk e
  | .stackResponse _ m _ _ _ => masterOk m
  | .hostCompletion m _ _ _ _ => masterOk m
  | .requestOverdue _ m _ _ _ => masterOk m
  | .translationCompletion _ _ _ (some (size, _, _)) => pageSizeOk size
  | .invalidationRequest _ _ _ size => pageSizeOk size
  | .freq _ _ cause => fenceCauseOk cause
  | .flueFenceFreq _ _ cause => fenceCauseOk cause
  | .qfreq _ _ cause => fenceCauseOk cause
  | .componentFault _ cause _ => faultCauseOk cause
  | .coreFault _ cause _ => faultCauseOk cause
  | .fbstatRead _ _ size => readSizeOk size
  | .registerWrite _ off _ _ => windowOffsetOk off
  | .lcTransition token _ _ _ _ => tokenLengthOk token
  | .requestFirmwareData data _ _ => chunkLengthOk data
  | .ledgerBinTick mv => railsOk mv
  | .agingReading counts => countsOk counts
  | .enterBanked counts _ _ => countsOk counts
  | .damperSample temps _ _ => sensorsOk temps
  | _ => true

end Sys2Proof
end

