-- ==== Sys2Proof/Tests/Slice0.lean ====
section
/-! SUPPORT. Tests: what WellFormed refuses, states and operands that meet the hypotheses of the statements, and single steps
whose results the manual gives. -/

namespace Sys2Proof.Tests

set_option Elab.async false

open Sys2Proof.Machine Sys2Proof.Safety

/-! ### WellFormed refuses an ill-formed term of each kind -/

theorem test_wf_page_offset : (Instr.doorbell 0 0 0x1000 8 0).wf = false ∧ (Instr.doorbell 0 0 0xFF8 8 0).wf = true := by decide
theorem test_wf_pass_rows : (Instr.passStart 0 0 1 .seq 1020 5 0 0 0 0).wf = false ∧ (Instr.passStart 0 0 1 .seq 1020 4 0 0 0 0).wf = true ∧
    (Instr.passStart 0 0 1 .seq 0 0 0 0 0 0).wf = false := by decide
theorem test_wf_master : (Instr.stackResponse 0 34 0 false .clean).wf = false ∧ (Instr.hostCompletion 33 0 false .clean false).wf = true ∧
    (Instr.requestOverdue 0 34 0 false 0).wf = false := by decide
theorem test_wf_page_size : (Instr.translationCompletion 0 none 0 (some (4095, 0, true))).wf = false ∧
    (Instr.translationCompletion 0 none 0 none).wf = true ∧ (Instr.invalidationRequest 0 none 0 4096).wf = true ∧
    (Instr.invalidationRequest 0 none 0 5000).wf = false := by decide
theorem test_wf_fence_cause : (Instr.freq .mgmt 0 8).wf = false ∧ (Instr.flueFenceFreq .mgmt 0 0).wf = false ∧
    (Instr.qfreq .mgmt 0 7).wf = true := by decide
theorem test_wf_fault_cause : (Instr.componentFault .log 0 0).wf = false ∧ (Instr.coreFault 0 5 0).wf = false ∧
    (Instr.componentFault .log 4 0).wf = true := by decide
theorem test_wf_read_size : (Instr.fbstatRead .mgmt 0 2).wf = false ∧ (Instr.fbstatRead .mgmt 0 8).wf = true := by decide
theorem test_wf_window_offset : (Instr.registerWrite .mgmt 0x1000000 8 0).wf = false ∧ (Instr.registerWrite .mgmt 0xFFFFF8 8 0).wf = true := by
  decide
theorem test_wf_token : (Instr.lcTransition [] true true false 0).wf = false ∧ (Instr.lcTransition (List.replicate 64 0) true true false 0).wf = true := by
  decide
theorem test_wf_chunk : (Instr.requestFirmwareData [] true true).wf = true ∧
    (Instr.requestFirmwareData (List.replicate 4097 0) true true).wf = false := by decide +kernel
theorem test_wf_rails : (Instr.ledgerBinTick []).wf = false ∧ (Instr.ledgerBinTick [750, 800, 900]).wf = true := by decide
theorem test_wf_counts : (Instr.agingReading (List.replicate 25 0)).wf = false ∧ (Instr.enterBanked (List.replicate 24 0) 5 0).wf = true ∧
    (Instr.enterBanked (List.replicate 25 0) 5 0).wf = false := by decide
theorem test_wf_sensors : (Instr.damperSample [] 0 0).wf = false ∧ (Instr.damperSample (List.replicate 28 0) 0 0).wf = true := by decide
theorem test_wf_rounds : (Instr.exchangeStart 0 0 0 { slices := [0], rounds := [⟨[0], [1]⟩], send := [], recv := [], fsend := [], frecv := [] } 0).wf = false := by
  decide

/-! ### States and operands that meet the hypotheses of the statements -/

/-- A part in BANKED; HF0 is the manager. -/
def banked : State :=
  { State.reset with ctl := { stage := .banked, fbAct := false, manager := some 0, groupsLeft := 0, planesLeft := 0 } }

/-- A ring table entry: descriptors at 0x8000000 and records at 0x9000000 of MS0, SIZE 64, VEC 3, ETIME 1. -/
def entry : List Byte := natLe 0x8000000 8 ++ natLe 0x9000000 8 ++ [0, 6, 0, 3, 0, 1, 0, 0] ++ natLe 0 8

def ring1 : Ring := { st := .enabled, pi := 1, pend := true, image := entry }

/-- The bytes of a descriptor: opcode, flags, and what stands from byte 84 on. -/
def desc (op : Nat) (flags : Byte) (params : List Byte) : List Byte :=
  padTo 128 ([BitVec.ofNat 8 op, flags] ++ List.replicate 82 0 ++ params)

/-- Ring 1 of HF0 in state `x`, its context CX0 holding the descriptors `ds`. -/
def withRing (x : Ring) (ds : List Slot) : State := { banked with rings := [(1, x)], ctxs := [(0, { ring := 1, slots := ds })] }

/-- The doorbell value of ring 1 and index `i`. -/
def bell (i : Nat) : W64 := BitVec.ofNat 64 (2 ^ 48 + i)

theorem witness_StepRunsFrontCommand : ({ banked with pending := [.lcQuery] } : State).pending = .lcQuery :: [] := rfl
theorem witness_EmptyQueueIdles : banked.pending = [] ∧ ({ banked with dmp := { hhold := true } } : State).pending = [] := ⟨rfl, rfl⟩

/-- Index 64 fits 64 slots, index 65 does not; index 1 is not ahead; a doorbell of HF1 is discarded. -/
theorem witness_DoorbellMovesIndex :
    let s := withRing ring1 []
    s.ctl.stage ≠ .reset ∧ s.ctl.stage ≠ .quenched ∧ s.ringOwner 1 = 0 ∧ (s.ring 1).st = .enabled ∧
      (∀ i ∈ [1, 64, 65], (bell i).toNat / 2 ^ 48 = 1 ∧ (bell i).toNat / 2 ^ 32 % 2 ^ 16 = 0 ∧ ((bell i).setWidth 32 - (s.ring 1).pi).toNat = i - 1 ∧
        ((bell i).setWidth 32 - (s.ring 1).doneI).toNat = i) ∧
      2 ^ (s.ringEntry 1).log2size = 64 ∧ s.ringOwner 1 ≠ 1 ∧
      ∀ st ∈ [Stage.reset, .quenched], ({ s with ctl := { stage := st } } : State).ctl.stage = st := by decide +kernel

/-- Eight descriptors, four up to the end of the ring, none. -/
theorem witness_FetchBounds : ∀ x ∈ [(0, 20, 8), (60, 70, 4), (20, 20, 0)],
    let s := withRing { ring1 with fetch := BitVec.ofNat 32 x.1, pi := BitVec.ofNat 32 x.2.1 } []
    s.pclkRuns = true ∧ (s.ctxOf 1).any (fun e => !e.2.leaving) = true ∧ (s.ring 1).pend = true ∧ s.fetchable 1 = true ∧ s.fetchCount 1 = x.2.2 ∧
      (x.2.2 = 0 → s.nextFetch 1 = (s.ring 1).pi ∧ s.inFlight 1 = 0) := by decide +kernel

theorem witness_FetchedDescriptorsTakeSlots :
    let f : Fetch := { r := 1, first := 0, n := 1 }
    let s := { withRing ring1 [] with fetches := [f] }
    s.pclkRuns = true ∧ (s.ctxOf 1).isSome = true ∧ s.fetches.find? (fun g => g.r == 1) = some f ∧ (s.fetchNeeds f).isEmpty = true ∧
      (s.ringEntry 1).loc ≠ 0xFF ∧ (({ s with rings := [(1, { ring1 with flushing := true })] } : State).ring 1).flushing = true := by decide +kernel

/-- A descriptor of ring 1 at index `i`. -/
def slot (i : Nat) (op : Nat) (flags : Byte) (ph : Phase) : Slot :=
  { idx := BitVec.ofNat 32 i, bytes := desc op flags [], phase := ph, bound := ph == .started }

/-- One Open FENCE; a SIGNAL whose WADDR has no translation; an Open chain of two; a member after a failed one; one Sealed
descriptor. -/
theorem witness_PreCheckFixesStatus :
    let d := slot 0 0x50 0 .fetched
    let s := withRing ring1 [d]
    let c2 := [slot 0 0x50 2 .fetched, slot 1 0x50 0 .fetched]
    let g : Slot := { slot 0 0x51 0 .fetched with bytes := desc 0x51 0 ([2] ++ List.replicate 11 0 ++ natLe 0x1000 8 ++ [0xFF]) }
    let s2 := withRing ring1 c2
    let m : Member := { idx := 0, link := true, sealed := true, failed := true, ops := [], card := none, srcs := [] }
    let s3 : State := { s with ctxs := [(0, { ring := 1, slots := [slot 1 0x50 1 .fetched], members := [m] })] }
    let e := slot 0 0x01 1 .fetched
    let s4 := withRing ring1 [e]
    (s.pclkRuns = true ∧ chainRun 16 [d] = [d] ∧ chainWhole [d] = true ∧ dSealed d.bytes = false ∧ dLink d.bytes = false ∧
      (s.preCheckOne 1 [] [] d).needs = [] ∧ s.pinsFull 1 (s.preCheckOne 1 [] [] d).slot = false) ∧
    (chainRun 16 [g] = [g] ∧ chainWhole [g] = true ∧ ((withRing ring1 [g]).preCheckOne 1 [] [] g).needs ≠ []) ∧
    (chainRun 16 c2 = c2 ∧ chainWhole c2 = true ∧ dLink (slot 0 0x50 2 .fetched).bytes = true ∧ s2.isFallback 1 = false ∧
      (∀ x ∈ s2.checkAll 1 0 (namedResidents c2) [] c2, x.2 = []) ∧
      (chainOutcome ((s2.checkAll 1 0 (namedResidents c2) [] c2).map (·.1))).any (s2.pinsFull 1) = false) ∧
    (openMembers [m] = [m] ∧ chainWhole ([m].map (fun _ => slot 1 0x50 1 .fetched) ++ chainRun 15 [slot 1 0x50 1 .fetched]) = true ∧
      [m].any (·.failed) = true ∧
      s3.pinsFull 1 { slot 1 0x50 1 .fetched with status := stFlushed, phase := .checked, chain := some 0 } = false) ∧
    (chainWhole [e] = true ∧ dSealed e.bytes = true ∧ (s4.preCheckOne 1 [] (namedResidents [e]) e).needs = [] ∧
      s4.pinsFull 1 (s4.preCheckOne 1 [] (namedResidents [e]) e).slot = false) := by decide +kernel

/-- The whole of MS0 beside Hearthstone is HF0's. -/
def granted (s : State) : State := { s with grants := [{ hf := 0, stack := 0, base := 0x4000000, size := 0x40000000 }] }

/-- The cells of bytes at the start of a space. -/
def cells (k : Nat) (bs : List Byte) : List Host.Cell := (bs.zipIdx.filter fun b => b.1 != 0).map fun b => (k + b.2, b.1)

/-- BANKED with Sealed service. -/
def sealedUp : State :=
  { banked with part := { banked.part with lc := .seasoned }, ctl := { banked.ctl with sealen := true }, emb := { keysOk := true } }

/-- A descriptor with operands 0 and 4 at 0x4000000 of MS0, a source cipher card at 0x4000040, and flags `f`; `res` of operand 0, and of 4. -/
def onCards (op : Nat) (f : Byte) (res res4 : Bool) (card : Bool) : Slot :=
  let w (b : Bool) : List Byte := natLe (2 ^ 63 + b.toNat * 2 ^ 62 + 0x4000000) 8
  let b := setBytes (setBytes (desc op f (if op = 0x31 then List.replicate 8 0 ++ [1] else [])) 32 (w res)) 64 (w res4)
  { slot 0 op f .fetched with bytes := if card then setBytes b 16 (natLe (2 ^ 63 + 0x4000040) 8) else b }

/-- The bytes of a cipher card of degree 2^10 and LIMBS 2. -/
def cardBytes (scheme level flags : Nat) : List Byte := natLe scheme 1 ++ [10] ++ natLe level 1 ++ [2] ++ List.replicate 16 0 ++ natLe flags 1

/-- A descriptor of each clause: an unassigned opcode; FLOOD without Sealed service; a Sealed FENCE with it; a TRANSPOSE in TINDER; LINK or
RES on a fallback ring; a card without VALID, of no scheme, and with a LIMBS that does not fit; a FENCE that passes, and an EXTRACT that
fails at its operands. -/
theorem witness_PreCheckFindsFirstFailure :
    opOf (slot 0 0x03 0 .fetched).bytes = none ∧ opOf (slot 0 0x39 0 .fetched).bytes = some .flood ∧ banked.sealedServed = false ∧
    (dSealed (slot 0 0x50 1 .fetched).bytes = true ∧ opOf (slot 0 0x50 1 .fetched).bytes = some .fence ∧ sealedUp.sealedServed = true) ∧
    (dSealed (slot 0 0x10 0 .fetched).bytes = false ∧ opOf (slot 0 0x10 0 .fetched).bytes = some .transpose ∧ State.reset.ctl.stage ≠ .banked) ∧
    (∀ d ∈ [onCards 0x01 2 false false false, onCards 0x01 0 true false false, onCards 0x01 0 false true false],
      (stage1 State.reset .copy d.bytes).all (·.ok) = true ∧ State.reset.isFallback 0 = true ∧ opOf d.bytes = some .copy) ∧
    (dLink (onCards 0x01 2 false false false).bytes = true ∧ bit (field (onCards 0x01 0 true false false).bytes 32 8) 62 = true ∧
      bit (field (onCards 0x01 0 false true false).bytes 64 8) 62 = true ∧ bit (field (onCards 0x01 0 false true false).bytes 32 8) 62 = false) ∧
    (∀ e ∈ [(1, 1, 0), (0, 1, 1), (1, 0, 1), (4, 1, 1)],
      let d := onCards 0x31 0 false false true
      let s : State := { granted (withRing ring1 [d]) with mem := cells (memKey 0 0x4000040) (cardBytes e.1 e.2.1 e.2.2) }
      let u := s.withSeen d
      let x := u.snapshot (s.ringHost 1) .extract [] d
      let v : State := { u with poison := x.bad ++ u.badIn [⟨0, 0, 0x400_0000⟩] }
      x.scard = some (parseCipher (cardBytes e.1 e.2.1 e.2.2 ++ List.replicate 43 0)) ∧
        (stage1 v .extract x.bytes ++ v.fallbackChecks 1 .extract x.bytes ++ stage2 .extract x.bytes [] (inChain [] x.bytes) ++ v.poolRule .extract [] [] x).all (·.ok) = true ∧
        v.cardOk (s.ringHost 1) (scardPtr x.bytes) = true ∧ v.poisoned (scardPtr x.bytes).stack (scardPtr x.bytes).addr 64 = false ∧
        ((parseCipher (cardBytes e.1 e.2.1 e.2.2 ++ List.replicate 43 0)).valid = (e.2.2 == 1))) ∧
    (let d := slot 0 0x50 0 .fetched
     let s := withRing ring1 [d]
     let x := (s.withSeen d).snapshot (s.ringHost 1) .fence [] d
     ((({ s.withSeen d with poison := x.bad ++ (s.withSeen d).badIn [⟨0, 0, 0x400_0000⟩] } : State).allChecks 1 (s.ringHost 1) .fence [] [] x).all (·.ok) = true) ∧
      d.snapped = false) ∧
    (let d := onCards 0x31 0 false false true
     let s := withRing ring1 [d]
     let x := (s.withSeen d).snapshot (s.ringHost 1) .extract [] d
     let cs := ({ s.withSeen d with poison := x.bad ++ (s.withSeen d).badIn [⟨0, 0, 0x400_0000⟩] } : State).allChecks 1 (s.ringHost 1) .extract [] [] x
     ∃ before after c, cs = before ++ c :: after ∧ before.all (·.ok) = true ∧ c.ok = false) := by
  refine ⟨by decide +kernel, by decide +kernel, by decide +kernel, by decide +kernel, by decide +kernel, by decide +kernel, by decide +kernel,
    by decide +kernel, by decide +kernel, ?_⟩
  have split (cs : List Chk) (h : cs.all (·.ok) = false) : ∃ before after c, cs = before ++ c :: after ∧ before.all (·.ok) = true ∧ c.ok = false := by
    induction cs with
    | nil => cases h
    | cons c cs ih =>
      cases hc : c.ok with
      | false => exact ⟨[], cs, c, rfl, rfl, hc⟩
      | true =>
        obtain ⟨b, a, x, rfl, hb, hx⟩ := ih (by simpa [hc] using h)
        exact ⟨c :: b, a, x, rfl, by simpa [hc] using hb, hx⟩
  exact split _ (by decide +kernel)

/-- A FLOOD that waits for its key, without and with a checkpoint. -/
theorem witness_FloodKeySharesCombineToKey :
    let d := slot 0 0x39 0 .waitKey
    let s := { withRing ring1 [d] with emb := { keysOk := true } }
    let k : FloodKey := { k := 5, k1 := 3, seeds := [] }
    let s2 := { withRing ring1 [d] with emb := { ckpts := [{ r := 1, p := 0, key := k }] } }
    s.pclkRuns = true ∧ s.slotOf 1 0 = some d ∧ s.keyReady 1 0 d = true ∧ s2.keyReady 1 0 d = true := by decide +kernel

def withDeficit (n : Int) (s : State) : State := { s with hosts := [(0, { (s.host 0) with deficit := n })] }

theorem witness_DispatchAndRefusalStart :
    let d := slot 0 0x01 0 .checked
    let s := withDeficit 1 (withRing ring1 [d])
    let e := { slot 0 0x01 1 .checked with refusal := true, dur := 256, status := stFlushed }
    s.pclkRuns = true ∧ s.slotOf 1 0 = some d ∧ s.dispatchable 1 0 = true ∧ (withRing ring1 [e]).refusalReady 1 0 = true ∧
      (withRing ring1 [e]).held = false ∧ ({ withRing ring1 [e] with ctl := { banked.ctl with hold := true } } : State).held = true ∧
      ({ withRing ring1 [e] with ctl := { banked.ctl with hold := true } } : State).refusalReady 1 0 = true ∧
      (withDeficit 0 (withRing ring1 [d])).dispatchable 1 0 = false ∧
      (withDeficit 0 (withRing ring1 [{ d with charged := true }])).dispatchable 1 0 = true ∧
      (let n := withDeficit (-5000) (withRing ring1 [d])
       n.pclkRuns = true ∧ n.ctl.stage = .banked ∧ n.spent = true ∧ ∀ h ∈ n.waitingHosts, 1 ≤ (n.host h).wt) := by
  decide +kernel

/-- HS0 belongs to instance A, HS12 to instance B. -/
theorem witness_RoundRefreshesTokens : banked.roundRuns 0 = true ∧ banked.roundRuns 1 = true ∧ 12 < banked.nslices ∧
    (∀ n ∈ [31, 32], let fw : Firmware := { ports := [(16 * Comp.schedA.key, List.replicate n [])], unsent := [(16 * Comp.schedA.key, [1])] }
      (tget fw.ports (16 * Comp.schedA.key) []).length = n ∧ (tget fw.ports 0 []).length ≤ 32) := by decide +kernel

/-- Ring 1 holds context 0 without work, and with a descriptor that does not start while ring 2 waits; context 100 is instance B's; ring 2
gets a context; a Sealed COPY is let in, and one whose host function has no deficit waits. -/
theorem witness_ContextsAndAdmission :
    (let c : Ctx := { ring := 1 }
     let s : State := { banked with rings := [(1, { ring1 with pend := false })], ctxs := [(0, c), (100, { ring := 0x101 })] }
     (s.ctxs.map fun e => e.2.ring).Nodup ∧ (0, c) ∈ s.ctxs ∧ 0 / 96 = 0 ∧ c.slots = [] ∧ (s.ring c.ring).pend = false ∧ s.inFlight c.ring = 0 ∧ 100 / 96 ≠ 0) ∧
    (let c : Ctx := { ring := 1, slots := [slot 0 0x01 0 .checked] }
     let s : State := { banked with rings := [(1, ring1), (2, ring1)], ctxs := [(0, c)] }
     c.slots ≠ [] ∧ c.leaving = false ∧ c.lastStart + 24000 ≤ 24000 ∧ (2 : RingId) ∈ s.waitingRings 0 ∧ (2 : RingId) ≠ c.ring ∧
      (∀ e ∈ c.kept, e.chain = none ∧ e.phase.begun = true) ∧ (∀ e, c.slots.head? = some e → e.awaits = false) ∧
      s.mayBind 0 2 = true ∧ (s.freeCtxs 0).head? = some 1 ∧ (s.waitingRings 0).all (· == 2) = true ∧
      (State.bindRings 0 1 s).ctxs.map (fun e => e.1) = [0, 1]) ∧
    (∀ n ∈ [(1 : Int), 0],
      let d := slot 0 0x01 1 .checked
      let s := withDeficit n (withRing ring1 [d])
      let x := s.planned d
      s.pick [1] = some 1 ∧ (s.ctxOf 1).bind (fun e => headSealed e.2) = some d ∧ s.sealedRunning = [] ∧ s.flue.exch = [] ∧
        (∀ m ∈ x.spaces, 0 < s.shares m) ∧ (∀ n ∈ List.range 24, s.unitNeed 1 [x] n ≤ (s.poolsFor n (1, x.holder)).length) ∧
        x.opc.bindsUnit = false ∧ s.storeBusy 1 x = false ∧ s.unitsOk x = true ∧ s.orderOk 1 x = true ∧ (∀ e ∈ s.allSlots, e.2.rounds = 0) ∧
        s.yields 1 x = false ∧ s.held = false ∧ s.peerAgrees 0 1 x = true ∧ (0 < s.deficit (s.ringHost 1) ↔ n = 1) ∧
        ((s.slotsOf 1).map fun e => e.idx).Nodup) := by
  exact ⟨by decide +kernel, by decide +kernel, by decide +kernel⟩

/-- Each of the twenty opcodes, started and with its reads returned. -/
theorem witness_OpcodeWritesItsEffect : ∀ row ∈ opcodeRows, ∀ e ∈ opTable, e.2 = row.2 →
    let d := slot 0 e.1 0 .started
    let s := withRing ring1 [d]
    s.pclkRuns = true ∧ s.slotOf 1 0 = some d ∧ s.runnable row.2 1 d = true ∧ d.corrupt = none ∧ (s.effectFor row.2 1 d).keyBad = false := by
  decide +kernel

/-- A cipher card of degree 2^n at level 0. -/
def cipher (n : Nat) : CipherCard := { (parseCipher []) with log2n := n }

/-- A COPY that met poison; a KSIP whose key does not read back. -/
theorem witness_CorruptRunEndsWithItsStatus :
    let d := { slot 0 0x01 2 .started with corrupt := some stSourceCorrupt, chain := some 0 }
    let e := { slot 0 0x2A 0 .started with scard := some (cipher 10), bytes := desc 0x2A 0 [0, 1] }
    let s := withRing ring1 [d, { slot 1 0x01 0 .started with chain := some 0 }]
    let s2 := withRing ring1 [e]
    (s.pclkRuns = true ∧ s.slotOf 1 0 = some d ∧ s.runnable .copy 1 d = true ∧ d.corrupt = some stSourceCorrupt) ∧
      (s2.slotOf 1 0 = some e ∧ s2.runnable .ksip 1 e = true ∧ e.corrupt = none ∧ (s2.effectFor .ksip 1 e).keyBad = true) := by
  decide +kernel

/-- An operand of four U64 elements at the start of a turf on MS0. -/
def oper (slot : Nat) : OpSnap :=
  { slot := slot, res := false, stack := 0, addr := 0x4000000, card := { (parseCard []) with ty := tyU64, rank := 1, ext := [3], str := [1] },
    turfs := [{ base := 0x4100000, owner := 0, log2Size := 12, hf := 0, wr := true, valid := true, pv := false, pasid := 0, rsv := false }], xl := [] }

/-- A FILL of four elements leaves the byte after them alone. -/
theorem witness_OpcodeMemoryFrame :
    let d := { slot 0 0x02 0 .started with ops := [oper 4] }
    let s := withRing ring1 [d]
    let a := memKey 0 0x4100020
    s.slotOf 1 0 = some d ∧ (s.effectFor .fill 1 d).vals.length = 1 ∧ (∃ t, exec (.fill 1 0) s = .next t) ∧
      (∀ kv ∈ (s.effectFor .fill 1 d).vals ++ undefinedVals d, ∀ iv ∈ kv.2, ∀ b ∈ List.range (d.opD kv.1).card.elBytes,
        let l := (d.opD kv.1).locate ((d.opD kv.1).card.byteOf ((d.opD kv.1).card.offsetAt iv.1) + b)
        l.1 = 0 ∧ l.2.1 < 0x4100020 ∧ a ≠ memKey l.1 l.2.1) := by
  refine ⟨by decide +kernel, by decide +kernel, ⟨_, rfl⟩, by decide +kernel⟩

theorem witness_ReorderingsMoveElements :
    (1 ≤ 18 ∧ (2 ^ 19 - 1) % 2 = 1 ∧ 2 ^ 19 - 1 < 2 * 2 ^ 18 ∧ 2 ^ 18 - 1 < 2 ^ 18) ∧
    (let d := { slot 0 0x13 0 .started with scard := some (cipher 2), ops := [oper 0, oper 4] }
     (d.opD 4).card.dims.getLastD 1 = 2 ^ 2 ∧ d.scard = some (cipher 2) ∧ (cipher 2).log2n = 2 ∧ field d.bytes 84 4 < 2 * 2 ^ 2) := by
  decide +kernel

/-- The bytes of a descriptor with what stands from byte 80 on. -/
def params (op : Nat) (b : List Byte) : List Byte := padTo 128 ([BitVec.ofNat 8 op, 0] ++ List.replicate 78 0 ++ b)

/-- An operand of slot `k`: elements of type `ty` and dimensions `dims`, dense. -/
def tensor (k ty : Nat) (dims : List Nat) : OpSnap :=
  { oper k with card := { (parseCard []) with
    ty := ty, rank := dims.length, ext := dims.map (· - 1)
    str := (List.range dims.length).map fun i => ((dims.drop (i + 1)).foldl (· * ·) 1 : Nat) } }

/-- A started descriptor of ring 1. -/
def started (op : Nat) (b : List Byte) (os : List OpSnap) : Slot := { idx := 0, bytes := params op b, phase := .started, ops := os }

/-- Four elements are gathered by four indices, or scattered over five positions: all indices are 0, so that all hit position 0 and none
position 1, in each policy and for each kind of type; a LUTPOLY of 16 coefficients with a table of 8; an EXTRACT of degree 4, its last
coefficient and an earlier one; a PATTERN without slices. -/
theorem witness_IndexedAndReorderedValues :
    (7 < 8 ∧ 1023 < 1024 ∧ 127 < 128) ∧
    (let d := started 0x18 [] [tensor 0 tyU64 [2, 5], tensor 1 0x12 [4], tensor 4 tyU64 [2, 4]]
     (d.opD 1).card.dims.getLastD 1 = (d.opD 4).card.dims.getLastD 1 ∧ 0 < (d.opD 4).card.dims.getLastD 1 ∧ 7 < (d.opD 4).card.count) ∧
    (∀ policy ∈ [0, 1, 2], ∀ ty ∈ [tyU64, tyU32P, 0x12], ∀ f ∈ [(0 : Byte), 1],
      let b := [BitVec.ofNat 8 0, 0, 0, 0, BitVec.ofNat 8 (4 * policy)]
      let d := { started 0x19 b [tensor 0 ty [2, 4], tensor 1 0x12 [4], tensor 4 ty [2, 5]] with bytes := setBytes (params 0x19 b) 1 [f] }
      let s := withRing ring1 [d]
      let hits (p : Int) : List Nat := (List.range 4).filter fun j => signed (s.source 1 (d.opD 1) j) 32 == p
      byteAt d.bytes 84 / 4 % 4 = policy ∧ (d.opD 1).card.dims.getLastD 1 = (d.opD 0).card.dims.getLastD 1 ∧ (d.opD 4).card.dims.getLastD 1 = 5 ∧
        (d.opD 0).card.dims.getLastD 1 = 4 ∧ (d.opD 0).card.count / 4 = 2 ∧ hits 0 = [0, 1, 2, 3] ∧ hits 1 = [] ∧ (d.opD 4).res = false ∧
        dSealed d.bytes = (f == 1) ∧ (isResidue ty = true ↔ ty ≠ 0x12)) ∧
    (let d := started 0x30 [0, 0, 6, 0, 4, 3] [tensor 0 tyU64 [8], tensor 4 tyU64 [2, 16]]
     2 * 2 ^ (byteAt d.bytes 85 % 32) = 2 ^ (byteAt d.bytes 84 % 32) ∧ byteAt d.bytes 82 % 8 = 6 ∧ 31 < (d.opD 4).card.count) ∧
    (let d := { started 0x31 [0, 0, 6] [tensor 0 tyU64 [2, 4], tensor 4 tyU64 [5]] with scard := some (cipher 2) }
     d.scard = some (cipher 2) ∧ 4 < (d.opD 4).card.count ∧ 4 % (2 ^ (cipher 2).log2n + 1) = 2 ^ (cipher 2).log2n ∧
      3 % (2 ^ (cipher 2).log2n + 1) < 2 ^ (cipher 2).log2n ∧ 5 < 2 * 2 ^ (cipher 2).log2n ∧
      (5 + 3) % (2 * 2 ^ (cipher 2).log2n) = (field d.bytes 84 4 % 2 ^ 18 + 3 / 5 * (field d.bytes 88 4 % 2 ^ 18)) % 2 ^ (cipher 2).log2n) ∧
    (let d := { started 0x14 [0, 0, 6] [tensor 0 tyU64 [4], tensor 4 tyU64 [4]] with image := padTo 272 ([0, 0, 0, 1, 0, 0, 0, 0, 1] ++ List.replicate 247 0 ++ [1]) }
     6 ≤ byteAt d.bytes 82 % 8 ∧ byteAt d.image 3 = 1 ∧ ((List.range 24).filter fun n => (field d.image 8 3).testBit n) = [0] ∧
      ((d.opD 0).block 0).length = 4 ∧ byteAt ((d.image.drop 256).take 16) 0 = 1) := by decide +kernel

/-- VALUE 5 against counters of 5 and 4; a SIGNAL that writes and one that does not. -/
theorem witness_FenceAndSignalUseCounter :
    let fb : List Byte := desc 0x50 0 ([0, 7, 0, 0] ++ natLe 5 8)
    let d : Slot := { idx := 0, bytes := fb, phase := .checked }
    let w : Slot := { d with phase := .waiting }
    let at_ (v : W64) (ds : List Slot) : State := (withRing ring1 ds).setSync 0 7 v
    let sg (wr : Byte) : Slot := { idx := 0, phase := .checked, bytes := desc 0x51 0 ([wr, 7, 0, 0] ++ natLe 5 8 ++ natLe 0x4000000 8 ++ [0]) }
    (∀ n ∈ [(5 : Nat), 4], let v : W64 := BitVec.ofNat 64 n
      (at_ v [d]).pclkRuns = true ∧ (at_ v [d]).slotOf 1 0 = some d ∧ (at_ v [d]).fenceReady 1 d = true ∧ (at_ v [d]).held = false ∧
      w.isFence = true ∧ (at_ v [w]).slotOf 1 0 = some w) ∧
    (at_ 5 [d]).retires 1 [d] = true ∧ (at_ 5 [w]).retires 1 [w] = true ∧ (dValue fb).toNat = 5 ∧ (at_ 5 [d]).syncCounter 0 (dSync fb) = 5 ∧ (at_ 4 [d]).syncCounter 0 (dSync fb) = 4 ∧
    (∀ wr ∈ [(0 : Byte), 2], (at_ 0 [sg wr]).signalReady 1 (sg wr) = true ∧ (at_ 0 [sg wr]).held = false ∧ sigWr (sg wr).bytes = (wr == 2) ∧
      sigLoc (sg wr).bytes = 0) := by decide +kernel

def withSlice0 (v : Slice) (s : State) : State := { s with slices := [(0, v)] }

theorem witness_FillAndWipeOfPools :
    let d := { slot 0 0x01 0 .started with ops := [oper 0] }
    let s := withRing ring1 [d]
    let s := withSlice0 { pools := [(0, { user := some (1, 0), role := .moverFill })] } s
    let w := withSlice0 { pools := [(5, { role := .wipe })] } s
    s.pclkRuns = true ∧ s.slotOf 1 0 = some d ∧ s.fillDone 0 0 1 d 0 (0, 0, [0, 1, 2, 3]) = true ∧ (w.pool 0 5).role = .wipe ∧
      s.lastFill d 0 0 = true ∧ s.lastFill { d with ops := [oper 0, oper 1] } 0 0 = false := by
  decide +kernel

/-- Rows 1020 to 1023, to another pool and back to the pool read; a pass of 8 rows ends 39 cycles after its rows, one of the
turner 47, and one of two passes too. -/
theorem witness_PassTakesAndReleasesPools :
    let d := { slot 0 0x39 0 .started with ops := [oper 0, oper 4], slices := [0] }
    let v : Slice := { pools := [(0, { user := some (1, 0), hf := some 0, ready := true })] }
    let s : State := withSlice0 v (withRing ring1 [d])
    let x (g : Gen) (back : Option PoolId) : Pass :=
      { src := 0, dst := 1, gen := g, first := 0, rows := 8, ty := 0, q0 := 0, q1 := 0, start := 3, words := [], user := none, back := back }
    let w (g : Gen) (back : Option PoolId) : State := withSlice0 { pools := [(1, { role := .passDest })], passes := [x g back] } banked
    s.pclkRuns = true ∧ ((s.toPclk 437).pool 0 0).user = some (1, 0) ∧ (s.toPclk 437).runner (1, 0) = some d ∧
      (∀ dst ∈ [(0 : PoolId), 1], ((s.toPclk 437).slice 0).target 0 dst = some 1 ∧
        (s.toPclk 437).passReady 0 1 d 0 dst .seq 1020 4 (BitVec.ofNat 8 tyU64) 0 0 437 = true ∧
        (s.toPclk 437).passReady 0 1 d 0 dst .seq 1020 5 (BitVec.ofNat 8 tyU64) 0 0 437 = false) ∧
      (((w .seq none).toPclk 50).slice 0).endingPass 1 50 = some (x .seq none) ∧
      (((w .seq (some 0)).toPclk 50).slice 0).endingPass 1 50 = some (x .seq (some 0)) ∧
      (((w .turner none).toPclk 58).slice 0).endingPass 1 58 = some (x .turner none) := by decide +kernel

/-- A COPY of four elements from MS0 to MS1: its exchange starts, or waits while another one has its ports; its delivery is complete
at the last beat, or up to 23 cycles later; a flit for a pool of another host function; a flit without a credit. -/
theorem witness_ExchangeOccupiesFlue :
    let far (n : Nat) : OpSnap := { oper n with turfs := (oper n).turfs.map fun t => { t with owner := 1 } }
    let d := { slot 0 0x01 0 .started with ops := [oper 0, far 4], slices := [0, 1], flue := [0, 1] }
    let e : ExchSpec := { slices := [0, 1], send := [⟨0, 0, 1⟩], recv := [⟨1, 0, 1⟩], fsend := [], frecv := []
                          rounds := [⟨(List.replicate 24 31).set 0 1, (List.replicate 24 0).set 0 4⟩] }
    let mine (h : HF) : Pool := { user := some (Fin.ofNat 65536 (4096 * h.val + 1), 0), hf := some h, ready := true, stage := 1 }
    let s (h : HF) : State := { withRing ring1 [d] with slices := [(0, { pools := [(0, mine 0)] }), (1, { pools := [(1, mine h)] })] }
    let y (n : Nat) : Exch := { x := 0, spec := e, start := 10, beats := 1, user := (1, 0), hf := 0, sent := n }
    let s2 (h : HF) : State := { s h with flue := { exch := [y 1], buffer := (s h).flitsOf (y 0) 0 10 ⟨0, 0, 1, 4, 0, 0⟩, now := 11 } }
    let s3 : State := { s 0 with flue := { exch := [y 0], spent := [(4, 512)] } }
    (s 0).pclkRuns = true ∧ ((s 0).toPclk 9).slotOf 1 0 = some d ∧ ((s 0).toPclk 0).exchangeReady 0 1 d e 0 = true ∧
      (let b := ({ s 0 with flue := { exch := [{ y 0 with x := 1, start := 0, beats := 99, sent := 99 }] } } : State).toPclk 9
       b.exchangeReady 0 1 d e 9 = false ∧ b.exchangeFits 1 d e = true ∧ b.flue.waits.contains (1, 0) = false) ∧
      (∀ c ∈ [11, 34], ((s2 0).toPclk c).delivering 0 c = some (y 1) ∧ ((s2 0).toPclk c).strayed (c + 23) (y 1) = false) ∧
      ((s2 1).toPclk 11).delivering 0 11 = some (y 1) ∧ ((s2 1).toPclk 11).strayed 34 (y 1) = true ∧
      ((s2 0).toPclk 35).delivering 0 35 = none ∧
      ∃ f ∈ (s3.xfers (y 0).spec).flatMap (s3.flitsOf (y 0) (y 0).sent 10), 512 ≤ s3.spentAt f := by decide +kernel

/-- A request on MS0 and one on the host port. -/
def req (port : Fin 25) (wr : Bool) : Req :=
  { port := port, master := 0, tag := some 0, wr := wr, r := 1, p := 0, item := 0, addr := 0x4100000, len := 64, issued := 0, overdue := false }

/-- A request with and without an answer that ends its descriptor's run; one that waits for its tag. -/
theorem witness_ResponseRetiresRequest : ∀ wr ∈ [true, false],
    let d := slot 0 0x01 0 .started
    let s : State := { withRing ring1 [d] with ports := { reqs := [req 0 wr, req 24 wr] } }
    s.pclkRuns = true ∧ (req 0 wr).item ≠ itemAbandoned ∧ s.answered (Fin.ofNat 25 0) 0 0 wr = some (req 0 wr) ∧
      s.answered 24 0 0 wr = some (req 24 wr) ∧ s.slotOf 1 0 = some d ∧ d.running = true ∧ s.poisoned 0 0x4100000 64 = false ∧
      ({ s with poison := [(0x4100000 / 64, true)] } : State).poisoned 0 0x4100000 64 = true ∧
      (let e := { slot 0 0x01 0 .ran with doneAt := none }
       let u : State := { withRing ring1 [e] with ports := { reqs := [req 0 true] } }
       u.answered (Fin.ofNat 25 0) 0 0 true = some (req 0 true) ∧ u.slotOf 1 0 = some e ∧
        ∀ x ∈ u.ports.reqs, x.master = 0 ∧ x.wr = true ∧ x.tag = some 0) ∧
      (let w : Req := { req 0 wr with tag := none, p := 1 }
       (({ s with ports := { reqs := [req 0 wr, w] } } : State).reachGrant 0 wr 0).retire (req 0 wr) 0 |>.ports.reqs) ≠ [] := by decide +kernel

theorem witness_TranslationsEnterAndLeave :
    let x : XReq := ⟨0, none, 0x7000⟩
    let e : TEntry := { hf := 0, pasid := none, iova := 0x7000, size := 4096, phys := 0x9000, write := true, shared := false, pins := [] }
    let s : State := { banked with xl := { reqs := [x], cache := [e] } }
    let s2 : State := { banked with xl := { cache := [{ e with pins := [(1, 0)] }] } }
    (∀ e ∈ s.allSlots, e.2.isSignal = true → e.2.phase = .ran → e.2.doneAt ≠ none) ∧
    s.xl.reqs.contains x = true ∧ (s.xl.cache.any fun e => e.meets x 4096 && !e.pins.isEmpty) = false ∧
      (s2.xl.cache.any fun e => e.meets x 4096 && !e.pins.isEmpty) = true ∧
      (let o : OpSnap := { oper 0 with xl := [{ iova := 0x7000, size := 4096, phys := 0x9000 }] }
       let d := { slot 0 0x01 0 .started with ops := [o] }
       (withRing ring1 [d]).slotsOf 1 = [d] ∧ (withRing ring1 [d]).ringHost 1 = 0 ∧ dSealed d.bytes = false ∧ d.ops.map (·.xl) = [o.xl]) := by
  decide +kernel

/-- An unpadded refusal; a complete COPY; a FLOOD whose padding is over at 600 and not at 599; a Sealed COPY of DUR 512 begun at 100,
complete at 612 and at 613. -/
theorem witness_RecordsEnterCollector :
    let u := { slot 0 0x01 0 .checked with status := stFlushed }
    let o := { slot 0 0x01 0 .ran with doneAt := some 5 }
    let f := { slot 0 0x39 0 .ran with doneAt := some 5, start := 100, dur := 500 }
    let z (e : Nat) : Slot := { slot 0 0x01 1 .ran with doneAt := some e, start := 100, dur := 512 }
    (u.unpadded = true ∧ (withRing ring1 [u]).slotOf 1 0 = some u ∧ ((withRing ring1 [u]).ring 1).stopped = false) ∧
    (o.unpadded = false ∧ dSealed o.bytes = false ∧ (∀ e ∈ (withRing ring1 [o]).unit 1 o, (withRing ring1 [o]).complete 1 e = true ∧
      floodTime e 5 = true) ∧ (withRing ring1 [o]).retires 1 ((withRing ring1 [o]).unit 1 o) = true) ∧
    (∀ e ∈ (withRing ring1 [f]).unit 1 f, (withRing ring1 [f]).complete 1 e = true ∧ floodTime e 600 = true ∧ floodTime e 599 = false) ∧
    (∀ e ∈ [612, 613], dSealed (z e).bytes = true ∧ (withRing ring1 [z e]).complete 1 (z e) = true ∧ (z e).dur = 512 ∧
      (z e).doneAt = some e) ∧ (612 = 100 + 1 * 512 ∧ 612 ≤ 612 ∧ ¬ 613 ≤ 612 ∧ 1124 = 100 + 2 * 512) := by decide +kernel

/-- One record, and two that share a granule; a Sealed record of ring 2 goes before an Open one of ring 1. -/
theorem witness_CollectorWritesRecords :
    let a := slot 0 0x01 0 .recorded
    let b := slot 1 0x01 0 .recorded
    (∀ x ∈ [a], x.sigStale = false ∧ ∀ o ∈ x.ops, ∀ m ∈ o.xl, m.stale = false) ∧ (withRing ring1 [a]).xl.invals = [] ∧
    ((withRing ring1 [a]).ring 1).stopped = false ∧ banked.ctl.inReset = false ∧ (withRing ring1 [a]).nextRecords 1 = [a] ∧
      (withRing ring1 [a, b]).nextRecords 1 = [a, b] ∧ ((withRing ring1 [a]).ringEntry 1).loc ≠ 0xFF ∧
      (withRing ring1 [a]).ringGone 1 = false ∧ (granted (withRing ring1 [a])).inGrant 0 0 0x9000000 1 = true ∧
      ({ ring := 1, slots := [{ a with queue := some 0 }] } : Ctx).ready = [{ a with queue := some 0 }] ∧
      (let z : State := { granted (withRing ring1 [a]) with
        rings := [(1, ring1), (2, ring1)]
        ctxs := [(0, { ring := 1, slots := [a] }), (1, { ring := 2, slots := [slot 0 0x01 1 .recorded] })] }
       z.sealedFirst 1 = true ∧ (z.ctxOf 1).map (fun e => e.2.ready) = some [a]) := by decide +kernel

/-- ETIME 1 from nclk 5; a vector that is due, one that is masked, one held off until 4096. -/
theorem witness_EventsSignalAndSend :
    let s := withRing { ring1 with oldest := some 5 } []
    let due (e : EvVec) (m : Nat) : Prop := e.pend = true ∧ e.mask = false ∧ ∀ x, e.last = some x → x + 1024 * e.holdoff.toNat ≤ m
    ((s.ring 1).oldest = some 5 ∧ (s.ringEntry 1).etime ≠ 0 ∧ 5 + 1024 * (s.ringEntry 1).etime ≤ 1029) ∧
    (banked.ctl.stage ≠ .reset ∧ banked.ctl.inReset = false ∧ due { mask := false, pend := true } 0 ∧ ¬ due { pend := true } 0 ∧
      due { mask := false, pend := true, holdoff := 4, last := some 0 } 4096 ∧
      ¬ due { mask := false, pend := true, holdoff := 4, last := some 0 } 4095) := by
  refine ⟨by decide +kernel, by decide +kernel, by decide +kernel, ⟨rfl, rfl, ?_⟩, ?_, ⟨rfl, rfl, ?_⟩, ?_⟩
  · intro x h; cases h
  · intro h; exact absurd h.2.1 (by decide)
  · intro x h; cases h; decide
  · intro h; exact absurd (h.2.2 0 rfl) (by decide)

/-- A shape entry. -/
def shape (ty rows cols : Nat) : W64 := BitVec.ofNat 64 (ty * 2 ^ 56 + rows * 2 ^ 40 + (cols - 1) * 2 ^ 32)

/-- T0 to T2 of U64, T4 to T6 of I32, T8 to T10 of F32, T12 to T14 of U32P, AC0 of U64, AC1 of U32P, each 2 × 2; chain 0; slots 0 and 4 of U64. -/
def unit : TileUnit :=
  { shape := [(0, shape 1 2 2), (1, shape 1 2 2), (2, shape 1 2 2), (4, shape 0x10 2 2), (5, shape 0x10 2 2), (6, shape 0x10 2 2),
      (8, shape 0x21 2 2), (9, shape 0x21 2 2), (10, shape 0x21 2 2)] ++
      [(12, shape 4 2 2), (13, shape 4 2 2), (14, shape 4 2 2), (16, shape 1 2 2), (17, shape 4 2 2)],
    tables := [List.replicate 192 0], chain := some 0, slotPool := [(0, 1), (4, 2)], slotLen := [(0, 256), (4, 256)]
    slotTy := [(0, 1), (4, 1)] }

/-- Chain 0 with two moduli, 97 and 113; a TILEPROG of ring 1 has the units of slice 0. -/
def tiles (u : TileUnit) : State :=
  withSlice0 { tu := u, unit := some (1, 0) }
    { withRing ring1 [slot 0 0x40 0 .started] with mem := [(chainAddr 0, 2), (chainAddr 0 + 64, 97), (chainAddr 0 + 128, 113)] }

/-- Operands with which each row runs on `unit`. -/
def rowOperands : List (Nat × Byte × Byte × Byte × Nat) :=
  [(0x00, 0xFF, 0xFF, 0xFF, 0), (0x01, 0xFF, 0xFF, 0xFF, 0), (0x02, 0, 0xFF, 0xFF, 0), (0x03, 0x10, 0xFF, 0xFF, 0), (0x04, 0, 1, 0xFF, 0),
    (0x08, 0, 0x80, 0xFF, 0), (0x09, 0x84, 0, 0xFF, 0), (0x0A, 0x84, 0x10, 0xFF, 0), (0x10, 0xFF, 0xFF, 0xFF, 5), (0x40, 0x10, 0, 1, 0),
    (0x41, 0x10, 0, 1, 0), (0x42, 0x10, 0, 1, 0), (0x48, 0, 1, 2, 0), (0x80, 0, 1, 2, 65), (0x81, 0, 1, 2, 65), (0x82, 0, 1, 2, 65)] ++
  [(0x83, 0, 1, 0xFF, 65), (0x84, 0, 0x10, 0xFF, 64), (0x84, 0, 0x10, 1, 65), (0x88, 4, 5, 6, 1040),
    (0x88, 0x20, 5, 6, 5136), (0x89, 4, 5, 6, 1040), (0x8A, 4, 5, 6, 1040), (0x8B, 4, 5, 6, 1040),
    (0x8C, 4, 5, 6, 1040), (0x8D, 4, 5, 6, 1040), (0x8E, 4, 5, 6, 1040), (0x8F, 4, 5, 6, 1040), (0x90, 8, 9, 10, 2145),
    (0x91, 8, 9, 10, 2145), (0x92, 8, 9, 10, 2145), (0x93, 8, 9, 10, 2145)] ++
  [(0x8B, 8, 9, 10, 2145), (0x8C, 8, 9, 10, 2145), (0x98, 4, 1, 2, 1025), (0x98, 4, 9, 10, 1057)] ++
  [(0x98, 4, 5, 6, 1040), (0x99, 4, 5, 6, 1040), (0x9A, 0x20, 0x21, 0xFF, 1040), (0x9B, 4, 5, 0xFF, 1040), (0xA0, 4, 5, 0xFF, 1040),
    (0xA1, 4, 5, 0xFF, 1040), (0xA2, 4, 5, 0xFF, 1040), (0xA8, 4, 8, 0xFF, 1057), (0xA9, 0, 8, 0xFF, 0x21), (0xAA, 8, 0, 0xFF, 0x21)] ++
  ([(0x40, 0x11, 12, 13, 0), (0x48, 12, 13, 14, 0), (0x80, 12, 13, 14, 260), (0x81, 12, 13, 14, 260), (0x82, 12, 13, 14, 260), (0x83, 12, 13, 0xFF, 260),
    (0x84, 12, 0x11, 0xFF, 256), (0x84, 12, 0x11, 13, 260)] : List (Nat × Byte × Byte × Byte × Nat)).map fun x => (x.1, x.2.1, x.2.2.1, x.2.2.2.1, 0x2000000 + x.2.2.2.2)

theorem tileRuns_of (s : State) (n : SliceId) (i : TI)
    (h : (s.pclkRuns && decide (n.val < s.nslices) && s.live n.val && s.tileRuns n.val && tileAdmits s (s.slice n) i) = true) : TileRuns s n i := by
  simpa [TileRuns, and_assoc] using h

/-- Every tile row but ENDL runs on `unit`, with the operands of the list; every row of both tables has some; ENDL runs in an open loop with
an iteration left, and in its last one; at the end of its program HS0 has HS23's share to serve while HS23 is fenced, and none when it has
served it. -/
theorem witness_TileRowFrame :
    (∀ x ∈ rowOperands, TileRuns (tiles unit) 0 (tiWith x.1 x.2.1 x.2.2.1 x.2.2.2.1 (BitVec.ofNat 32 x.2.2.2.2))) ∧
      (∀ row ∈ tileControlRows ++ charRows, row.2 ≠ 0x11 → row.2 ∈ rowOperands.map (·.1)) ∧
    (∀ k ∈ [4, 5], let s := tiles { unit with loops := [(0, k, 5)] }
      TileRuns s 0 (tiWith 0x11 0xFF 0xFF 0xFF 0) ∧ (s.slice 0).tu.loops = [(0, k, 5)] ∧ (k < 5 ↔ k = 4)) ∧
    (∀ k ∈ [0, 1], let d := { slot 0 0x40 0 .started with image := setBytes (List.replicate 72 0) 0 [0, 0, 0, 0, 0, 0, 0, 0, 1, 0, 0x80] }
      let u : State := { tiles unit with
        ctxs := [(0, { ring := 1, slots := [d] })]
        slices := [(0, { tu := { unit with share := k }, unit := some (1, 0) }), (23, { fenced := true })] }
      u.tileSlot 0 = some (1, d) ∧ (u.slice 0).tu.prog.length ≤ (u.slice 0).tu.pc ∧
        (u.servedOf (piSlices d.image) 0)[k + 1]? = if k = 0 then some 23 else none) := by
  have h : ∀ x ∈ rowOperands, ((tiles unit).pclkRuns && decide ((0 : SliceId).val < (tiles unit).nslices) && (tiles unit).live (0 : SliceId).val &&
      (tiles unit).tileRuns 0 && tileAdmits (tiles unit) ((tiles unit).slice 0) (tiWith x.1 x.2.1 x.2.2.1 x.2.2.2.1 (BitVec.ofNat 32 x.2.2.2.2))) = true := by
    decide +kernel
  refine ⟨fun x hx => tileRuns_of _ _ _ (h x hx), by decide +kernel, fun k hk => ⟨tileRuns_of _ _ _ ?_, rfl, ?_⟩, by decide +kernel⟩
  all_goals revert k; decide +kernel

/-- A table image of one block over the moduli 0 and 1, to the moduli 2 and 3. -/
def tableOf (kind n : Nat) : List Byte :=
  padTo 64 [BitVec.ofNat 8 kind, BitVec.ofNat 8 n] ++ (List.replicate n (padTo 320 (natLe 3 8 ++ natLe 12 8 ++ [2, 2]))).flatten

theorem witness_FusedAndEngineValues :
    let with_ (cc : CipherCard) (d : Slot) : Slot := { d with scard := some cc }
    let cc : CipherCard := { cipher 2 with level := 2, limbs := 3 }
    let pp : CipherCard := { cipher 2 with level := 2, limbs := 2, paired := true }
    -- DIGITS: an ordinary limb; a pair and the half pair of an even level
    (let d (ty : Nat) (c : CipherCard) : Slot := { with_ c (started 0x2B [0, 0, 7, 0, 0, 2] [tensor 0 ty [1, 3, 4], tensor 4 ty [3, 4]]) with image := tableOf 1 2 }
     (d tyU64 cc).scard = some cc ∧ cc.paired = false ∧ tyU64 ≠ tyU32P ∧ 11 < ((d tyU64 cc).opD 4).card.count ∧ 11 / 2 ^ cc.log2n ≤ cc.level ∧
      (d tyU32P pp).scard = some pp ∧ pp.paired = true ∧ ((d tyU32P pp).opD 0).card.ty = tyU32P ∧ 2 * (3 / 2 ^ pp.log2n) + 1 ≤ pp.level ∧
      (tiles unit).modulus 0 1 ≠ 0 ∧ 2 * (4 / 2 ^ pp.log2n) = pp.level) ∧
    -- BASECONV over one basis, and digit by digit
    (let d (b : Byte) : Slot := { with_ cc (started 0x28 [0, 0, 7, 0, b, 2] [tensor 0 tyU64 [1, 3, 4], tensor 4 tyU64 [2, 3, 4]]) with image := tableOf 1 2 }
     let c : Chain := (tiles unit).chain 0
     bit (byteAt (d 0).bytes 84) 0 = false ∧ (tableBlocks (d 0).image).length = 2 ∧ 23 < ((d 0).opD 4).card.count ∧
      bit (byteAt (d 1).bytes 84) 0 = true ∧ digitRest c 2 2 0 = [2] ∧ digitRest c 2 2 1 = [0, 1] ∧ ((tableBlocks (d 1).image)[1]?).isSome = true ∧
      ((d 1).opD 4).card.dims = [2, 3, 4]) ∧
    -- RESCALE, by words and by pairs
    (let d (ty : Nat) : Slot := { with_ cc (started 0x29 [0, 0, 7] [tensor 0 ty [1, 2, 4], tensor 1 ty [1, 2, 4], tensor 4 ty [1, 2, 4]]) with
      image := setBytes (tableOf 2 1) 64 [7] }
     (∀ ty ∈ [tyU64, tyU32P], ((d ty).opD 4).card.ty = ty ∧ (tableBlocks (d ty).image).map (fun b => (basisOf b.smask).length) = [3] ∧ 7 < ((d ty).opD 4).card.count) ∧
      0 / 4 % 2 = 0 ∧ 2 * 0 + 1 < 3 ∧ 4 / 4 % 2 = 1 ∧ 2 * 1 + 1 = 3) ∧
    -- KSIP and FLOOD
    (let d := with_ cc (started 0x2A [0, 0, 7, 0, 0, 2] [tensor 0 tyU64 [1, 3, 4], tensor 1 tyU64 [2, 2, 4], tensor 4 tyU64 [2, 3, 4]])
     d.scard = some cc ∧ 23 < (d.opD 4).card.count) ∧
    (let d (ty : Nat) : Slot := with_ { cc with npoly := 1 } (started 0x39 [0, 0, 7, 0, 3, 1] [tensor 0 tyU64 [2, 3, 4], tensor 4 ty [2, 3, 4]])
     (byteAt (d tyU64).bytes 85 % 8).testBit 0 = true ∧ 0 < (tiles unit).modulus 0 0 ∧ 23 < ((d tyU64).opD 4).card.count ∧
      (byteAt (d tyU64).bytes 85 % 8).testBit (23 / (3 * 4)) = false ∧ ((d tyU64).opD 0).card.ty = ((d tyU64).opD 4).card.ty ∧
      ((d tyS64).opD 0).card.ty ≠ ((d tyS64).opD 4).card.ty) ∧
    -- CONVERT
    (let d := started 0x38 [0, 0, 7] [tensor 0 0x21 [4], tensor 4 tyU64 [4]]
     3 < (d.opD 4).card.count) ∧
    -- TILEPROG: a program of one NOP
    (let d : Slot := { started 0x40 [] [tensor 0 tyU64 [4], tensor 4 tyU64 [4]] with
      image := setBytes (List.replicate 72 0) 0 [0, 0, 0, 0, 0, 0, 0, 0, 1] }
     let s := withRing ring1 [d]
     ∃ run : Nat → Slice, run 0 = tileStart s 1 d 0 ∧ 0 ∈ piSlices d.image ∧ 1 ≤ programFuel ∧
      (∀ i, i < 1 → ∃ w, (run i).tu.prog[(run i).tu.pc]? = some w ∧
        run (i + 1) = tileDo s 0 (s.clk.free + 0 * 2 ^ 40 + (run i).tu.ord * tileFree) (run i) (tiOf w)) ∧
      (run 1).tu.prog[(run 1).tu.pc]? = none ∧ (tileSlots d).map (·.2) = [0, 1] ∧ ((d.opD 0).block 0).length = 4 ∧ ((d.opD 4).block 0).length = 4) := by
  refine ⟨by decide +kernel, by decide +kernel, by decide +kernel, by decide +kernel, by decide +kernel, by decide +kernel, ?_⟩
  let d : Slot := { started 0x40 [] [tensor 0 tyU64 [4], tensor 4 tyU64 [4]] with
    image := setBytes (List.replicate 72 0) 0 [0, 0, 0, 0, 0, 0, 0, 0, 1] }
  let s := withRing ring1 [d]
  refine ⟨fun i => if i = 0 then tileStart s 1 d 0 else tileDo s 0 (s.clk.free + 0 * 2 ^ 40 + (tileStart s 1 d 0).tu.ord * tileFree) (tileStart s 1 d 0) (tiOf 0),
    rfl, by decide +kernel, by decide, ?_, by decide +kernel, by decide +kernel, by decide +kernel, by decide +kernel⟩
  intro i hi
  obtain rfl : i = 0 := by omega
  exact ⟨0, by decide +kernel, rfl⟩

/-- Entries of bounded shapes make a unit whose shapes fit. -/
theorem shapesFit_of_entries (u : TileUnit) (h : ∀ e ∈ u.shape, (shapeOf e.2).rows ≤ 128 ∧ (shapeOf e.2).cols ≤ 128) : ShapesFit u := by
  intro b
  show (shapeOf (tget u.shape b 0)).rows ≤ 128 ∧ (shapeOf (tget u.shape b 0)).cols ≤ 128
  revert h
  induction u.shape with
  | nil => intro _; show (shapeOf 0).rows ≤ 128 ∧ (shapeOf 0).cols ≤ 128; decide +kernel
  | cons e t ih =>
    intro h
    simp only [tget]
    split
    · exact h e (List.mem_cons_self ..)
    · exact ih fun x hx => h x (List.mem_cons_of_mem _ hx)

theorem witness_ShapesFit : ShapesFit ((tiles unit).slice 0).tu := shapesFit_of_entries _ (by decide +kernel)

/-- The 31st and the 32nd accumulation (R145); the rows themselves run in `witness_TileRowFrame`, whose shapes fit. -/
theorem witness_MultiplyAccumulateRows : ∀ n ∈ [30, 31],
    let e : Acc := { v := 8195, cnt := n, sh0 := 4 }
    canonIn tyU64 97 96 = some 96 ∧ e.v.toNat + 96 * 96 < 2 ^ 128 ∧ e.sh0 = e.v.toNat % 8191 ∧
      (97 % 2 = 1 ∧ 1 < 97 ∧ 97 < 2 ^ 62 ∧ 96 < 97) := by decide +kernel

/-- Canonical operands for the modular rows and TMULE: 0 modulo 97; COUNT, SA and SB of `witness_TileRowFrame`. -/
theorem witness_CharModularRows :
    (∀ b ty r l, charOperand unit ty b r l = 0) ∧ (∀ b r l, unit.el b r l = 0) ∧ canonIn tyU64 97 0 = some 0 ∧
      (tileModuli (tiles unit) unit 0).1 = 97 ∧ (0 % 2 ^ 32 < 97 ∧ 0 / 2 ^ 32 < 97) := by
  refine ⟨fun b ty r l => ?_, fun b r l => rfl, by decide +kernel, by decide +kernel, by decide⟩
  have h : unit.el b r l = 0 := rfl
  have h2 : unit.vtLane b l = 0 := rfl
  unfold charOperand
  split
  · split
    · exact h
    · rfl
  · rw [h2]; exact Nat.zero_mod _

/-- An admin request of 64 bytes: TYPE, flags, and payload fields at their offsets. -/
def request (ty : Nat) (flags : Byte) (fields : List (Nat × List Byte)) : List Byte :=
  fields.foldl (fun b f => setBytes b f.1 f.2) (padTo 64 [BitVec.ofNat 8 ty, flags])

/-- HF0 as `x`, with request `q` submitted. -/
def asks (x : HostFn) (q : List Byte) (s : State := banked) : State :=
  { s with hosts := [(0, { x with api := x.taken + 1 })], mem := cells (memKey 0 (reqSlot 0 x.taken)) q ++ s.mem }

def live : HostFn := { session := .active, lease := 10, deadline := 12000000 }

/-- 63 requests wait, or 64. -/
theorem witness_AdminQueues :
    let s (n : Nat) : State := { banked with hosts := [(0, { api := n, rspIn := 1 })] }
    let q := request 0x07 0 []
    (s 63).writes (.host 0) (.host 0) = true ∧ (s 63).submits = true ∧ ((s 63).host 0).api - ((s 63).host 0).taken < 64 ∧
      64 ≤ ((s 64).host 0).api - ((s 64).host 0).taken ∧ ((s 63).host 0).rspOut < ((s 63).host 0).rspIn ∧
      ((asks {} q).atFclk 0).nextRequest 0 = some q ∧ adminTypes.contains (rqType q) = false := by decide +kernel

/-- ADMIN serves host functions in round-robin order (R292). -/
theorem test_admin_round_robin :
    let s (last : Nat) : State := { banked with hosts := [(0, { api := 1 }), (3, { api := 1 }), (5, { api := 1, cur := some ⟨[], 0⟩ })], fw := { banked.fw with adminLast := last } }
    (s 15).adminNext = some 0 ∧ (s 0).adminNext = some 3 ∧ (s 3).adminNext = some 0 := by decide +kernel

theorem takes_of (s : State) (h : HF) (f ty : Nat) (q : List Byte)
    (e : (decide ((s.atFclk f).nextRequest h = some q) && decide (rqType q = ty)) = true) : Takes s h f ty q := by
  simpa [Takes] using e

/-- Each request of a session is taken, in the session that its clause has. -/
theorem witness_SessionRequests :
    let hello (xf maj : Byte) := request 0x01 xf [(8, [maj, 0, 5]), (12, [1, 0]), (16, [xf, 0])]
    (∀ x ∈ [({} : HostFn), { session := .refused }, { session := .frozen, epoch := 1, frozenAt := some 0, graceNow := 1 },
        { session := .frozen, epoch := 1, frozenAt := some 0, graceNow := 0 }, { session := .frozen, epoch := 1 }, live], ∀ xf ∈ [(0 : Byte), 1], ∀ maj ∈ [(0 : Byte), 1],
      Takes (asks x (hello xf maj)) 0 0 0x01 (hello xf maj) ∧ helloOk (hello xf maj) = true ∧
        ((asks x (hello xf maj)).versionOk (hello xf maj) = true ↔ maj = 0) ∧ rqXf (hello xf maj) = (xf == 1) ∧
        (asks x (hello xf maj)).inGrace 0 0 = (x.frozenAt == some 0 && x.graceNow == 1) ∧ (xf = 1 → x.session = .frozen → hEpoch (hello xf maj) = x.epoch)) ∧
    (∀ y ∈ [(0x02, request 0x02 0 [], []), (0x03, request 0x03 0 [], []), (0x04, request 0x04 0 [(8, [9])], [(8, 8)]),
        (0x05, request 0x05 0 [(8, natLe 1000 2)], [(8, 2)])],
      Takes (asks live y.2.1) 0 0 y.1 y.2.1 ∧ ((asks live y.2.1).host 0).session = .active ∧ headerOk y.2.1 false = true ∧
        payloadOk y.2.1 y.2.2 = true ∧ (y.1 = 5 → 1 ≤ field y.2.1 8 2 ∧ field y.2.1 8 2 ≤ 1000)) := by
  refine ⟨fun x hx xf hxf maj hm => ⟨takes_of _ _ _ _ _ ?_, ?_⟩, fun y hy => ⟨takes_of _ _ _ _ _ ?_, ?_⟩⟩
  · revert x xf maj; decide +kernel
  · revert x xf maj; decide +kernel
  · revert y; decide +kernel
  · revert y; decide +kernel

/-- A deadline that has passed and one that has not; grace over at 10 s. -/
theorem witness_LeaseFreezesAndGraceWipes :
    let s : State := { banked with hosts := [(0, { live with deadline := 5 }), (1, { live with deadline := 6 })] }
    let g : State := { banked with hosts := [(0, { session := .frozen, frozenAt := some 0 })] }
    let hello := request 0x01 0 [(8, [0, 0, 5]), (12, [1, 0])]
    let w := asks { session := .frozen, frozenAt := some 0, cur := some { req := hello, since := 0 } } hello
    (w.graceOver 0 (max w.clk.fclk 12000000000) = true ∧ w.untakenRequests 0 = [hello] ∧
      ((w.untakenRequests 0).takeWhile fun q => rqType q != 0x01) = [] ∧ (w.host 0).cur ≠ none) ∧
    s.adminRuns = true ∧ (s.host 0).deadline ≤ max s.clk.fclk 5 ∧ ¬ (s.host 1).deadline ≤ max s.clk.fclk 5 ∧
      g.graceOver 0 (max g.clk.fclk 12000000000) = true ∧ ((g.untakenRequests 0).any fun q => rqType q == 0x01) = false := by decide +kernel

/-- A chain image of one modulus of 20 bits, 2^19 + 1, at 0x4000000 of MS0. -/
def chainBytes : List Byte :=
  padTo 64 [1, 0, 10] ++
    padTo 64 (natLe 524289 8 ++ natLe ((2 ^ 64 - invPow2 64 524289) % 2 ^ 64) 8 ++ natLe (2 ^ 128 % 524289) 8 ++ natLe (2 ^ 128 / 524289) 16 ++ [20, 0])

theorem witness_RingAndChainRequests :
    let r1 : List (Nat × List Byte) := [(8, [1, 0])]
    let off : State := { banked with rings := [], mem := cells (memKey 0 (ringTableAddr 1)) entry ++ cells (memKey 0 0x4000000) chainBytes }
    let on : State := { off with rings := [(1, { ring1 with doneI := 1, fetch := 1, pend := false })] }
    let load := request 0x20 0 [(16, natLe 0x4000000 8)]
    let setup := request 0x10 0 (r1 ++ [(32, natLe 0x4000000 8 ++ natLe 0x4010000 8 ++ [0, 6, 0, 3])])
    (∀ y ∈ [(0x10, setup, [(8, 2), (32, 32)]), (0x11, request 0x11 0 r1, [(8, 2), (12, 4)]), (0x13, request 0x13 0 r1, [(8, 2)]),
        (0x14, request 0x14 0 [(8, [250, 5])], [(8, 2)]), (0x20, load, [(8, 1), (16, 8)]), (0x21, request 0x21 0 [], [(8, 1)])],
      Takes (asks live y.2.1 off) 0 0 y.1 y.2.1 ∧ headerOk y.2.1 true = true ∧ rqXf y.2.1 = false ∧ payloadOk y.2.1 y.2.2 = true) ∧
    (let s := asks live setup off
     (s.host 0).session = .active ∧ rqRing setup = 1 ∧ s.ringOwner 1 = 0 ∧ s.isFallback 1 = false ∧ (s.ring 1).st = .disabled ∧
      s.entryOk 0 (parseRingEntry ((setup.drop 32).take 32)) = true ∧ leNat (s.tableEntryOf 1) ≠ 0 ∧ s.drained 1 = true ∧ (s.ring 1).flushing = false ∧
      s.mayLoad 0 0 false = true ∧ bits (field load 16 8) 45 19 = 0 ∧
      s.chainImageOk 0 (bits (field load 16 8) 40 5) (bits (field load 16 8) 0 40) = true ∧ s.chainInUse 0 = false ∧ s.mayUnload 0 0 = true) ∧
    (∀ xf ∈ [(0 : Byte), 1], let q := request 0x12 xf r1
      let s := asks live q on
      Takes s 0 0 0x12 q ∧ (s.ring 1).st ≠ .disabled ∧ s.disableReady 1 = true ∧ (s.ring 1).stopped = false) := by
  refine ⟨fun y hy => ⟨takes_of _ _ _ _ _ ?_, ?_⟩, by decide +kernel, fun xf hx => ⟨takes_of _ _ _ _ _ ?_, ?_⟩⟩
  · revert y; decide +kernel
  · revert y; decide +kernel
  · revert xf; decide +kernel
  · revert xf; decide +kernel

/-- Key sets: a new one, the holder's, another's; an empty log view and page 1 in a buffer of two pages. -/
theorem witness_KeysetAndBufferRequests :
    let base (ks : List (W32 × W16 × HF)) : State := { banked with keysets := ks }
    let reg := request 0x22 0 [(8, [7])]
    let rel := request 0x23 0 [(8, [7])]
    let lr := request 0x30 0 [(16, [1]), (24, natLe 0x1800 8)]
    let tr := request 0x31 0 [(8, [1]), (24, natLe 0x1800 8)]
    let e : TEntry := { hf := 0, pasid := none, iova := 0, size := 16384, phys := 0x10000, write := true, shared := false, pins := [] }
    let pages : State := { banked with xl := { cache := [e] } }
    (∀ ks ∈ [[], [(7, 0, 0)], [(7, 0, 1)]], (base ks).keysets = ks ∧ Takes (asks live reg (base ks)) 0 0 0x22 reg) ∧
      (base []).keyset 7 = none ∧ (base [(7, 0, 0)]).keyset 7 = some (7, 0, 0) ∧ (base [(7, 0, 1)]).keyset 7 = some (7, 0, 1) ∧
      BitVec.ofNat 32 (field reg 8 4) = (7 : W32) ∧ payloadOk reg [(8, 6)] = true ∧
      Takes (asks live rel (base [(7, 0, 0)])) 0 0 0x23 rel ∧ payloadOk rel [(8, 4)] = true ∧
      Takes (asks live lr pages) 0 0 0x30 lr ∧ payloadOk lr [(8, 4), (16, 2), (24, 8)] = true ∧ field lr 16 2 = 1 ∧
      Takes (asks live tr pages) 0 0 0x31 tr ∧ payloadOk tr [(8, 1), (24, 8)] = true ∧ byteAt tr 8 ≤ 1 ∧ field tr 24 8 = 0x1800 ∧
      (∀ p ∈ [0x1000, 0x2000], pages.translation 0 (pages.host 0).pasid p = some e ∧ e.write = true ∧ e.iova ≤ p) := by
  refine ⟨fun ks hk => ⟨rfl, takes_of _ _ _ _ _ ?_⟩, by decide +kernel, by decide +kernel, by decide +kernel, by decide +kernel,
    by decide +kernel, takes_of _ _ _ _ _ (by decide +kernel), by decide +kernel, takes_of _ _ _ _ _ (by decide +kernel), by decide +kernel,
    by decide +kernel, takes_of _ _ _ _ _ (by decide +kernel), by decide +kernel, by decide +kernel, by decide +kernel, by decide +kernel⟩
  revert ks; decide +kernel

/-- A grant on MS1 that nobody held, and one that HF2 held; the manager's other requests for HF1. -/
theorem witness_ManagerRequests :
    let grant := request 0x40 0 [(8, [1, 1]), (16, natLe 0x200000 8), (24, natLe 0x200000 8)]
    let clear := request 0x41 0 [(8, [1, 0]), (16, natLe 0x4200000 8)]
    let held : State := { banked with heldBy := [{ hf := 2, stack := 1, base := 0, size := 0x400000 }] }
    let resv := request 0x44 0 [(8, [3, 0, 0, 2, 1])]
    let sched := request 0x43 0 [(8, [1, 4, 16, 192])]
    let grace := request 0x45 0 [(8, [1]), (12, natLe 3600000 4)]
    (∀ y ∈ [(0x40, grant, [(8, 2), (16, 16)]), (0x41, clear, [(8, 2), (16, 8)]), (0x42, request 0x42 0 [(8, [0, 5])], [(8, 2)]),
        (0x43, sched, [(8, 4)]), (0x44, resv, [(8, 5)]), (0x45, grace, [(8, 1), (12, 4)]), (0x46, request 0x46 0 [(8, [1])], [(8, 1)])],
      Takes (asks live y.2.1) 0 0 y.1 y.2.1 ∧ headerOk y.2.1 false = true ∧ payloadOk y.2.1 y.2.2 = true ∧ byteAt y.2.1 8 < 16 ∧
        ((asks live y.2.1).host 0).session = .active ∧ (asks live y.2.1).ctl.manager = some 0) ∧
    (Takes (asks live grant held) 0 0 0x40 grant ∧ byteAt grant 9 < banked.nslices ∧ banked.grantOk (grantOf grant) = true ∧
      banked.grantsFull (grantOf grant) = false ∧ banked.foreignHeld (grantOf grant) = [] ∧ held.foreignHeld (grantOf grant) ≠ []) ∧
    (banked.hasWork (rqHost clear) = false ∧
      (banked.grants.find? fun x => x.hf == rqHost clear && x.stack == byteAt clear 9 && x.base == field clear 16 8).isSome = true) ∧
    (banked.blockIdle 0 = true ∧ banked.minctxSum 1 16 ≤ 64 ∧ byteAt sched 10 ≤ byteAt sched 11) ∧
    (sharesOk (byteAt resv 11) = true ∧ sharesOk (byteAt resv 12) = true ∧ resvStacks resv = [0, 1] ∧ banked.resvFree resv = true) ∧
    (1000 ≤ field grace 12 4 ∧ field grace 12 4 ≤ 3600000) := by
  refine ⟨fun y hy => ⟨takes_of _ _ _ _ _ ?_, ?_⟩, ⟨takes_of _ _ _ _ _ (by decide +kernel), by decide +kernel⟩, by decide +kernel, by decide +kernel,
    by decide +kernel, by decide +kernel⟩
  · revert y; decide +kernel
  · revert y; decide +kernel

/-- A grant whose zeroing runs; a RING_DISABLE that can be answered; a wait of 100 ms. -/
theorem witness_AdminQueues_waits :
    let grant := request 0x40 0 [(8, [1, 1]), (16, natLe 0x200000 8), (24, natLe 0x200000 8)]
    let dis := request 0x12 0 [(8, [1, 0])]
    let w (q : List Byte) : Waiting := { req := q, since := 0 }
    let z : State := { banked with hosts := [(0, { live with cur := some (w grant) })], zeroing := [grantOf grant] }
    let r : State := { withRing { ring1 with doneI := 1 } [] with hosts := [(0, { live with cur := some (w dis) })] }
    grant.length = 64 ∧ dis.length = 64 ∧ z.adminRuns = true ∧ z.zeroing.contains (grantOf grant) = true ∧ max z.clk.fclk 120000000 ≤ (w grant).since + 120000000 ∧
      meetsHearthstone (grantOf grant).stack (grantOf grant).base (grantOf grant).size = false ∧
      (r.atFclk 120000000).waitOver 0 (w dis) = true ∧ max r.clk.fclk 120000000 ≤ (w dis).since + 120000000 ∧
      (r.atFclk 120000000).mayTimeOut 0 dis = true := by decide +kernel

theorem witness_TestsRunTheirSteps :
    (∀ k ∈ [1, 2, 3], let q := request 0x38 0 [(8, [BitVec.ofNat 8 k])]
      Takes (asks live q) 0 0 0x38 q ∧ testReqOk q banked = true ∧ byteAt q 8 = k ∧ (asks live q).testersRun = true) ∧
    (banked.testRefused 0 = false ∧ banked.ctl.cal = none ∧ banked.ctl.ist = none ∧ banked.ctl.ost = none ∧ ∀ g, (taken banked 0 0).idleOrFrozen g = true) ∧
    (let s : State := { withSlice0 { drain := true } banked with ctl := { banked.ctl with ist := some (0, 0, false) } }
     s.testersRun = true ∧ (s.slice 0).drain = true ∧ s.queueDrained 0 = true ∧ (s.slice 0).fenced = false ∧ s.wouldOrphan 0 = false) ∧
    (let s : State := { withSlice0 { fenced := true, testing := true } banked with ctl := { banked.ctl with ist := some (0, 0, true) } }
     (s.slice 0).fenced = true ∧ (s.slice 0).testing = true ∧ (s.slice 0).cause = 0) ∧
    (∀ t ∈ [5, 27], let s : State := { banked with ctl := { banked.ctl with cal := some 0 }, dmp := { ts := [(t, { cal := true })] } }
     (s.sensor t).cal = true ∧ ((s.sensors.find? fun k => decide (t < k)).isNone ↔ t = 27)) ∧
    (∀ b ∈ [true, false], let s : State := { banked with ctl := { banked.ctl with ost := some 0, ostRun := b } }
      s.ctl.ost = some 0 ∧ s.testersRun = true ∧ s.ctl.ostRun = b) ∧
    ((banked.allSlots.any fun e => e.2.phase.begun) = false ∧ banked.ctl.ostRun = false ∧ (banked.slice 3).fenced = false) := by
  refine ⟨fun k hk => ⟨takes_of _ _ _ _ _ ?_, ?_⟩, by decide +kernel, by decide +kernel, by decide +kernel, by decide +kernel, by decide +kernel,
    by decide +kernel⟩
  · revert k; decide +kernel
  · revert k; decide +kernel

/-- A COPY that runs on ring 1, a slice noted before, and the other places. -/
theorem witness_UncorrectableWords :
    let d := slot 0 0x01 0 .started
    let s := withRing ring1 [d]
    let again : State := { s with hl := { hist := [{ kind := 2, place := 0, fclk := 0 }] } }
    let e : TEntry := { hf := 0, pasid := none, iova := 0, size := 4096, phys := 0, write := true, shared := false, pins := [] }
    let x : State := { s with xl := { cache := [e] } }
    let sg : Slot := { slot 0 0x51 0 .started with bytes := desc 0x51 0 [2] }
    (s.slotOf 1 0 = some d ∧ d.running = true ∧ d.isSignal = false ∧ s.slotOf 1 1 = none ∧ d.rerunnable = true) ∧ sliceWord (.kiln 0) = some (0, ueWord 2 0 0 0, 1) ∧
      secondWord s 0 (.kiln 0) = false ∧ secondWord again 1200000000 (.kiln 0) = true ∧ secondWord again 1200000001 (.kiln 0) = false ∧
      (let out : Slot := { slot 0 0x01 0 .aborted with cause := causeFence }
       (withRing ring1 [out]).fenceAborted 1 0 = true ∧ s.fenceAborted 1 1 = false ∧ placeOfDescriptor (.kiln 0) = true ∧
        placeSlice (.bypass 3) = some 3 ∧ placeSlice .hostPath = none ∧ sg.races = [] ∧ sg.sigStale = false ∧
        ({ s with fw := { comps := [(Comp.health.key, { st := .restarting })] } } : State).compRuns .health = false ∧
        ({ s with hl := { hist := [{ kind := 5, place := 2, fclk := 0 }] } } : State).repeated 5 2 0 = true) ∧
      s.compRuns .health = true ∧ s.quarterOf 1 = some 1 ∧ x.xl.cache[0]? = some e ∧ s.compRuns .log = true ∧ 0 < s.nslices ∧
      ((withRing ring1 [sg]).slotOf 1 0 = some sg ∧ sg.isSignal = true ∧ sg.running = true ∧ sigWr sg.bytes = true ∧ sigLoc sg.bytes ≠ 0xFF) := by
  decide +kernel

theorem witness_OtherDetectionPoints :
    let d := { slot 0 0x01 0 .started with slices := [0] }
    let s := withRing ring1 [d]
    let x (u : Option (RingId × W32)) : Pass := { src := 0, dst := 1, gen := .seq, first := 0, rows := 8, ty := 0, q0 := 0, q1 := 0, start := 3, words := [], user := u }
    let p (u : Option (RingId × W32)) : State := withSlice0 { passes := [x u] } s
    let q : State := { s with ports := { reqs := [req 0 false] } }
    (s.slotOf 1 0 = some d ∧ d.running = true ∧ d.isSignal = false ∧ s.pclkRuns = true ∧ s.compRuns .health = true) ∧
      (((p none).slice 0).latePass 1 51 = some (x none) ∧ ((p (some (1, 0))).slice 0).latePass 1 51 = some (x (some (1, 0)))) ∧
      (s.idleWith 0 = true ∧ ∀ y ∈ s.runningOn 0, s.slotOf y.1 y.2.idx = some y.2 ∧ y.2.isSignal = false) ∧
      ((q.ports.reqs.find? fun x => x.port == 0 && x.master == 0 && x.tag == some 0 && x.wr == false) = some (req 0 false) ∧ (req 0 false).issued + 2400000 ≤ 2400000 ∧ (req 0 false).overdue = false) := by
  decide +kernel

/-- A COPY and a hard-faulted one wait for HEALTH; an Open and a Sealed one wait for their replay. -/
theorem witness_ReplaysStartAgain :
    let a (u : Option Nat) : Slot := { slot 0 0x01 0 .aborted with unit := u, cause := 1 }
    let b (f : Byte) : Slot := { slot 0 0x01 f .decided with cause := 1 }
    (∀ u ∈ [none, some 0], (withRing ring1 [a u]).slotOf 1 0 = some (a u) ∧ (withRing ring1 [a u]).compRuns .health = true) ∧
      (∀ f ∈ [(0 : Byte), 1], let s := withRing ring1 [b f]
        s.slotOf 1 0 = some (b f) ∧ s.pclkRuns = true ∧ (∀ e ∈ s.unit 1 (b f), e.phase ≠ .aborted) ∧
          (∀ e ∈ (s.atPclk 9).replaySet 1 (b f), (s.atPclk 9).replayOk 1 e = true) ∧
          (s.atPclk 9).roomFor 1 ((s.atPclk 9).replaySet 1 (b f)) = true ∧ ((s.slotsOf 1).map fun e => e.idx).Nodup) := by
  decide +kernel

/-- The two sides of an access that takes no effect: KEYS outside its windows, a host function or HEALTH anywhere it may not write. -/
def deniedBoth (a : Area) : Bool :=
  banked.writes (.fw .keys) a == false && fwReaches .keys a == false && banked.compRuns .keys && banked.firmwareUp &&
    banked.writes (.host 1) a == false

/-- HEALTH writes HS0 and HS23; with HS1 fenced, a test fence of HS0 would orphan a stack; SCHED does not write slices. -/
theorem witness_FirmwareFences :
    (∀ n ∈ [0, 23], banked.fenceWrites (.fw .health) n = true ∧ banked.wouldOrphan n = false) ∧
      ({ banked with slices := [(1, { fenced := true })] } : State).wouldOrphan 0 = true ∧
      ((withSlice0 { fenced := true, testing := true } banked).slice 0).testing = true ∧
      banked.fenceWrites (.fw .schedA) 0 = false ∧ banked.writes (.fw .health) .flue = true ∧ banked.writes (.fw .admin) .flue = false ∧
      banked.writes (.fw .health) .global = true ∧ banked.writes (.host 1) .global = false ∧ deniedBoth (.slice 0) = true ∧
      deniedBoth .flue = true := by decide +kernel

/-- A descriptor that waits in the issue queue of a fenced slice passes to the queue of its buddy (R337). -/
theorem test_fence_moves_waiting_work :
    let d : Slot := { slot 0 0x01 0 .started with bound := false, ops := [oper 0, oper 4], slices := [0] }
    let t := (withRing ring1 [d]).isolate 0 0 false
    (t.slotsOf 1).map (fun e => (e.phase, e.slices, e.cause)) = [(.started, [1], 0)] := by decide +kernel

/-- TINDER: an entry that R309 permits, a stopped empty ring, a descriptor to start, one to fetch; a function-level reset. -/
theorem witness_FallbackAndFunctionReset :
    let img : List Nat := [0x4000000, 0x4010000, 0x0000000003000600, 0]
    let s : State := { State.reset with hosts := [(0, { fbent := (img.zipIdx).map fun x => (x.2, BitVec.ofNat 64 x.1) })] }
    let on : Ring := { st := .enabled, pi := 1, pend := true, image := (s.host 0).fbImage }
    let f : State := { s with rings := [(0, on)] }
    let d := slot 0 0x01 0 .checked
    let g : State := { f with ctxs := [(0, { ring := 0, slots := [d] })] }
    let stop : State := { f with hosts := [(0, { fbStop := true })] }
    (s.writes (.host 0) (.host 0) = true ∧ s.fbWritable = true ∧ (s.ring (fbRing 0)).st = .disabled ∧
      s.fbImageOk 0 (parseRingEntry (s.host 0).fbImage) = true ∧ s.fbImageOk 0 (parseRingEntry (s.host 1).fbImage) = false ∧
      (f.ring (fbRing 0)).st ≠ .disabled ∧ banked.fbWritable = false) ∧
    ((stop.host 0).fbStop = true ∧ stop.drained (fbRing 0) = true ∧ s.windowUp = true ∧ s.mayRead (.host 0) (.host 0) = true ∧ s.mayRead (.host 1) (.host 0) = false ∧ deniedBoth (.host 0) = true) ∧
    (g.pclkRuns = true ∧ g.ctl.fbAct = true ∧ g.fbNext = some 0 ∧ g.fbStartable (fbRing 0) = some d ∧
      f.fbNext = some 0 ∧ f.fbStartable (fbRing 0) = none) ∧
    (s.ctl.inReset = false ∧ s.ctl.stage ≠ .reset ∧ (s.host 0).flrBusy = false ∧
      ({ s with hosts := [(0, { flrBusy := true })] } : State).flrReady 0 = true ∧ s.flrReady 0 = false) := by decide +kernel

/-- An event that occurs again while it is cleared and enabled; a vector that is unmasked while due; the fallback entry that may be written in
TINDER and not in BANKED; writes that are discarded. -/
theorem witness_RegisterWrites :
    let s : State := { banked with hosts := [(0, { gevt := 3, gevten := 1, vecs := [(5, { pend := true })] })] }
    let v : W64 := 1
    let e := (s.host 0).vec 5
    let e' : EvVec := { e with data := v.setWidth 32, holdoff := (v >>> 32).setWidth 16, mask := v.getLsbD 48 }
    s.writes (.host 0) (.host 0) = true ∧ ((1 : BitVec 6).getLsbD 0 = true ∧ ((s.host 0).gevt.getLsbD 0 && !v.getLsbD 0) = false ∧
      (s.host 0).gevten.getLsbD 0 = true) ∧ (e.mask = true ∧ e'.due s.clk.nclk = true) ∧
      s.writes (.fw .schedA) .gctl = true ∧ s.writes (.host 1) .gctl = false ∧ s.writes (.host 1) (.host 0) = false ∧
      State.reset.fbWritable = true ∧ State.reset.writes (.host 0) (.host 0) = true ∧ s.fbWritable = false ∧
      deniedBoth (.host 0) = true ∧ (areaOf 0x10010).1 = .host 0 ∧ s.writeTakes (.fw .keys) 0x10010 8 = false ∧
      s.writeTakes .mgmt 0x10010 8 = false ∧ s.writeTakes (.host 0) 0x10014 8 = false ∧ s.writeTakes (.host 0) 0x10010 4 = false := by
  decide +kernel

/-- GREEN opens the window to the management port and to the manager, SERVICE to KERNEL alone. -/
theorem witness_BellowsWindow :
    let green : State := { banked with part := { banked.part with lc := .green } }
    green.bwOpen .mgmt = true ∧ green.bwOpen (.host 0) = true ∧ green.bwOpen (.host 1) = false ∧ banked.bwOpen .mgmt = false ∧
      banked.bwLocked = true ∧ banked.windowUp = true ∧ (areaOf 0x500008).1 = .bellows ∧
      deniedBoth .bellows = true ∧ banked.bwOpen (.fw .keys) = false ∧ banked.bwOpen (.fw .kernel) = true ∧ bwWritable 0x10000000 = true ∧ bwWritable 0x101FFFF8 = true ∧ bwWritable 0x10200000 = false ∧
      (({ green with fw := { green.fw with cores := [(2, { halted := true })] } } : State).core 2).halted = true ∧
      (green.core 2).halted = false ∧ green.hl.due = [] ∧ green.led.notice = false ∧ green.fw.ports = [] ∧ green.fw.unsent = [] ∧
      ∀ k ∈ allComps, (green.component k).st = .running := by decide +kernel

/-- The second and the third fault of LOG within one second, the fault after a core's warm reset; heartbeats; a restart of ADMIN. -/
theorem witness_FirmwareRestarts :
    let s (c : Component) : State := { banked with fw := { comps := [(Comp.log.key, c)] } }
    let t : State := { banked with fw := { comps := [(Comp.admin.key, { st := .restarting })], adminDown := some 3, cores := [(1, { missed := 3 })] } }
    banked.firmwareUp = true ∧ (∀ l ∈ [[5], [5, 6]], (s { faults := l }).compRuns .log = true ∧ ((s { faults := l }).component .log).again = false ∧
      (((s { faults := l }).component .log).faults.filter fun x => decide (7 ≤ x + 1200000000)).length = l.length) ∧
      ((s { again := true }).component .log).again = true ∧ (t.component .admin).st = .restarting ∧ t.fw.adminDown = some 3 ∧
      (t.core 1).halted = false ∧ (t.core 1).missed = 3 ∧ (t.core 0).missed ≠ 3 ∧ (t.component .log).st ≠ .restarting ∧
      (let u : State := { banked with
        fw := { comps := [(Comp.health.key, { st := .restarting }), (Comp.log.key, { st := .restarting })], cores := [(2, { halted := true })]
                ports := [(16 * Comp.admin.key + Comp.log.key, [[]])] }
        hl := { due := [(5, 1)] } }
       (u.core 2).halted = true ∧ (u.component .health).st = .restarting ∧ (u.component .log).st = .restarting ∧
        (u.core Comp.health.core).halted = false ∧ (u.core Comp.log.core).halted = false ∧ u.hl.due = [(5, 1)] ∧
        u.fw.ports.all (fun e => logPort e.1) = true) := by decide +kernel

theorem witness_MailboxCommands :
    let s (q : List Byte) : State := { banked with emb := { req := some q } }
    let tx : State := { banked with emb := { tx := [(0, 1)] } }
    (∀ k ∈ List.range' 1 8, ∀ n ∈ [0, 1, 32, 33], (s (padTo 64 [BitVec.ofNat 8 k, 0, 0, 0, BitVec.ofNat 8 n])).embRequest k =
      some (padTo 64 [BitVec.ofNat 8 k, 0, 0, 0, BitVec.ofNat 8 n])) ∧
    (tx.writes (.fw .keys) .mailbox = true ∧ tx.emb.req = none ∧ tx.emb.rsp = none ∧ tx.emb.isolated = false ∧ byteAt tx.txBytes 0 = 1) ∧
    (banked.writes (.host 1) .mailbox = false ∧ banked.writes (.fw .admin) .mailbox = false ∧ fwReaches .admin .mailbox = false ∧
      banked.compRuns .admin = true) ∧
    (∀ k ∈ List.range' 1 8, (s (padTo 64 [BitVec.ofNat 8 k, 1])).embRequest k = some (padTo 64 [BitVec.ofNat 8 k, 1]) ∧
      embMore (padTo 64 [BitVec.ofNat 8 k, 1]) = true ∧ embMore (padTo 64 [BitVec.ofNat 8 k, 0]) = false) ∧
    (let q := padTo 64 [6, 0, 0, 0, BitVec.ofNat 8 Lifecycle.ret.code]
     let x : State := { s q with ctl := { banked.ctl with xfer := some .ret } }
     x.ctl.xfer = some .ret ∧ Lifecycle.ofCode (byteAt (x.embPayload 6 q) 0) = some .ret ∧ x.part.lc ≠ .ret ∧ x.workDone = true ∧
      ({ x with part := { x.part with lc := .ret } } : State).part.lc = .ret) ∧
    (let q := padTo 64 [7, 0, 0, 0, 3]
     let x : State := { s q with ctl := { banked.ctl with cap3 := BitVec.ofNat 64 (3 * 2 ^ 41) } }
     x.ctl.stage = .banked ∧ byteAt (x.embPayload 7 q) 0 = x.svn ∧ x.part.floor < x.svn ∧ byteAt ((s q).embPayload 7 q) 0 ≠ (s q).svn) := by
  decide +kernel

theorem witness_EmberFailuresQuench :
    let s : State := { banked with emb := { req := some [] } }
    let k (n : Nat) : State := { State.reset with ctl := { stage := .kindling }, emb := { attempts := n } }
    (s.emb.req.isSome = true ∧ s.emb.reqAt + 120000000 ≤ max s.clk.fclk 120000000 ∧ s.ctl.stage = .banked ∧ s.ctl.inReset = false) ∧
      ((1 : BitVec 2) ≠ 0 ∧ s.emb.bad ||| 3 = 3 ∧ s.emb.bad ||| 1 ≠ 3) ∧
      (∀ n ∈ [1, 2], (k n).ctl.stage = .kindling ∧ (k n).emb.healthOk = false ∧ (k n).emb.isolated = false ∧ (k n).emb.attempts = n ∧
        (k n).emb.disagreed + true.toNat < 2) ∧
      (let d : State := { State.reset with ctl := { stage := .kindling }, emb := { attempts := 1, disagreed := 1 } }
       d.ctl.stage = .kindling ∧ d.emb.healthOk = false ∧ d.emb.disagreed + true.toNat = 2) := by
  decide +kernel

/-- A token of SERVICE to RETURN, 10 s after its nonce, and one after 10 s and a count. -/
def token : List Byte := padTo 64 ([Lifecycle.service.code, Lifecycle.ret.code].map (BitVec.ofNat 8) ++ [0, 0] ++ natLe 0 8 ++ natLe 77 32)

theorem witness_LifecycleCommands :
    let s : State := { banked with emb := { nonce := some (77, 0) } }
    let x : State := { banked with ctl := { banked.ctl with xfer := some .ret } }
    let r : State := { banked with ctl := { banked.ctl with cap3 := BitVec.ofNat 64 (3 * 2 ^ 41) } }
    s.mgmtUp = true ∧ Lifecycle.ofCode (byteAt token 1) = some .ret ∧ (s.atFclk 12000000000).lcAccepted token true true false = true ∧
      (s.atFclk 12000000001).lcAccepted token true true false = false ∧ x.ctl.xfer = some .ret ∧ x.workDone = true ∧
      (segPermitted .ret 4 = true ∧ segPermitted .service 4 = false) ∧
      (withRing ring1 [slot 0 0x01 0 .started]).workDone = false ∧ r.part.floor < r.svn ∧ banked.svn ≤ banked.part.floor ∧
      banked.emb.isolated = false ∧ banked.compRuns .log = true ∧ x.part.lc ≠ .ret ∧
      (let y : State := { banked with ctl := { stage := .quenched } }
       y.mgmtUp = true ∧ y.ctl.stage = .quenched) := by decide +kernel

/-- A service image with no sections, verified by key 1, SVN 2. -/
def image : List Byte :=
  setBytes (setBytes (List.replicate 4851 0) 0 (natLe 0x4C425054 4 ++ [1, 1, 2, 0] ++ List.replicate 24 0 ++ natLe 4851 4 ++ [1])) 48 (sha384 [])

theorem witness_FirmwareUpdate :
    let at_ (u : Update) (n : Nat) : State := { banked with pldm := { st := u, size := n } }
    (at_ .transfer 4).mgmtUp = true ∧ banked.pldm.st = .idle ∧ (at_ .requested 0).pldm.st = .requested ∧ (at_ .table 0).pldm.st = .table ∧
      ([1, 2, 3, 4] : List Byte).length = min 4096 ((at_ .transfer 4).pldm.size - (at_ .transfer 4).pldm.buf.length) ∧
      ([1, 2, 3, 4] : List Byte).length ≠ (at_ .transfer 4097).pldm.size ∧ (at_ .verified 0).pldm.st = .verified ∧
      banked.imageOk image true true = true ∧ banked.imageOk image true false = false := by decide +kernel

theorem witness_LedgerCommands :
    let s : State := { banked with led := { st := .restored } }
    banked.mgmtUp = true ∧ banked.compRuns .ledger = true ∧ banked.led.st = .awaited ∧ s.led.st ≠ .awaited ∧ s.ledgerOpen = true ∧
      s.ctl.quenching = false ∧ banked.ctl.kindlingAt + 12000000000 ≤ 12000000000 ∧
      s.led.last + s.led.interval * 1200000000 ≤ max s.clk.fclk 4320000000000 ∧
      max s.clk.fclk 4319999999999 < s.led.last + s.led.interval * 1200000000 ∧
      ({ banked with ctl := { banked.ctl with quenching := true } } : State).workDone = true ∧ 27 ∈ banked.sensors := by decide +kernel

theorem witness_Resets :
    let low : State := { State.reset with edge := { rst := true }, ctl := { stage := .reset, inReset := true } }
    let up (l : Lifecycle) : State := { State.reset with ctl := { stage := .reset }, part := { State.reset.part with lc := l } }
    State.reset.edge.rst = false ∧ low.edge.rst = true ∧
      ∀ l ∈ [Lifecycle.service, .spent], (up l).ctl.stage = .reset ∧ (up l).ctl.inReset = false ∧ ((up l).part.lc = .spent ↔ l = .spent) := by
  decide +kernel

theorem witness_BootSequence :
    let held (s : State) : State := { s with flue := { s.flue with held := 8 } }
    let k (g p : Nat) : State := { State.reset with ctl := { stage := .kindling, groupsLeft := g, planesLeft := p }, emb := { healthOk := true } }
    let sl : State := { k 4 4 with slices := [(20, { fenced := true, testing := true })] }
    State.reset.bootable false = true ∧ State.reset.imageOk image true true = true ∧ State.reset.imageOk image false true = false ∧
      (sl.selfTesting = true ∧ sl.ctl.groupsLeft + 0 = 4 ∧ 20 < sl.nslices ∧ 20 % 4 = 0 ∧ (sl.slice 20).fenced = true ∧ (sl.slice 20).testing = true ∧
        (sl.slice 20).cause = 0) ∧
      ((k 1 4).ctl.groupsLeft + 3 = 4 ∧ (k 0 1).ctl.planesLeft + 3 = 4 ∧ (k 0 1).selfTesting = true ∧
        (held (k 0 1)).flue.held.getLsbD 3 = true) ∧ (k 0 0).bankable = true ∧
      ((k 4 4).atFclk 1200000000).watchdogDue = true := by decide +kernel

/-- Samples at 115 °C, just below it, at 105 °C, at 95 °C and below 100 °C reach each clause; power above 330 W. -/
theorem witness_DamperRules :
    let run (s : State) (x : Int) (w : Nat) : State := match exec (.damperSample (List.replicate 28 x) w 0) s with | .next t => t | _ => s
    let hot : State := { banked with dmp := { hhold := true, step := 7 } }
    banked.damperUp = true ∧
      (∀ x ∈ [celsius 115, celsius 115 - 1, celsius 105, celsius 105 - 1, celsius 95], (run banked x 100).hotReading = x) ∧
      (∀ x ∈ [celsius 100, celsius 100 - 1], (run hot x 100).hotReading = x ∧ hot.dmp.hhold = true) ∧
      (run banked (celsius 40) 331).hotReading < celsius 105 ∧
      (banked.dmp.step < 7 ∧ banked.dmp.upAt = none ∧ banked.dmp.hhold = false ∧ banked.dmp.gap = 0) ∧
      (let s (a : Nat) : State := { banked with dmp := { req := some 2, avs := a } }
       (s 20).codeFor 2 < (s 20).dmp.avs ∧ (s 16).dmp.avs ≤ (s 16).codeFor 2) := by decide +kernel

theorem witness_SuppliesAndSegments :
    let s (w : BitVec 7) (l : Lifecycle) : State := { State.reset with edge := { segWait := w }, part := { State.reset.part with lc := l } }
    (∀ k ∈ [1, 6], segPermitted Lifecycle.green k = true ∧ (s 127 .green).edge.segWait.getLsbD k = true) ∧ (s 127 .green).ctl.stage = .tinder ∧
      (s 127 .green).workDone = true ∧ segPermitted Lifecycle.service 1 = false ∧ banked.ctl.stage = .banked ∧
      2 ≤ (2 : BitVec 7).toNat ∧ (1 : BitVec 7).toNat < 2 := by decide +kernel

theorem witness_StepKeepsMemoryCanonical :
    let s : State := { withRing ring1 [] with pending := [.doorbell 0 0 0 8 (bell 2)] }
    MemoryCanonical s ∧ ∃ t, step s = .next t := ⟨rfl, _, rfl⟩

theorem witness_StepKeepsPart :
    let s : State := { banked with part := { banked.part with floor := 127, powerOns := 2048 }, pending := [.porN] }
    s.part.floor ≤ 127 ∧ s.part.powerOns ≤ 2048 ∧ ∃ t, step s = .next t := ⟨by decide, by decide, _, rfl⟩

/-- KEYS runs, so that a token can be drawn, or restarts. -/
theorem witness_SessionRequests_token :
    banked.tokenReady = true ∧ ({ banked with fw := { comps := [(Comp.keys.key, { st := .restarting })] } } : State).tokenReady = false := by
  decide +kernel

/-- MS0 is the host function's or not; the descriptor is poisoned; the descriptors lie in host memory, whose page is translated. -/
theorem witness_FetchedDescriptorsTakeSlots_places :
    let s := withRing ring1 []
    let host : State := withRing { ring1 with image := setBytes entry 16 [0xFF] } []
    let e : TEntry := { hf := 0, pasid := none, iova := 0x8000000, size := 4096, phys := 0x9000, write := true, shared := false, pins := [] }
    s.ringGone 1 = false ∧ s.inGrant (s.ringHost 1) 0 0x8000000 1 = false ∧ (granted s).inGrant (s.ringHost 1) 0 0x8000000 1 = true ∧
      ({ granted s with poison := [(0x8000000 / 64, true)] } : State).poisoned 0 0x8000000 128 = true ∧ s.poisoned 0 0x8000000 128 = false ∧
      (s.ringEntry 1).loc ≠ 0xFF ∧ (host.ringEntry 1).loc = 0xFF ∧
      (({ host with xl := { cache := [e] } } : State).translation (host.ringHost 1)
        (if (host.ringEntry 1).pv then some (host.ringEntry 1).pasid else none) (0x8000000 / 4096 * 4096)).isSome = true := by decide +kernel

/-- A pool of a COPY that has a block to drain. -/
theorem witness_FillAndWipeOfPools_drains :
    let d := { slot 0 0x01 0 .started with ops := [oper 0, oper 4], slices := [0] }
    let s := withSlice0 { pools := [(1, { user := some (1, 0), ready := true, drains := [0] })] } (withRing ring1 [d])
    (s.pool 0 1).user = some (1, 0) ∧ s.runner (1, 0) = some d ∧ d.maps = false ∧ (s.pool 0 1).role = .free ∧ (s.pool 0 1).drains ≠ [] := by
  decide +kernel

/-- A KSIP whose key does not read back and that has a PCARD. -/
theorem witness_CorruptRunEndsWithItsStatus_card :
    let e := { slot 0 0x2A 0 .started with scard := some (cipher 10), bytes := desc 0x2A 0 ([0, 1] ++ List.replicate 18 0 ++ natLe (2 ^ 45 + 0x4000040) 8) }
    let s := withRing ring1 [e]
    s.slotOf 1 0 = some e ∧ s.runnable .ksip 1 e = true ∧ e.corrupt = none ∧ (s.effectFor .ksip 1 e).keyBad = true ∧
      bit (field e.bytes 104 8) 45 = true ∧ undefinedVals e = [] := by decide +kernel

/-- The destination card of a NEGROT, a BITREV, a RESCALE, a FLOOD and a LUTPOLY. -/
theorem witness_RecordsEnterCollector_card : ∀ op ∈ [(0x13 : Nat), 0x11, 0x29, 0x39, 0x30],
    let b := setBytes (desc op 0 []) 24 (natLe (2 ^ 63 + 0x4000080) 8)
    let img := tableOf 2 1
    let d := { slot 0 op 0 .ran with bytes := b, dcard := State.reset.destCard (slot 0 op 0 .ran).opc b img (some (cipher 10)) }
    (dcardPtr d.bytes).valid = true ∧ d.dcard.isSome = true ∧ State.reset.destCard d.opc d.bytes img (some (cipher 10)) = d.dcard ∧
      d.status = stDone ∧ d.races = [] ∧ (cipher 10).level < 64 ∧ (cipher 10).limbs ≤ 64 ∧ (cipher 10).npoly ≤ 1 := by decide +kernel

/-- An AUTOMORPH by 5 of degree 4, whose inverse modulo 8 is 5. -/
theorem witness_ReorderingsMoveElements_automorph :
    let d := { slot 0 0x12 0 .started with bytes := desc 0x12 0 [5], scard := some (cipher 2), ops := [oper 0, oper 4] }
    (d.opD 4).card.dims.getLastD 1 = 2 ^ 2 ∧ d.scard = some (cipher 2) ∧ (cipher 2).log2n = 2 ∧ isResidue (d.opD 4).card.ty = true ∧
      field d.bytes 84 4 < 2 * 2 ^ 2 ∧ field d.bytes 84 4 * 5 % (2 * 2 ^ 2) = 1 := by decide +kernel

/-- Values of each kind: 1.0, a NaN and an infinity of FP32, and the residue 96 modulo 97. -/
theorem witness_CharFloatAndConvertRows :
    (∃ n k d, elemVal 0x21 0 0x3F800000 = .fin n k d ∧ 0 < d) ∧ (∃ n, elemVal 0x21 0 0x7FC00000 = .nan n) ∧ (∃ n, elemVal 0x21 0 0xFF800000 = .inf n) ∧
      isResidue 0x21 = false ∧ (0 < (scaleOf 0x1400).1 ∧ 0 < (scaleOf 0x1400).2) ∧ canonIn tyU64 97 96 = some 96 ∧ 96 < 97 ∧ 97 < 2 ^ 62 := by
  refine ⟨⟨_, _, _, rfl, ?_⟩, ⟨_, rfl⟩, ⟨_, rfl⟩, ?_⟩ <;> decide +kernel

/-- For MailboxCommands, EmberFailuresQuench, LifecycleCommands and LedgerCommands: a ROLLBACK_COMMIT waits for the mailbox; Ember is isolated; the management port in QUENCHED; LEDGER restarts with a notice to answer. -/
theorem witness_ManagementWaits :
    (let q := padTo 64 [7, 0, 0, 0, 3]
     let x : State := { banked with emb := { req := some q }, ctl := { banked.ctl with commit := true, cap3 := BitVec.ofNat 64 (3 * 2 ^ 41) } }
     x.embRequest 7 = some q ∧ x.ctl.commit = true ∧ x.ctl.stage = .banked ∧ x.part.floor < byteAt (x.embPayload 7 q) 0 ∧
      byteAt (x.embPayload 7 q) 0 = x.svn ∧ x.emb.isolated = false ∧ x.emb.req ≠ none ∧ x.mgmtUp = true) ∧
    (let i : State := { banked with emb := { isolated := true } }
     i.mgmtUp = true ∧ i.emb.isolated = true ∧ i.emb.reqAt + 120000000 ≤ max i.clk.fclk 120000000) ∧
    banked.edge.rst = false ∧ banked.edge.faultHold = false ∧
    (let l : State := { banked with
      led := { st := .restored, notice := true }
      fw := { comps := [(Comp.ledger.key, { st := .restarting })] } }
     l.ledgerAway = true ∧ l.ledgerOpen = false ∧ l.led.notice = true ∧ l.led.st ≠ .awaited ∧ l.firmwareUp = true ∧ (l.component .ledger).st = .restarting ∧
      (l.core Comp.ledger.core).halted = false) ∧
    banked.ledgerAway = false ∧ banked.ledgerOpen = false := by decide +kernel

/-- For Resets, SuppliesAndSegments, DamperRules and OtherDetectionPoints: rails that are good, with and without a hold that needs all three, and one that is not; a segment asked for in QUENCHED; instruments of S1 that are open; pclk
stopped by a hard hold. -/
theorem witness_PinsAndHolds :
    let low (hold : Bool) : State := { State.reset with edge := { rst := true, faultHold := hold }, ctl := { stage := .reset, inReset := true } }
    (∀ hold, (low hold).edge.rst = true ∧ (low hold).railLevels = (7, true) ∧ (low hold).edge.faultHold = hold) ∧
      ({ low true with edge := { (low true).edge with railGood := 3 } } : State).edge.rst = true ∧
      (let q : State := { State.reset with ctl := { stage := .quenched }, edge := { segWait := 127 }, part := { State.reset.part with lc := .green } }
       (∀ k ∈ [1, 3, 4, 5, 6], segPermitted q.part.lc k = true ∧ q.edge.segWait.getLsbD k = true) ∧ q.ctl.stage = .quenched ∧ q.ctl.quenching = false ∧ q.workDone = true) ∧
      ({ banked with dmp := { hhold := true } } : State).pclkRuns = false ∧
      (let s : State := { banked with dmp := { req := some 2, avs := 20, wait := some 3 } }
       s.dmp.req ≠ none ∧ s.dmp.wait = some 3) := by decide +kernel

/-! ### The manual's worked examples -/

/-- 05, Table 05-5: k = 5^7 on N = 2^16. -/
theorem test_automorph_example : autoSource 16 78125 false false 0 = (0, false) ∧ autoSource 16 78125 false false 1 = (18085, true) ∧
    autoSource 16 78125 false false 130 = (57290, true) := by decide +kernel

/-- 03, bit reversal of a 2^16 limb: positions 389 and 645, and where they lie in the skewed mapping. -/
theorem test_bitrev_example : brev 16 389 = 41344 ∧ skewedAt 16 41344 = (323, 80) ∧ brev 16 645 = 41280 ∧ skewedAt 16 41280 = (322, 16) := by
  decide +kernel

/-- 09, Table 09-10: weights at scale 2^20 into residues modulo 0x3FFF_C001. -/
theorem test_convert_example :
    let c (rnd w : Nat) : Option Nat := convertElem ⟨0x21, 0, 0, 0⟩ ⟨tyU64, 0, 0x3FFFC001, 0⟩ (scaleOf 0x1400) rnd false 0 w
    c 0 0xBEA00000 = some 1073397761 ∧ c 0 0x3DCCCCCD = some 104858 ∧ c 1 0x3DCCCCCD = some 104857 ∧ c 0 0x30800000 = some 0 ∧
      c 0 0x7FC00000 = some 0 ∧ c 0 0x7B800000 = some 0 := by decide +kernel

/-- 12, Table 12-3: the fourth replenishment of weights 32, 16 and 8. -/
theorem test_replenish_example :
    let h (w : Nat) (d : Int) : HostFn := { wt := w, deficit := d }
    let r (n : Nat) : RingId := Fin.ofNat 65536 n
    let s : State := { banked with
      hosts := [(0, h 32 (-7474)), (3, h 16 (-10752)), (9, h 8 (-2856))],
      rings := [(1, ring1), (0x3001, ring1), (0x9001, ring1)],
      ctxs := [(0, { ring := r 1, slots := [slot 0 1 0 .checked] }), (1, { ring := r 0x3001, slots := [slot 0 1 0 .checked] }),
        (2, { ring := r 0x9001, slots := [slot 0 1 0 .checked] })] }
    (match exec .deficitReplenish s with | .next t => [t.deficit 0, t.deficit 3, t.deficit 9] | _ => []) = [718, -6656, -808] := by
  decide +kernel

/-- 15, a driver's first register accesses: HF3 programs vector 5, its global events and its fallback ring in TINDER. -/
theorem test_driver_example :
    let w (off : Nat) (v : W64) (s : State) : State := match exec (.registerWrite (.host 3) off 8 v) s with | .next t => t | _ => s
    let s := w 0x13018 5 (w 0x13010 1 (w 0x13158 0x400000025 (w 0x13150 0xFEE00000 State.reset)))
    let e := (s.host 3).vec 5
    s.regRead (.host 3) 0x30 8 = 0x201 ∧ s.regRead (.host 3) 0x10 8 = 0x18449009 ∧ e.addr ++ (0 : BitVec 2) = 0xFEE00000 ∧ e.data = 0x25 ∧
      e.holdoff = 4 ∧ e.mask = false ∧ ((s.setStage .kindling).host 3).gevt = 1 ∧ (((s.setStage .kindling).host 3).vec 5).pend = true ∧
      s.regRead (.host 3) 0x12150 8 = 0 ∧ (w 0x12150 7 s) = s := by decide +kernel

/-- The fallback ring of the same example: FBENT, FBCTL, FBSTAT, and the doorbell 0x3000_0000_0000_0001. -/
theorem test_fallback_example :
    let w (off : Nat) (v : W64) (s : State) : State := match exec (.registerWrite (.host 3) off 8 v) s with | .next t => t | _ => s
    let s := w 0x13920 0x100000000 (w 0x13910 0x05030AFF (w 0x13908 0x20000 (w 0x13900 0x10000 State.reset)))
    let t := w 0x103FF8 0x3000000000000001 s
    (s.ring 0x3000).st = .enabled ∧ (s.host 3).fbErr = false ∧ (t.ring 0x3000).pi = 1 ∧ (t.ring 0x3000).pend = true ∧
      (t.ring 0x3000).fetch = 0 := by decide +kernel

end Sys2Proof.Tests
end

section
/-! Proofs about the pre-check (R268, R269): the first failing check, the order of the stages of Table 11-5, and O7. -/

namespace Sys2Proof.Machine

/-! ### The first failing check -/

theorem firstBad_append_of_ok {cs ds : List Chk} (h : cs.all (·.ok) = true) : firstBad (cs ++ ds) = firstBad ds := by
  induction cs with
  | nil => rfl
  | cons c cs ih =>
    simp only [List.all_cons, Bool.and_eq_true] at h
    simp [firstBad, h.1, ih h.2]

theorem firstBad_eq_none_of_ok {cs : List Chk} (h : cs.all (·.ok) = true) : firstBad cs = none := by
  simpa [firstBad] using firstBad_append_of_ok (ds := []) h

theorem firstBad_append_of_some {cs ds : List Chk} {c : Chk} (h : firstBad cs = some c) : firstBad (cs ++ ds) = some c := by
  induction cs with
  | nil => cases h
  | cons b cs ih =>
    cases hb : b.ok with
    | true => simpa [firstBad, hb] using ih (by simpa [firstBad, hb] using h)
    | false => simpa [firstBad, hb] using h

/-- A failing check after checks that hold is the first that fails. -/
theorem firstBad_split {before after : List Chk} {c : Chk} (hb : before.all (·.ok) = true) (hc : c.ok = false) :
    firstBad (before ++ c :: after) = some c := by
  simp [firstBad_append_of_ok hb, firstBad, hc]

/-- Among checks made from keys, the failing one whose predecessors in the list hold is the first. -/
theorem firstBad_map_of_sorted {ks : List Nat} (hs : ks.Pairwise (· < ·)) (f : Nat → Chk) {k : Nat} (hk : k ∈ ks) (hf : (f k).ok = false)
    (hlt : ∀ j ∈ ks, j < k → (f j).ok = true) : firstBad (ks.map f) = some (f k) := by
  induction ks with
  | nil => cases hk
  | cons a ks ih =>
    obtain ⟨ha, hs⟩ := List.pairwise_cons.1 hs
    rcases List.mem_cons.1 hk with rfl | hk
    · simp [firstBad, hf]
    · have : (f a).ok = true := hlt a List.mem_cons_self (ha k hk)
      simpa [firstBad, this] using ih hs hk fun j hj => hlt j (List.mem_cons_of_mem a hj)

/-! ### What a pre-check makes of its checks -/

section PreCheck

variable {s : State} {r : RingId} {ms : List Member} {named : List (Nat × Nat)} {d : Slot} {op : Op}

/-- The snapshot on which the checks of a descriptor run. -/
def State.checkedSlot (s : State) (r : RingId) (op : Op) (ms : List Member) (d : Slot) : Slot :=
  (s.withSeen d).snapshot (s.ringHost r) op ms d

/-- The state on which they run: what the reads of the snapshot met stands as its poison. -/
def State.checkedState (s : State) (r : RingId) (op : Op) (ms : List Member) (d : Slot) : State :=
  { s.withSeen d with poison := (s.checkedSlot r op ms d).bad ++ (s.withSeen d).badIn [⟨0, 0, 0x400_0000⟩] }

/-- The checks of a descriptor with an assigned opcode. -/
def State.checksOf (s : State) (r : RingId) (op : Op) (ms : List Member) (named : List (Nat × Nat)) (d : Slot) : List Chk :=
  (s.checkedState r op ms d).allChecks r (s.ringHost r) op ms named (s.checkedSlot r op ms d)

/-- An unassigned opcode is refused before any check (R9). -/
theorem preCheckOne_unassigned (h : opOf d.bytes = none) :
    let y := (s.preCheckOne r ms named d).slot
    y.status = stBadOpcode ∧ y.detail = 0x1F00 ∧ y.phase = .checked := by
  simp [State.preCheckOne, h]

/-- Where every check holds, status and DETAIL are 0. -/
theorem preCheckOne_passed (hop : opOf d.bytes = some op) (h : firstBad (s.checksOf r op ms named d) = none) :
    let y := (s.preCheckOne r ms named d).slot
    y.status = 0 ∧ y.detail = 0 := by
  simp only [State.checksOf, State.checkedState, State.checkedSlot] at h
  simp [State.preCheckOne, hop, h, stDone]

/-- Otherwise they are those of the first check that fails. -/
theorem preCheckOne_failed (hop : opOf d.bytes = some op) {c : Chk} (h : firstBad (s.checksOf r op ms named d) = some c) :
    let y := (s.preCheckOne r ms named d).slot
    y.status = c.st ∧ y.detail = c.detailFor (some op) ∧ (c.st ≠ stDone → y.phase = .checked) ∧
      (c.st = stSealedUnavailable → y.dur = 0) := by
  simp only [State.checksOf, State.checkedState, State.checkedSlot] at h
  simp +contextual [State.preCheckOne, hop, h]

end PreCheck

@[simp] theorem State.checkedSlot_bytes (s : State) (r : RingId) (op : Op) (ms : List Member) (d : Slot) :
    (s.checkedSlot r op ms d).bytes = d.bytes := by
  unfold State.checkedSlot State.snapshot State.readTables
  cases d.snapped <;> by_cases h : op = .ksip <;> simp [h]

/-- DETAIL of a check of a stage: that of the check, or 0xFFFF for a TILEPROG. -/
theorem Chk.detailFor_stage {c : Chk} (op : Op) (hst : c.st ≠ stSourceCorrupt) (hd : 4096 ≤ c.detail) :
    c.detailFor (some op) = BitVec.ofNat 16 (if op = .tileprog then 0xFFFF else c.detail) := by
  simp [Chk.detailFor, hst, hd]

theorem Chk.detailFor_of_ne (c : Chk) {op : Op} (h : op ≠ .tileprog) : c.detailFor (some op) = BitVec.ofNat 16 c.detail := by
  simp [Chk.detailFor, h]

theorem opOf_eq_none_iff (b : List Byte) : opOf b = none ↔ byteAt b 0 ∉ opTable.map (·.1) := by
  simp only [opOf, dOpcode, Option.map_eq_none_iff, List.find?_eq_none, List.mem_map, beq_iff_eq]
  exact ⟨fun h ⟨e, he, hb⟩ => h e he hb, fun h e he hb => h ⟨e, he, hb⟩⟩

theorem State.sealedServed_iff (s : State) : s.sealedServed = true ↔ s.part.variant.sealed = true ∧ s.ctl.sealen = true ∧
    (s.part.lc = .seasoned ∨ s.part.lc = .service) ∧ s.ctl.stage = .banked ∧ s.emb.keysOk = true := by
  simp only [State.sealedServed, State.sealOk, Bool.and_eq_true, Bool.or_eq_true, beq_iff_eq]
  constructor
  · rintro ⟨⟨⟨⟨hen, hvar⟩, hlc⟩, hstage⟩, hkeys⟩
    exact ⟨hvar, hen, hlc, hstage, hkeys⟩
  · rintro ⟨hvar, hen, hlc, hstage, hkeys⟩
    exact ⟨⟨⟨⟨hen, hvar⟩, hlc⟩, hstage⟩, hkeys⟩

/-- Stage 1 rests on the part, the control registers and Ember alone. -/
theorem stage1_checkedState (s : State) (r : RingId) (op : Op) (ms : List Member) (d : Slot) (o : Op) (b : List Byte) :
    stage1 (s.checkedState r op ms d) o b = stage1 s o b := rfl

/-! ### Refusals by a named check -/

section Refusals

variable {s : State} {r : RingId} {ms : List Member} {named : List (Nat × Nat)} {d : Slot} {op : Op}

/-- The status, DETAIL and phase of a descriptor whose first failing check is one of a stage. -/
theorem preCheckOne_refused (hop : opOf d.bytes = some op) {stage item : Nat} {b : Bool} {st : W16}
    (h : firstBad (s.checksOf r op ms named d) = some (chk stage item 0 b false st)) (hstage : 1 ≤ stage) (hdone : st ≠ stDone)
    (hclean : st ≠ stSourceCorrupt) :
    let y := (s.preCheckOne r ms named d).slot
    y.status = st ∧ y.detail = BitVec.ofNat 16 (if op = .tileprog then 0xFFFF else 4096 * stage + 256 * item) ∧ y.phase = .checked := by
  obtain ⟨hst, hdetail, hphase, -⟩ := preCheckOne_failed hop h
  have hd : 4096 ≤ (chk stage item 0 b false st).detail := by simp only [chk]; omega
  exact ⟨hst, hdetail.trans (Chk.detailFor_stage op hclean hd), hphase hdone⟩

/-- The checks begin with those of the header and of the fallback scheduler. -/
theorem checksOf_header : ∃ rest, s.checksOf r op ms named d = stage1 s op d.bytes ++ (s.fallbackChecks r op d.bytes ++ rest) := by
  unfold State.checksOf State.allChecks State.headChecks
  simp only [State.checkedSlot_bytes, stage1_checkedState, List.append_assoc]
  exact ⟨_, rfl⟩

/-- A header check that fails first is the first of all. -/
theorem firstBad_checksOf_of_stage1 {c : Chk} (h : firstBad (stage1 s op d.bytes) = some c) :
    firstBad (s.checksOf r op ms named d) = some c := by
  obtain ⟨rest, hcs⟩ := checksOf_header (s := s) (r := r) (op := op) (ms := ms) (named := named) (d := d)
  rw [hcs, firstBad_append_of_some h]

/-- So is one of the fallback scheduler under a header that holds (R310). -/
theorem firstBad_checksOf_of_fallback {c : Chk} (h1 : (stage1 s op d.bytes).all (·.ok) = true)
    (h : firstBad (s.fallbackChecks r op d.bytes) = some c) : firstBad (s.checksOf r op ms named d) = some c := by
  obtain ⟨rest, hcs⟩ := checksOf_header (s := s) (r := r) (op := op) (ms := ms) (named := named) (d := d)
  rw [hcs, firstBad_append_of_ok h1, firstBad_append_of_some h]

/-- The checks that precede those of the cipher cards. -/
def State.beforeCards (s : State) (r : RingId) (op : Op) (ms : List Member) (named : List (Nat × Nat)) (x : Slot) : List Chk :=
  stage1 s op x.bytes ++ s.fallbackChecks r op x.bytes ++ stage2 op x.bytes ms (inChain ms x.bytes) ++ s.poolRule op ms named x

/-- A check of stage 3 that fails first, where those before it hold, is the first of all. -/
theorem firstBad_checksOf_of_stage3 {c : Chk}
    (h : ((s.checkedState r op ms d).beforeCards r op ms named (s.checkedSlot r op ms d)).all (·.ok) = true)
    (h3 : ∀ passed, firstBad ((s.checkedState r op ms d).stage3 (s.ringHost r) op (s.checkedSlot r op ms d) passed) = some c) :
    firstBad (s.checksOf r op ms named d) = some c := by
  unfold State.checksOf State.allChecks State.headChecks
  simp only [List.append_assoc]
  simp only [State.beforeCards, List.append_assoc] at h
  rw [← List.append_assoc, ← List.append_assoc, ← List.append_assoc, firstBad_append_of_ok (by simpa only [List.append_assoc] using h),
    firstBad_append_of_some (h3 _)]

/-! ### Stage 1 -/

theorem firstBad_stage1_unserved {b : List Byte} (h : (dSealed b || op == .flood) = true) (hs : s.sealedServed = false) :
    firstBad (stage1 s op b) = some (chk 1 15 0 true false stSealedUnavailable) := by
  simp [stage1, firstBad, chk, h, hs]

theorem firstBad_stage1_sealedSync {b : List Byte} (hs : s.sealedServed = true) (hb : dSealed b = true) (hop : op = .fence ∨ op = .signal) :
    firstBad (stage1 s op b) = some (chk 1 15 0 true false stBadOpcode) := by
  rcases hop with rfl | rfl <;> simp [stage1, firstBad, chk, hs, hb]

theorem firstBad_stage1_stage {b : List Byte} (h1 : (!(dSealed b || op == .flood) || s.sealedServed) = true)
    (h2 : (dSealed b && (op == .fence || op == .signal)) = false) (h3 : servedInStage s op = false) :
    firstBad (stage1 s op b) = some (chk 1 15 0 true false stBadOpcode) := by
  simp only [stage1, h1, h2, h3]
  rfl

/-! ### The fallback scheduler -/

theorem firstBad_fallbackChecks_link {b : List Byte} (hf : s.isFallback r = true) (hl : dLink b = true) :
    firstBad (s.fallbackChecks r op b) = some (chk 2 15 0 true false stShapeFault) := by
  simp [State.fallbackChecks, hf, firstBad, chk, hl]

theorem opSlots_sorted (op : Op) : (opSlots op).Pairwise (· < ·) := by
  cases op <;> decide

theorem firstBad_fallbackChecks_res {b : List Byte} (hf : s.isFallback r = true) (hl : dLink b = false) {k : Nat} (hk : k ∈ opSlots op)
    (hres : (slotPtr b k).res = true) (hlt : ∀ j ∈ opSlots op, j < k → (slotPtr b j).res = false) :
    firstBad (s.fallbackChecks r op b) = some (chk 2 k 0 true false stShapeFault) := by
  have h := firstBad_map_of_sorted (opSlots_sorted op) (fun k => chk 2 k 0 true (!(slotPtr b k).res) stShapeFault) hk
    (by simp [chk, hres]) fun j hj hjk => by simp [chk, hlt j hj hjk]
  simpa [State.fallbackChecks, hf, firstBad, chk, hl, hres] using h

/-! ### The source cipher card -/

/-- The fields of a cipher card are in range (R43). -/
def CipherCard.fieldsOk (cc : CipherCard) : Bool :=
  cc.valid && !cc.poison && decide (10 ≤ cc.log2n) && decide (cc.log2n ≤ 18) && decide (cc.level ≤ 63) && decide (1 ≤ cc.limbs) &&
    decide (cc.limbs ≤ 64) && decide (cc.npoly ≤ 1) && !cc.rsv

/-- The scheme of a cipher card is one of the four. -/
def CipherCard.schemeOk (cc : CipherCard) : Bool := decide (1 ≤ cc.scheme) && decide (cc.scheme ≤ 4)

/-- The limbs of a cipher card are those of its scheme and level. -/
def CipherCard.limbsOk (cc : CipherCard) : Bool := if cc.scheme = 4 then cc.limbs == 1 else cc.limbs == cc.level + 1

/-- The three checks of R43, in their order. -/
def CipherCard.checks (cc : CipherCard) : List Chk :=
  [chk 3 6 0 true cc.fieldsOk stShapeFault, chk 3 6 0 true cc.schemeOk stBadType, chk 3 6 0 true cc.limbsOk stChainMismatch]

theorem CipherCard.fieldsOk_iff (cc : CipherCard) : cc.fieldsOk = true ↔
    cc.valid = true ∧ cc.poison = false ∧ 10 ≤ cc.log2n ∧ cc.log2n ≤ 18 ∧ cc.level ≤ 63 ∧ 1 ≤ cc.limbs ∧ cc.limbs ≤ 64 ∧ cc.npoly ≤ 1 ∧
      cc.rsv = false := by
  simp [CipherCard.fieldsOk, and_assoc]

theorem CipherCard.schemeOk_iff (cc : CipherCard) :
    cc.schemeOk = true ↔ cc.scheme = 1 ∨ cc.scheme = 2 ∨ cc.scheme = 3 ∨ cc.scheme = 4 := by
  simp only [CipherCard.schemeOk, Bool.and_eq_true, decide_eq_true_eq]
  omega

theorem CipherCard.limbsOk_eq_false {cc : CipherCard} (h : if cc.scheme = 4 then cc.limbs ≠ 1 else cc.limbs ≠ cc.level + 1) :
    cc.limbsOk = false := by
  unfold CipherCard.limbsOk
  split at h <;> simp_all

theorem firstBad_cardChecks_fields {cc : CipherCard} (h : ¬ cc.fieldsOk = true) :
    firstBad cc.checks = some (chk 3 6 0 true false stShapeFault) := by
  simp [CipherCard.checks, firstBad, chk, h]

theorem firstBad_cardChecks_scheme {cc : CipherCard} (h : cc.fieldsOk = true) (h' : ¬ cc.schemeOk = true) :
    firstBad cc.checks = some (chk 3 6 0 true false stBadType) := by
  simp [CipherCard.checks, firstBad, chk, h, h']

theorem firstBad_cardChecks_limbs {cc : CipherCard} (h : cc.fieldsOk = true) (h' : cc.schemeOk = true) (h'' : cc.limbsOk = false) :
    firstBad cc.checks = some (chk 3 6 0 true false stChainMismatch) := by
  simp [CipherCard.checks, firstBad, chk, h, h', h'']

/-- Of a card that may be read and is not poisoned, the first check that fails is the first of R43's. -/
theorem firstBad_stage3_of_card {h : HF} {x : Slot} {cc : CipherCard} {passed : Bool} {c : Chk} (hx : x.scard = some cc)
    (hcard : s.cardOk h (scardPtr x.bytes) = true) (hclean : s.poisoned (scardPtr x.bytes).stack (scardPtr x.bytes).addr 64 = false)
    (hc : firstBad cc.checks = some c) : firstBad (s.stage3 h op x passed) = some c := by
  have hsplit : ∃ rest, s.stage3 h op x passed =
      [chk 3 6 0 true true stProtFault, clean 6 true false] ++ (cc.checks ++ rest) := by
    unfold State.stage3
    simp only [hx, hcard, hclean, Bool.and_false, List.append_assoc]
    exact ⟨_, rfl⟩
  obtain ⟨rest, hrest⟩ := hsplit
  rw [hrest, firstBad_append_of_ok (by rfl), firstBad_append_of_some hc]

end Refusals

/-! ### The order of the stages -/

/-- The DETAIL of a check lies in a stage; that of a read that returned poison names its item under 0xA000 instead (R269). -/
def Chk.FitsStage (n : Nat) (c : Chk) : Prop :=
  if c.st = stSourceCorrupt then 0xA000 ≤ c.detail ∧ c.detail < 0xA00A else c.detail / 4096 = n

/-- Every check of a list lies in a stage. -/
def AllFit (n : Nat) (cs : List Chk) : Prop := ∀ c ∈ cs, c.FitsStage n

section AllFit

variable {α : Type} {n : Nat}

@[simp] theorem allFit_nil : AllFit n [] := List.forall_mem_nil _

@[simp] theorem allFit_cons (c : Chk) (cs : List Chk) : AllFit n (c :: cs) ↔ c.FitsStage n ∧ AllFit n cs := List.forall_mem_cons

@[simp] theorem allFit_append (cs ds : List Chk) : AllFit n (cs ++ ds) ↔ AllFit n cs ∧ AllFit n ds := List.forall_mem_append

@[simp] theorem allFit_map (f : α → Chk) (l : List α) : AllFit n (l.map f) ↔ ∀ a ∈ l, (f a).FitsStage n := List.forall_mem_map

@[simp] theorem allFit_flatMap (f : α → List Chk) (l : List α) : AllFit n (l.flatMap f) ↔ ∀ a ∈ l, AllFit n (f a) := List.forall_mem_flatMap

end AllFit

theorem opSlots_le (op : Op) : ∀ k ∈ opSlots op, k ≤ 5 := by
  cases op <;> decide

/-- The operands of a snapshot that a pre-check has just read stand in the opcode's slots. -/
theorem checkedSlot_slots {s : State} {r : RingId} {op : Op} {ms : List Member} {d : Slot} (h : d.snapped = false) :
    ∀ o ∈ (s.checkedSlot r op ms d).ops, o.slot ≤ 5 := by
  intro o ho
  have hread : ∀ t : State, (t.readTables op ms d).ops =
      ((opSlots op).filter fun k => (slotPtr d.bytes k).valid).map fun k => { t.snapOp d.bytes k with chain := d.chain } := by
    intro t
    unfold State.readTables
    by_cases e : op = .ksip <;> simp [e]
  simp only [State.checkedSlot, State.snapshot, h, hread, Bool.false_eq_true, if_false, List.map_map, List.mem_map, List.mem_filter] at ho
  obtain ⟨k, ⟨hk, -⟩, rfl⟩ := ho
  exact opSlots_le op _ hk

section Stages

@[simp] theorem chk_fits {stage item step : Nat} {b ok : Bool} {st : W16} (hst : st ≠ stSourceCorrupt) (hi : item < 16) (hs : step < 256) :
    (chk stage item step b ok st).FitsStage stage := by
  simp only [Chk.FitsStage, chk, hst, if_false]
  omega

@[simp] theorem clean_fits {n item : Nat} {b bad : Bool} (hi : item < 10) : (clean item b bad).FitsStage n := by
  simp only [Chk.FitsStage, clean, if_true]
  omega

variable (s : State) (r : RingId) (h : HF) (op : Op) (x : Slot)

theorem stage1_fits (b : List Byte) : AllFit 1 (stage1 s op b) := by
  unfold stage1
  have hslots : ∀ k ∈ List.range 6, (chk 1 k 0 true (slotOk op b k) stShapeFault).FitsStage 1 := fun k hk =>
    chk_fits (by decide) (by have := List.mem_range.1 hk; omega) (by decide)
  simpa (disch := decide) using hslots

theorem slot_fits {n k : Nat} (hk : k ∈ opSlots op) (b : Bool) : (chk n k 0 true b stShapeFault).FitsStage n :=
  chk_fits (by decide) (by have := opSlots_le op _ hk; omega) (by decide)

theorem fallbackChecks_fits (b : List Byte) : AllFit 2 (s.fallbackChecks r op b) := by
  unfold State.fallbackChecks
  split
  · simpa (disch := decide) using fun k hk => slot_fits op hk _
  · exact allFit_nil

theorem stage2_fits (b : List Byte) (ms : List Member) (chain : Bool) : AllFit 2 (stage2 op b ms chain) := by
  unfold stage2
  simpa (disch := decide) using fun k hk => slot_fits op hk _

theorem poolRule_fits (ms : List Member) (named : List (Nat × Nat)) : AllFit 2 (s.poolRule op ms named x) := by
  unfold State.poolRule
  split <;> simp (disch := decide)

theorem stage3_fits (passed : Bool) : AllFit 3 (s.stage3 h op x passed) := by
  unfold State.stage3
  simp only [allFit_append]
  refine ⟨⟨?_, ?_⟩, ?_⟩
  · split
    · exact allFit_nil
    · simp (disch := decide)
  · split <;> simp (disch := decide)
  · split <;> simp (disch := decide)

theorem stage4_fits (hx : ∀ o ∈ x.ops, o.slot ≤ 5) : AllFit 4 (s.stage4 r h op x) := by
  unfold State.stage4
  simp only [allFit_append, allFit_flatMap]
  refine ⟨fun o ho => ?_, ?_⟩
  · have hi : o.slot < 10 := by have := hx o ho; omega
    have hj : o.slot < 16 := by omega
    have hchk {step : Nat} {b ok : Bool} {st : W16} (hst : st ≠ stSourceCorrupt) (hs : step < 256) :
        (chk 4 o.slot step b ok st).FitsStage 4 := chk_fits hst hj hs
    have hclean {b bad : Bool} : (clean o.slot b bad).FitsStage 4 := clean_fits hi
    unfold State.stage4op
    simp (disch := decide) [hchk, hclean]
  · split
    · split <;> simp (disch := decide)
    · exact allFit_nil

/-- One outcome for each operand: the items are its slots. -/
theorem operand_items (hx : ∀ o ∈ x.ops, o.slot ≤ 5) (f : OpSnap → Bool) : ∀ e ∈ x.ops.map fun o => (f o, o.slot), e.2 < 16 := by
  intro e he
  obtain ⟨o, ho, rfl⟩ := List.mem_map.1 he
  have := hx o ho
  show o.slot < 16
  omega

theorem types5_items (hx : ∀ o ∈ x.ops, o.slot ≤ 5) : ∀ e ∈ State.types5 op x, e.2 < 16 := by
  cases op
  case baseconv | ksip | digits | rescale => exact operand_items x hx _
  case bitrev | relayout =>
    simp only [State.types5]
    split <;> simp
  all_goals simp [State.types5]

theorem shapes5_items (hx : ∀ o ∈ x.ops, o.slot ≤ 5) : ∀ e ∈ s.shapes5 op x, e.2 < 16 := by
  cases op
  case tileprog => exact operand_items x hx _
  case rescale => exact List.forall_mem_cons.2 ⟨show 6 < 16 by decide, operand_items x hx _⟩
  case relayout | bitrev | convert | baseconv =>
    simp only [State.shapes5]
    split <;> simp
  all_goals simp [State.shapes5]

theorem stage5_fits (hx : ∀ o ∈ x.ops, o.slot ≤ 5) : AllFit 5 (s.stage5 op x) := by
  unfold State.stage5
  simp only [allFit_append, allFit_map]
  exact ⟨⟨fun e he => chk_fits (by decide) (types5_items op x hx e he) (by decide),
    fun e he => chk_fits (by decide) (shapes5_items s op x hx e he) (by decide)⟩, by simp (disch := decide)⟩

theorem stage6_fits (hop : op ≠ .tileprog) : AllFit 6 (s.stage6 h op x) := by
  unfold State.stage6
  simp only [beq_iff_eq, hop, if_false]
  split <;> simp (disch := decide)

theorem tableChecks_fits : AllFit 7 (s.tableChecks h op x) := by
  unfold State.tableChecks
  simp (disch := decide)

theorem keyChecks_fits : AllFit 7 (s.keyChecks h x) := by
  unfold State.keyChecks
  simp (disch := decide)

theorem patternChecks_fits : AllFit 7 (s.patternChecks h x) := by
  unfold State.patternChecks
  simp (disch := decide)

theorem stage7_fits (hop : op ≠ .tileprog) : AllFit 7 (s.stage7 h op x) := by
  cases op
  case tileprog => exact absurd rfl hop
  case digits | baseconv | rescale => exact tableChecks_fits s h _ x
  case ksip => exact keyChecks_fits s h x
  case pattern => exact patternChecks_fits s h x
  all_goals simp [State.stage7]

theorem stage8_fits : AllFit 8 (s.stage8 op x) := by
  unfold State.stage8
  split
  · exact allFit_nil
  · dsimp only
    split <;> simp (disch := decide)

theorem destRanges_items (hx : ∀ o ∈ x.ops, o.slot ≤ 5) : ∀ e ∈ x.destRanges, e.1 < 16 := by
  unfold Slot.destRanges
  simp only [List.forall_mem_append, List.forall_mem_flatMap, List.forall_mem_map, List.mem_filter]
  refine ⟨fun o ho g _ => ?_, ?_⟩
  · have := hx o ho.1
    omega
  · split <;> simp

theorem stage10_fits (ms : List Member) (hx : ∀ o ∈ x.ops, o.slot ≤ 5) : AllFit 10 (State.stage10 op ms x) := by
  unfold State.stage10
  simp only [allFit_append, allFit_map]
  have hitem := destRanges_items x hx
  exact ⟨fun e he => chk_fits (by decide) (hitem e.1 (List.fst_mem_of_mem_zipIdx he)) (by split <;> omega),
    fun e he => chk_fits (by decide) (hitem e he) (by decide)⟩

end Stages

/-- Checks of stages in rising order: the stages that the DETAILs of those that are no read name rise too. -/
theorem stages_sorted (l : List (Nat × List Chk)) (hs : (l.map (·.1)).Pairwise (· ≤ ·)) (hf : ∀ e ∈ l, AllFit e.1 e.2) :
    (((l.flatMap (·.2)).filter fun c => c.st != stSourceCorrupt).map fun c => c.detail / 4096).Pairwise (· ≤ ·) := by
  have fits : ∀ e ∈ l, ∀ c ∈ e.2, c.st ≠ stSourceCorrupt → c.detail / 4096 = e.1 := by
    intro e he c hc hst
    simpa [Chk.FitsStage, hst] using hf e he c hc
  simp only [List.pairwise_map, List.pairwise_filter, bne_iff_ne, List.pairwise_flatMap] at hs ⊢
  refine ⟨fun e he => List.pairwise_of_forall_mem_list ?_, hs.imp_of_mem ?_⟩
  · intro c hc c' hc' h h'
    exact Nat.le_of_eq ((fits e he c hc h).trans (fits e he c' hc' h').symm)
  · intro e e' he he' hle c hc c' hc' h h'
    rw [fits e he c hc h, fits e' he' c' hc' h']
    exact hle

section Staged

variable (s : State) (r : RingId) (h : HF) (op : Op) (ms : List Member) (named : List (Nat × Nat)) (x : Slot)

/-- The checks of a Sealed descriptor's resources (stage 9). -/
def State.stage9 : List Chk :=
  if dSealed x.bytes then
    [chk 9 15 0 true (decide (s.chainPools op ms named x ≤ 6)) stShapeFault,
     chk 9 15 0 true (decide (s.publishedDur x (s.planOf op x) ≤ 2 ^ 31)) stShapeFault,
     chk 9 15 0 false (decide (s.translationsOf (s.pagesNeeded r h op x) ≤ 128)) stXlateFault]
  else []

/-- The checks of a descriptor, each list under its stage of Table 11-5. -/
def State.stagedChecks : List (Nat × List Chk) :=
  [(1, stage1 s op x.bytes), (2, s.fallbackChecks r op x.bytes), (2, stage2 op x.bytes ms (inChain ms x.bytes)),
    (2, s.poolRule op ms named x),
    (3, s.stage3 h op x ((ms.filterMap (·.card)).any fun c => c.1 == (scardPtr x.bytes).stack && c.2.1 == (scardPtr x.bytes).addr)),
    (4, s.stage4 r h op x), (5, s.stage5 op x), (6, s.stage6 h op x), (7, s.stage7 h op x), (8, s.stage8 op x),
    (9, s.stage9 r h op ms named x), (10, State.stage10 op ms x)]

theorem allChecks_eq_staged : s.allChecks r h op ms named x = (s.stagedChecks r h op ms named x).flatMap (·.2) := by
  simp only [State.allChecks, State.headChecks, State.stagedChecks, State.stage9, List.flatMap_cons, List.flatMap_nil, List.append_assoc,
    List.append_nil]

theorem stage9_fits : AllFit 9 (s.stage9 r h op ms named x) := by
  unfold State.stage9
  split <;> simp (disch := decide)

theorem stagedChecks_fit (hop : op ≠ .tileprog) (hx : ∀ o ∈ x.ops, o.slot ≤ 5) :
    ∀ e ∈ s.stagedChecks r h op ms named x, AllFit e.1 e.2 := by
  simp only [State.stagedChecks, List.forall_mem_cons, List.not_mem_nil, false_implies, implies_true, and_true]
  exact ⟨stage1_fits s op _, fallbackChecks_fits s r op _, stage2_fits op _ _ _, poolRule_fits s op x _ _, stage3_fits s h op x _,
    stage4_fits s r h op x hx, stage5_fits s op x hx, stage6_fits s h op x hop, stage7_fits s h op x hop, stage8_fits s op x,
    stage9_fits s r h op ms named x, stage10_fits op x ms hx⟩

/-- Stages come in their order, but for reads that returned poison, whose DETAIL is 0xA000 plus the item (R268, R269). -/
theorem allChecks_sorted (hop : op ≠ .tileprog) (hx : ∀ o ∈ x.ops, o.slot ≤ 5) :
    (((s.allChecks r h op ms named x).filter fun c => c.st != stSourceCorrupt).map fun c => c.detail / 4096).Pairwise (· ≤ ·) := by
  rw [allChecks_eq_staged]
  exact stages_sorted _ (show [1, 2, 2, 2, 3, 4, 5, 6, 7, 8, 9, 10].Pairwise (· ≤ ·) by decide) (stagedChecks_fit s r h op ms named x hop hx)

theorem allChecks_clean (hop : op ≠ .tileprog) (hx : ∀ o ∈ x.ops, o.slot ≤ 5) :
    ∀ c ∈ s.allChecks r h op ms named x, c.st = stSourceCorrupt → 0xA000 ≤ c.detail ∧ c.detail < 0xA00A := by
  intro c hc hst
  rw [allChecks_eq_staged] at hc
  obtain ⟨e, he, hce⟩ := List.mem_flatMap.1 hc
  simpa [Chk.FitsStage, hst] using stagedChecks_fit s r h op ms named x hop hx e he c hce

/-- Within stage 5 the types come before the shapes, and these before the moduli. -/
theorem stage5_sorted :
    ((s.stage5 op x).map fun c => if c.st = 0x0107 then 0 else if c.st = 0x0101 then 1 else 2).Pairwise (· ≤ ·) := by
  have hmap : ((s.stage5 op x).map fun c => if c.st = 0x0107 then 0 else if c.st = 0x0101 then 1 else 2) =
      List.replicate (State.types5 op x).length 0 ++ List.replicate (s.shapes5 op x).length 1 ++ [1, 2] := by
    simp [State.stage5, chk, stBadType, stShapeFault, stBadModulus, Function.comp_def, List.map_const']
  rw [hmap]
  simp [List.pairwise_append, List.pairwise_replicate]

end Staged

/-- Settles O7, by the first check of the list that fails, stage by stage. -/
theorem preCheckFindsFirstFailure : Obligations.PreCheckFindsFirstFailure := by
  intro s r ms named d y refused asksSealed
  refine ⟨opOf_eq_none_iff d.bytes, fun h => preCheckOne_unassigned h, s.sealedServed_iff, ?_⟩
  intro op hop header u x v cs classed
  -- the obligation's `refused`, for a check of a stage that fails first
  have refuse {stage item : Nat} {b : Bool} (st : W16) (h : firstBad cs = some (chk stage item 0 b false st)) (hs : 1 ≤ stage := by decide)
      (hd : st ≠ stDone := by decide) (hc : st ≠ stSourceCorrupt := by decide) :
      refused st (if op = .tileprog then 0xFFFF else 4096 * stage + 256 * item) := preCheckOne_refused hop h hs hd hc
  refine ⟨?unserved, ?sealedSync, ?stage, ?fallback, ?card, ?passed, ?first, ?stages, stage5_sorted v op x⟩
  case unserved =>
    intro hask hserved
    have h : firstBad cs = some _ := firstBad_checksOf_of_stage1 (firstBad_stage1_unserved (by simpa using hask) hserved)
    obtain ⟨-, -, -, hdur⟩ := preCheckOne_failed hop h
    exact ⟨refuse _ h, hdur rfl⟩
  case sealedSync =>
    intro hsealed hsync hserved
    exact refuse _ (firstBad_checksOf_of_stage1 (firstBad_stage1_sealedSync hserved hsealed hsync))
  case stage =>
    rintro ⟨hserved, hsync⟩ hstage hop'
    refine refuse _ (firstBad_checksOf_of_stage1 (firstBad_stage1_stage ?_ ?_ ?_))
    · by_cases hask : asksSealed op
      · simp [hserved hask]
      · have : dSealed d.bytes = false ∧ op ≠ .flood := by simpa [asksSealed] using hask
        simp [this]
    · simpa using hsync
    · simpa [servedInStage, hstage, and_assoc] using hop'
  case fallback =>
    intro h1 hf htile
    refine ⟨fun hlink => ?_, fun k hlink hk hres hlt => ?_⟩
    · have h := refuse _ (firstBad_checksOf_of_fallback h1 (firstBad_fallbackChecks_link hf hlink))
      rwa [if_neg htile] at h
    · have h := refuse _ (firstBad_checksOf_of_fallback h1 (firstBad_fallbackChecks_res hf hlink hk hres hlt))
      rwa [if_neg htile] at h
  case card =>
    intro cc hcc htile hbefore hcard hclean fields scheme
    have refuseCard (st : W16) (h : firstBad cc.checks = some (chk 3 6 0 true false st)) (hd : st ≠ stDone := by decide)
        (hc : st ≠ stSourceCorrupt := by decide) : refused st 0x3600 := by
      have := refuse st (firstBad_checksOf_of_stage3 hbefore fun _ => firstBad_stage3_of_card hcc hcard hclean h) (by decide) hd hc
      rwa [if_neg htile] at this
    have hfields : cc.fieldsOk = true ↔ fields := cc.fieldsOk_iff
    have hscheme : cc.schemeOk = true ↔ scheme := cc.schemeOk_iff
    rw [← hfields, ← hscheme]
    exact ⟨fun h => refuseCard _ (firstBad_cardChecks_fields h), fun h h' => refuseCard _ (firstBad_cardChecks_scheme h h'),
      fun h h' h'' => refuseCard _ (firstBad_cardChecks_limbs h h' (CipherCard.limbsOk_eq_false h''))⟩
  case passed => exact fun h => preCheckOne_passed hop (firstBad_eq_none_of_ok h)
  case first =>
    intro before after c hcs hb hc
    obtain ⟨hst, hdetail, -⟩ := preCheckOne_failed (c := c) hop (show firstBad cs = some c by rw [hcs]; exact firstBad_split hb hc)
    exact ⟨hst, fun htile => hdetail.trans (c.detailFor_of_ne htile)⟩
  case stages =>
    intro hsnap htile
    have hx := checkedSlot_slots (s := s) (r := r) (op := op) (ms := ms) hsnap
    exact ⟨allChecks_sorted v r (s.ringHost r) op ms named x htile hx, allChecks_clean v r (s.ringHost r) op ms named x htile hx⟩

end Sys2Proof.Machine
end

section
/-! Proofs about the registers (R350 to R357): what a denied access does to a component, GEVT and the vectors, the writes of a host
function's page and of PTU_GCTL, and O46. -/

namespace Sys2Proof.Machine

open Sys2Proof.Safety

/-! ### Component faults -/

/-- Component k does not run, for a fault of a cause (R303). -/
def State.Faulted (s : State) (k : Comp) (cause : Nat) : Prop := (s.component k).st ≠ .running ∧ (s.component k).cause = cause

theorem Firmware.send_comps (fw : Firmware) (k : Nat) (m : List Byte) : (fw.send k m).comps = fw.comps := by
  unfold Firmware.send
  dsimp only
  split <;> rfl

theorem State.putEntry_fw (s : State) (bs : List Byte) : (s.putEntry bs).fw = s.fw := by
  obtain ⟨_, _, _, h⟩ := s.putEntry_changes bs
  rw [h]

@[simp] theorem State.logEntryOn_comps (s : State) (core : Nat) (c : Comp) (tp sev : Nat) (h : Option HF) (a b : Nat) :
    (s.logEntryOn core c tp sev h a b).fw.comps = s.fw.comps := by
  unfold State.logEntryOn
  split
  · rfl
  · dsimp only
    split
    · rw [State.putEntry_fw]
    · exact Firmware.send_comps _ _ _

/-- What a takeover changes leaves the components. -/
@[simp] theorem State.takeOver_comps (s : State) (k : Comp) : (s.takeOver k).fw.comps = s.fw.comps := by
  unfold State.takeOver
  split
  · rfl
  · split
    · rfl
    · exact State.logEntryOn_comps _ _ _ _ _ _ _ _

@[simp] theorem State.adminStops_comps (s : State) : s.adminStops.fw.comps = s.fw.comps := by
  unfold State.adminStops
  split <;> rfl

@[simp] theorem State.loseTest_comps (s : State) (core : Nat) : (s.loseTest core).fw.comps = s.fw.comps := by
  unfold State.loseTest State.dropTest
  split
  · split
    · dsimp only
      split <;> rfl
    · rfl
  · rfl

theorem State.component_of_comps {s t : State} (h : t.fw.comps = s.fw.comps) (k : Comp) : t.component k = s.component k := by
  unfold State.component
  rw [h]

@[simp] theorem State.component_updComponent (s : State) (k j : Comp) (f : Component → Component) :
    (s.updComponent k f).component j = if j.key = k.key then f (s.component k) else s.component j := by
  simp only [State.component, State.updComponent]
  by_cases e : j.key = k.key
  · simp [e]
  · rw [if_neg e, tget_tupd_ne _ _ _ e]

/-- A restart changes the state and the cause of its component alone among the components. -/
theorem State.component_restart (s : State) (k j : Comp) (cause : Nat) : (s.restart k cause).component j =
    (s.updComponent k fun c => { c with st := if c.st = .stopped then .stopped else .restarting, cause := cause }).component j := by
  refine State.component_of_comps ?_ j
  unfold State.restart
  rw [State.takeOver_comps]
  split
  · exact State.adminStops_comps _
  · rfl

/-- A component that begins to restart does not run, and another keeps its fault. -/
theorem State.faulted_restart (s : State) (k j : Comp) (cause : Nat) (h : j = k ∨ s.Faulted j cause) :
    (s.restart k cause).Faulted j cause := by
  unfold State.Faulted
  rw [State.component_restart, State.component_updComponent]
  split
  case isTrue => exact ⟨by dsimp only; split <;> simp, rfl⟩
  case isFalse hkey => exact h.resolve_left fun e => hkey (congrArg Comp.key e)

/-- The components of a list restart, one after another. -/
theorem State.faulted_restarts (cause : Nat) (j : Comp) (ks : List Comp) : ∀ s : State, (j ∈ ks ∨ s.Faulted j cause) →
    (ks.foldl (fun s k => s.restart k cause) s).Faulted j cause := by
  induction ks with
  | nil => exact fun s h => h.resolve_left List.not_mem_nil
  | cons k ks ih =>
    intro s h
    refine ih _ ?_
    rcases h with h | h
    · exact (List.mem_cons.1 h).elim (fun e => .inr (s.faulted_restart k j cause (.inl e))) .inl
    · exact .inr (s.faulted_restart k j cause (.inr h))

/-- A warm reset of its core faults a component, while firmware runs (R303). -/
theorem State.faulted_warmReset (s : State) (k : Comp) (cause : Nat) (hup : s.firmwareUp = true) (hk : k ∈ compsOf k.core) :
    (s.warmReset k.core cause).Faulted k cause := by
  have hup' (f : Core → Core) : ((s.useFree 1).updCore k.core f).firmwareUp = true := hup
  unfold State.warmReset
  simp only [hup', if_true]
  have h := State.faulted_restarts cause k (compsOf k.core) (((s.useFree 1).updCore k.core fun c =>
    { c with pc := (Config.freeWord s.clk.free).setWidth 32, part := Comp.kernel.code, missed := 0 }).logEntryOn
      (partner k.core) .kernel 0x1002 3 none k.core cause) (.inl hk)
  unfold State.Faulted at h ⊢
  rwa [State.component_of_comps (State.loseTest_comps _ _)]

theorem State.faulted_stopComp (s : State) (k : Comp) (cause : Nat) (h : s.Faulted k cause) : (s.stopComp k).Faulted k cause := by
  have hcomps : (s.stopComp k).fw.comps = (s.updComponent k fun c => { c with st := .stopped }).fw.comps := by
    rw [State.stopComp, State.emit_fw, State.logEntryOn_comps]
  unfold State.Faulted
  rw [State.component_of_comps hcomps, State.component_updComponent, if_pos rfl]
  exact ⟨CompState.noConfusion, h.2⟩

theorem mem_compsOf {k : Comp} (h1 : k ≠ .kernel) (h2 : k ≠ .boot) : k ∈ compsOf k.core := by
  revert h1 h2
  cases k <;> decide

/-- A fault of a component stops it, restarts it, or resets its core (R303, R305). -/
theorem State.faulted_compFault (s : State) (k : Comp) (cause : Nat) (hup : s.firmwareUp = true) (hk : k ∈ compsOf k.core) :
    (s.compFault k cause).Faulted k cause := by
  unfold State.compFault
  dsimp only
  split
  · exact State.faulted_stopComp _ k cause (State.faulted_restart _ k k cause (.inl rfl))
  · split
    · exact State.faulted_warmReset _ k cause hup hk
    · exact State.faulted_restart _ k k cause (.inl rfl)

/-- An access that a component's windows do not permit is a fault of it (R279). -/
theorem State.faulted_faultOf (s : State) (k : Comp) (cause : Nat) (hruns : s.compRuns k = true) (hup : s.firmwareUp = true)
    (h1 : k ≠ .kernel) (h2 : k ≠ .boot) : (s.faultOf k cause).Faulted k cause := by
  have e : s.faultOf k cause = s.compFault k cause := by simp [State.faultOf, hup, h1, h2, hruns]
  rw [e]
  exact s.faulted_compFault k cause hup (mem_compsOf h1 h2)

/-- A write without effect is denied (R279, R352). -/
theorem denied_denied (who : Who) (a : Area) (s : State) : Denied who a s (.next (s.denied who a)) := by
  refine ⟨fun h => ?_, ?_⟩
  · cases who with
    | fw c => simp [State.denied, h c rfl]
    | host | mgmt => rfl
  · rintro c rfl hc hruns hup h1 h2
    have e : s.denied (.fw c) a = s.faultOf c 1 := by simp [State.denied, hc]
    exact ⟨_, rfl, e ▸ s.faulted_faultOf c 1 hruns hup h1 h2⟩

/-! ### Global events -/

@[simp] theorem raiseGevt_gevten (x : HostFn) (b : Nat) : (raiseGevt x b).gevten = x.gevten := by
  unfold raiseGevt
  split <;> rfl

@[simp] theorem raiseGevt_gvec (x : HostFn) (b : Nat) : (raiseGevt x b).gvec = x.gvec := by
  unfold raiseGevt
  split <;> rfl

/-- An event never clears the pending bit of a vector. -/
theorem raiseGevt_pend (x : HostFn) (b v : Nat) (h : (x.vec v).pend = true) : ((raiseGevt x b).vec v).pend = true := by
  unfold raiseGevt
  split
  · simp only [HostFn.vec_updVec]
    split
    · rfl
    · exact h
  · exact h

/-- A bit that rises while it is enabled signals GVEC (R356). -/
theorem raiseGevt_signals (x : HostFn) (b : Nat) (hb : x.gevt.getLsbD b = false) (he : x.gevten.getLsbD b = true) :
    ((raiseGevt x b).vec x.gvec.toNat).pend = true := by
  simp [raiseGevt, hb, he]

theorem mem_onesOf (n x i : Nat) : i ∈ onesOf n x ↔ i < n ∧ x.testBit i = true := by
  simp [onesOf]

/-- After a list of events, the bits that stood and those of the list stand. -/
theorem gevt_foldl_raiseGevt (bs : List Nat) (i : Nat) (hi : i < 6) : ∀ x : HostFn,
    (bs.foldl raiseGevt x).gevt.getLsbD i = (x.gevt.getLsbD i || decide (i ∈ bs)) := by
  induction bs with
  | nil => simp
  | cons b bs ih =>
    intro x
    rw [List.foldl_cons, ih, raiseGevt_bit x b i hi, Bool.or_assoc]
    congr 1
    simp [Bool.decide_or]

/-- An event of the list whose bit stood at 0 and is enabled signals GVEC. -/
theorem pend_foldl_raiseGevt (bs : List Nat) (i : Nat) (hi : i < 6) (hmem : i ∈ bs) : ∀ x : HostFn,
    x.gevt.getLsbD i = false → x.gevten.getLsbD i = true → ((bs.foldl raiseGevt x).vec x.gvec.toNat).pend = true := by
  induction bs with
  | nil => cases hmem
  | cons b bs ih =>
    intro x hx he
    rw [List.foldl_cons]
    by_cases hib : i = b
    · subst hib
      exact foldl_keeps (fun y : HostFn => (y.vec x.gvec.toNat).pend = true) raiseGevt (fun y b => raiseGevt_pend y b _) bs _
        (raiseGevt_signals x i hx he)
    · have hbit : (raiseGevt x b).gevt.getLsbD i = false := by simp [raiseGevt_bit x b i hi, hx, hib]
      have h := ih ((List.mem_cons.1 hmem).resolve_left hib) (raiseGevt x b) hbit (by rwa [raiseGevt_gevten])
      rwa [raiseGevt_gvec] at h

/-- A write to GEVT clears the bits written 1, but for those of events that occur again (R356). -/
theorem HostFn.clearGevt_bit (x : HostFn) (v : W64) (again : BitVec 6) (i : Nat) (hi : i < 6) :
    (x.clearGevt v again).gevt.getLsbD i = (again.getLsbD i || (x.gevt.getLsbD i && !v.getLsbD i)) := by
  have hagain : decide (i ∈ onesOf 6 again.toNat) = again.getLsbD i := by
    simp [mem_onesOf, hi, BitVec.testBit_toNat]
  unfold HostFn.clearGevt
  rw [gevt_foldl_raiseGevt _ i hi, hagain, Bool.or_comm]
  simp [hi, show i < 64 by omega]

/-- An event that occurs again, its bit cleared and enabled, signals GVEC once more. -/
theorem HostFn.clearGevt_signals (x : HostFn) (v : W64) (again : BitVec 6) (i : Nat) (hi : i < 6) (ha : again.getLsbD i = true)
    (hx : (x.gevt.getLsbD i && !v.getLsbD i) = false) (he : x.gevten.getLsbD i = true) :
    ((x.clearGevt v again).vec x.gvec.toNat).pend = true := by
  refine pend_foldl_raiseGevt _ i hi ?_ { x with gevt := x.gevt &&& ~~~ v.setWidth 6 } ?_ he
  · simpa [mem_onesOf, hi, BitVec.testBit_toNat] using ha
  · simpa [hi, show i < 64 by omega] using hx

theorem HostFn.clearGevt_none_vecs (x : HostFn) (v : W64) : (x.clearGevt v 0).vecs = x.vecs := rfl

/-- A change of SEALOK raises event 3 in every copy (Table 15-16). -/
theorem State.allEvents_globalEvent (s : State) (b : Nat) (hb : b < 6) : AllEvents b (s.globalEvent b) := by
  intro h
  rw [State.host_globalEvent, raiseGevt_bit _ b b hb]
  simp

/-! ### What the commands do -/

theorem exec_gevtClear (tag page : HF) (v : W64) (again : BitVec 6) (s : State) : exec (.gevtClear tag page v again) s =
    if s.writes (.host tag) (.host page) then .next (s.updHost page fun x => x.clearGevt v again) else .next s := rfl

theorem exec_vctlWrite (tag page : HF) (k : Fin 64) (v : W64) (s : State) : exec (.vctlWrite tag page k v) s =
    if s.writes (.host tag) (.host page) then .next (s.vctlWrite page k.val v) else .next s := rfl

theorem exec_hold (who : Who) (on : Bool) (s : State) : exec (.hold who on) s =
    if s.writes who .gctl then .next (s.setHold on) else .next (s.denied who .gctl) := rfl

theorem exec_sealen (who : Who) (on : Bool) (s : State) : exec (.sealen who on) s =
    if s.writes who .gctl then .next (s.setSealen on) else .next (s.denied who .gctl) := rfl

/-- A write of the window but for one of a host function to a doorbell page (R350 to R352). -/
theorem exec_registerWrite {who : Who} {off : Nat} (hd : ∀ g m, who = .host g → (areaOf off).1 ≠ .doorbell m) (size : Nat) (v : W64)
    (s : State) : exec (.registerWrite who off size v) s =
      if s.writeTakes who off size then .next (s.regWrite off v) else .next (s.denied who (areaOf off).1) := by
  show execRegisterWrite who off size v s = _
  unfold execRegisterWrite
  split
  case h_1 g m harea => exact absurd harea (hd g m rfl)
  case h_2 => rfl

/-! ### Registers of a host function -/

section HostRegisters

variable {s : State} {h : HF}

theorem onlyHost_updHost (s : State) (h : HF) (f : HostFn → HostFn) : OnlyHost h s (s.updHost h f) :=
  ⟨rfl, fun g hg => by rw [State.host_updHost, if_neg hg]⟩

@[simp] theorem State.host_updHost_same (s : State) (h : HF) (f : HostFn → HostFn) : (s.updHost h f).host h = f (s.host h) := by
  rw [State.host_updHost, if_pos rfl]

theorem areaOf_host (h : HF) {o : Nat} (ho : o < 0x1000) : areaOf (0x10000 + 0x1000 * h.val + o) = (.host h, o) := by
  have hh := h.isLt
  unfold areaOf
  rw [if_neg (by omega), if_neg (by omega), if_pos (by omega)]
  refine Prod.ext (congrArg Area.host (Fin.ext ?_)) ?_
  · show (0x10000 + 0x1000 * h.val + o) / 0x1000 % 16 = h.val
    omega
  · show (0x10000 + 0x1000 * h.val + o) % 0x1000 = o
    omega

/-- A host function's write of 8 aligned bytes of its own page reaches the register (R350). -/
theorem exec_registerWrite_host (hw : s.writes (.host h) (.host h) = true) {o : Nat} (ho : o < 0x1000) (ha : o % 8 = 0) (v : W64) :
    exec (.registerWrite (.host h) (0x10000 + 0x1000 * h.val + o) 8 v) s = .next (s.writeHost h o v) := by
  have hal : (0x10000 + 0x1000 * h.val + o) % 8 = 0 := by omega
  have htakes : s.writeTakes (.host h) (0x10000 + 0x1000 * h.val + o) 8 = true := by
    simp [State.writeTakes, areaOf_host h ho, hw, hal]
  rw [exec_registerWrite (by simp [areaOf_host h ho]), if_pos htakes, State.regWrite, areaOf_host h ho]

/-- Such a write completes with what it makes of the host function's page. -/
theorem runs_registerWrite_host (hw : s.writes (.host h) (.host h) = true) {o : Nat} (ho : o < 0x1000) (ha : o % 8 = 0) {v : W64}
    {f : HostFn → HostFn} (hf : s.writeHost h o v = s.updHost h f) {P : State → Prop} (hP : P (s.updHost h f)) :
    Runs (.registerWrite (.host h) (0x10000 + 0x1000 * h.val + o) 8 v) s P :=
  ⟨_, exec_registerWrite_host hw ho ha v, hf ▸ hP⟩

/-- Where the write changes the host function alone, it does so by its function. -/
theorem runs_registerWrite_becomes (hw : s.writes (.host h) (.host h) = true) {o : Nat} (ho : o < 0x1000) (ha : o % 8 = 0) {v : W64}
    (f : HostFn → HostFn) (hf : s.writeHost h o v = s.updHost h f) :
    Runs (.registerWrite (.host h) (0x10000 + 0x1000 * h.val + o) 8 v) s fun t => t.host h = f (s.host h) ∧ OnlyHost h s t :=
  runs_registerWrite_host hw ho ha hf ⟨State.host_updHost_same s h f, onlyHost_updHost s h f⟩

theorem writeHost_addr (k : Fin 64) (v : W64) :
    s.writeHost h (0x100 + 16 * k.val) v = s.updHost h fun x => x.updVec k.val fun e => { e with addr := (v >>> 2).setWidth 62 } := by
  have hk := k.isLt
  unfold State.writeHost
  rw [if_neg (by omega), if_neg (by omega), if_neg (by omega), if_pos (by omega)]
  simp only [show (0x100 + 16 * k.val) % 16 = 0 by omega, show (0x100 + 16 * k.val - 0x100) / 16 = k.val by omega, if_true]

theorem writeHost_areq (k : Fin 8) (v : W64) :
    s.writeHost h (0x800 + 8 * k.val) v = s.updHost h fun x => { x with areq := tset 0 x.areq k.val v } := by
  have hk := k.isLt
  unfold State.writeHost
  rw [if_neg (by omega), if_neg (by omega), if_neg (by omega), if_neg (by omega), if_pos (by omega)]
  simp only [show (0x800 + 8 * k.val - 0x800) / 8 = k.val by omega]

theorem writeHost_fbent (k : Fin 4) (v : W64) : s.writeHost h (0x900 + 8 * k.val) v =
    if s.fbWritable then s.updHost h fun x => { x with fbent := tset 0 x.fbent k.val v } else s := by
  have hk := k.isLt
  unfold State.writeHost
  rw [if_neg (by omega), if_neg (by omega), if_neg (by omega), if_neg (by omega), if_neg (by omega), if_neg (by omega),
    if_neg (by omega), if_neg (by omega), if_pos (by omega)]
  simp only [show (0x900 + 8 * k.val - 0x900) / 8 = k.val by omega]

end HostRegisters

/-! ### Vectors -/

/-- A vector that is unmasked while pending and due sends its message; otherwise the write takes its fields (R357). -/
theorem State.vctlWrite_eq (s : State) (h : HF) (k : Nat) (v : W64) : s.vctlWrite h k v =
    if ((s.host h).vec k).mask = true ∧ (((s.host h).vec k).setCtl v).due s.clk.nclk = true then
      (s.updHost h fun x => x.updVec k fun e => e.setCtl v).sendMessage h k s.clk.nclk
    else s.updHost h fun x => x.updVec k fun e => e.setCtl v := by
  simp [State.vctlWrite]

/-- A message clears PEND of its vector and keeps the time. -/
theorem State.host_sendMessage (s : State) (h : HF) (v m : Nat) :
    (s.sendMessage h v m).host h = (s.host h).updVec v fun e => { e with pend := false, last := some m } :=
  State.host_updHost_same s h fun x => x.updVec v fun e => { e with pend := false, last := some m }

/-- A vector that sends: PEND clears, the time of the message is kept, and the message goes out (R357). -/
theorem vctlWrite_sends {s : State} {h : HF} (hw : s.writes (.host h) (.host h) = true) (k : Fin 64) (v : W64)
    (hm : ((s.host h).vec k.val).mask = true) (hd : (((s.host h).vec k.val).setCtl v).due s.clk.nclk = true) :
    Runs (.vctlWrite h h k v) s fun t =>
      (t.host h).vec k.val = { ((s.host h).vec k.val).setCtl v with pend := false, last := some s.clk.nclk } ∧
      t.out = s.out ++ [.message h k.val (((s.host h).vec k.val).addr ++ (0 : BitVec 2)) (((s.host h).vec k.val).setCtl v).data] ∧
      t = { s with hosts := t.hosts, out := t.out } := by
  refine ⟨(s.updHost h fun x => x.updVec k.val fun e => e.setCtl v).sendMessage h k.val s.clk.nclk, ?_, ?_, ?_, rfl⟩
  · rw [exec_vctlWrite, if_pos hw, State.vctlWrite_eq, if_pos ⟨hm, hd⟩]
  · rw [State.host_sendMessage]
    simp
  · simp [State.sendMessage, State.emit, EvVec.setCtl]

theorem vctlWrite_quiet {s : State} {h : HF} (hw : s.writes (.host h) (.host h) = true) (k : Fin 64) (v : W64)
    (hs : ¬ (((s.host h).vec k.val).mask = true ∧ (((s.host h).vec k.val).setCtl v).due s.clk.nclk = true)) :
    Runs (.vctlWrite h h k v) s fun t => (t.host h).vec k.val = ((s.host h).vec k.val).setCtl v ∧ OnlyHost h s t := by
  refine ⟨s.updHost h fun x => x.updVec k.val fun e => e.setCtl v, ?_, ?_, onlyHost_updHost s h _⟩
  · rw [exec_vctlWrite, if_pos hw, State.vctlWrite_eq, if_neg hs]
  · simp

/-- GEVT_CLEAR (R356). -/
theorem gevtClear_runs {s : State} {h : HF} (hw : s.writes (.host h) (.host h) = true) (v : W64) (again : BitVec 6) :
    Runs (.gevtClear h h v again) s fun t =>
      (∀ i, i < 6 → (t.host h).gevt.getLsbD i = (again.getLsbD i || ((s.host h).gevt.getLsbD i && !v.getLsbD i))) ∧
      ((∃ i, i < 6 ∧ again.getLsbD i = true ∧ ((s.host h).gevt.getLsbD i && !v.getLsbD i) = false ∧ (s.host h).gevten.getLsbD i = true) →
        ((t.host h).vec (s.host h).gvec.toNat).pend = true) ∧
      (again = 0 → (t.host h).vecs = (s.host h).vecs) ∧ OnlyHost h s t := by
  refine ⟨s.updHost h fun x => x.clearGevt v again, ?_, ?_, ?_, ?_, onlyHost_updHost s h _⟩
  · rw [exec_gevtClear, if_pos hw]
  · intro i hi
    rw [State.host_updHost_same, HostFn.clearGevt_bit _ v again i hi]
  · rintro ⟨i, hi, ha, hx, he⟩
    rw [State.host_updHost_same]
    exact HostFn.clearGevt_signals _ v again i hi ha hx he
  · rintro rfl
    rw [State.host_updHost_same, HostFn.clearGevt_none_vecs]

/-- FBENT takes a write before BANKED alone (R359). -/
theorem registerWrite_fbent {s : State} {h : HF} (hw : s.writes (.host h) (.host h) = true) (k : Fin 4) (v : W64) :
    (s.fbWritable = true → Runs (.registerWrite (.host h) (0x10000 + 0x1000 * h.val + (0x900 + 8 * k.val)) 8 v) s fun t =>
      t.host h = { s.host h with fbent := (t.host h).fbent } ∧ tget (t.host h).fbent k.val 0 = v ∧
      (∀ i, i ≠ k.val → tget (t.host h).fbent i 0 = tget (s.host h).fbent i 0) ∧ OnlyHost h s t) ∧
    (s.fbWritable = false → exec (.registerWrite (.host h) (0x10000 + 0x1000 * h.val + (0x900 + 8 * k.val)) 8 v) s = .next s) := by
  have hk := k.isLt
  refine ⟨fun hf => ?_, fun hf => ?_⟩
  · refine runs_registerWrite_host hw (by omega) (by omega) ((writeHost_fbent k v).trans (if_pos hf)) ⟨?_, ?_, ?_, onlyHost_updHost s h _⟩
    · simp
    · simp
    · intro i hi
      rw [State.host_updHost_same, tget_tset_ne _ _ _ hi]
  · rw [exec_registerWrite_host hw (by omega) (by omega), writeHost_fbent, hf]
    rfl

/-- A write of SEALEN: the bit, and event 3 in every copy of GEVT where SEALOK changes (Table 15-16). -/
theorem State.setSealen_changes (s : State) (on : Bool) :
    (s.setSealen on).ctl = { s.ctl with sealen := on } ∧ ((s.setSealen on).sealOk = s.sealOk → (s.setSealen on).hosts = s.hosts) ∧
      ((s.setSealen on).sealOk ≠ s.sealOk → AllEvents 3 (s.setSealen on)) ∧
      s.setSealen on = { s with ctl := (s.setSealen on).ctl, hosts := (s.setSealen on).hosts } := by
  have hframe := State.withSealEvent_frame s { s with ctl := { s.ctl with sealen := on } }
  have hctl : (s.setSealen on).ctl = { s.ctl with sealen := on } := by rw [State.setSealen, hframe]
  have hseal : (s.setSealen on).sealOk = State.sealOk { s with ctl := { s.ctl with sealen := on } } := by
    rw [State.setSealen, hframe]
    rfl
  refine ⟨hctl, ?_, ?_, hctl ▸ hframe⟩
  · intro h
    rw [hseal] at h
    simp [State.setSealen, State.withSealEvent, h]
  · intro h
    rw [hseal] at h
    have hne : (s.sealOk != State.sealOk { s with ctl := { s.ctl with sealen := on } }) = true := bne_iff_ne.2 h.symm
    rw [State.setSealen, State.withSealEvent, if_pos hne]
    exact State.allEvents_globalEvent _ 3 (by decide)

/-- HOLD and SEALEN of PTU_GCTL (Table 15-11). -/
theorem gctl_runs {s : State} {who : Who} (hw : s.writes who .gctl = true) (v : W64) (on : Bool) :
    (Runs (.hold who on) s fun t => t = { s with ctl := { s.ctl with hold := on } }) ∧
    (Runs (.sealen who on) s fun t => t.ctl = { s.ctl with sealen := on } ∧ (t.sealOk = s.sealOk → t.hosts = s.hosts) ∧
      (t.sealOk ≠ s.sealOk → AllEvents 3 t) ∧ t = { s with ctl := t.ctl, hosts := t.hosts }) ∧
    (Runs (.registerWrite who 0x1000 8 v) s fun t => t.ctl = { s.ctl with hold := v.getLsbD 0, sealen := v.getLsbD 1 }) := by
  refine ⟨⟨s.setHold on, ?_, rfl⟩, ⟨s.setSealen on, ?_, s.setSealen_changes on⟩,
    ⟨(s.setSealen (v.getLsbD 1)).setHold (v.getLsbD 0), ?_, ?_⟩⟩
  · rw [exec_hold, if_pos hw]
  · rw [exec_sealen, if_pos hw]
  · have htakes : s.writeTakes who 0x1000 8 = true := by simp [State.writeTakes, areaOf, hw]
    rw [exec_registerWrite (by simp [areaOf]), if_pos htakes]
    rfl
  · obtain ⟨hctl, -⟩ := s.setSealen_changes (v.getLsbD 1)
    rw [State.setHold, hctl]

/-- A write of the window that does not take effect is denied (R350 to R352). -/
theorem registerWrite_denied {s : State} {who : Who} {off size : Nat} (v : W64)
    (hd : ∀ g m, who = .host g → (areaOf off).1 ≠ .doorbell m) (ht : s.writeTakes who off size = false) :
    Denied who (areaOf off).1 s (exec (.registerWrite who off size v) s) := by
  rw [exec_registerWrite hd, ht]
  exact denied_denied who _ s

/-- A doorbell page takes doorbells (R251). -/
theorem registerWrite_doorbell {s : State} {off o size : Nat} {h m : HF} (v : W64) (ha : areaOf off = (.doorbell m, o)) :
    exec (.registerWrite (.host h) off size v) s = exec (.doorbell h m o size v) s := by
  show execRegisterWrite (.host h) off size v s = execDoorbell h m o size v s
  simp [execRegisterWrite, ha]

/-- Settles O46: each register by what its write makes of the host function, and a write without effect by what its denial does. -/
theorem registerWrites : Obligations.RegisterWrites := by
  intro h v s at_
  refine ⟨fun hw => ⟨gevtClear_runs hw v, fun k => ⟨fun ⟨hm, hd⟩ => vctlWrite_sends hw k v hm hd, vctlWrite_quiet hw k v⟩, ?gevten,
    ?gvec, ?addr, ?areq, ?ovf, ?fbErr, fun k => registerWrite_fbent hw k v, ?unassigned⟩, fun who on hw => gctl_runs hw v on, ?denied, ?foreign,
    fun who off size hd ht => registerWrite_denied v hd ht, fun off m o size ha => registerWrite_doorbell v ha⟩
  case gevten => exact runs_registerWrite_becomes hw (by decide) (by decide) (fun x => { x with gevten := v.setWidth 6 }) rfl
  case gvec => exact runs_registerWrite_becomes hw (by decide) (by decide) (fun x => { x with gvec := v.setWidth 6 }) rfl
  case addr =>
    intro k
    have hk := k.isLt
    refine runs_registerWrite_host hw (by omega) (by omega) (writeHost_addr k v) ⟨by simp, fun i hi => ?_, onlyHost_updHost s h _⟩
    simp [hi]
  case areq =>
    intro k
    have hk := k.isLt
    refine runs_registerWrite_host hw (by omega) (by omega) (writeHost_areq k v) ⟨by simp, fun i hi => ?_, onlyHost_updHost s h _⟩
    rw [State.host_updHost_same, tget_tset_ne _ _ _ hi]
  case ovf => exact runs_registerWrite_becomes hw (by decide) (by decide) (fun x => { x with ovf := x.ovf && !v.getLsbD 16 }) rfl
  case fbErr => exact runs_registerWrite_becomes hw (by decide) (by decide) (fun x => { x with fbErr := x.fbErr && !v.getLsbD 2 }) rfl
  case unassigned => exact exec_registerWrite_host hw (by decide) (by decide) v
  case denied =>
    intro who on hw
    have hhold : exec (.hold who on) s = .next (s.denied who .gctl) := by simp [exec_hold, hw]
    have hsealen : exec (.sealen who on) s = .next (s.denied who .gctl) := by simp [exec_sealen, hw]
    rw [hhold, hsealen]
    exact ⟨denied_denied who _ s, denied_denied who _ s⟩
  case foreign =>
    intro g again k hw
    exact ⟨by simp [exec_gevtClear, hw], by simp [exec_vctlWrite, hw]⟩

end Sys2Proof.Machine
end
